-- ==== Sys2Proof/Word.lean ====
section
/-!
DEFINITION. Word.lean: the word types of the K4 (00 R4: little-endian, bit 0 least significant) and their plainest arithmetic.
-/
namespace Sys2Proof

/-- One byte of memory. -/
abbrev Byte := BitVec 8

/-- A 32-bit register or word. -/
abbrev Word := BitVec 32

/-- A 64-bit pair, instruction word, clause header or address. -/
abbrev DWord := BitVec 64

/-- A mask of the 32 lanes of a warp, bit l for lane l (02 R23). -/
abbrev LaneMask := BitVec 32

/-- A field naming a register, an immediate or an index (03 R49). -/
abbrev Field := BitVec 8

/-- Data of one 128-byte line, byte i in bits [8i+7:8i] (10 R262). -/
abbrev LineData := BitVec 1024

/-- One bit for each byte of a line. -/
abbrev LineMask := BitVec 128

end Sys2Proof
end

