-- ==== Sys2Proof/Config.lean ====
section
/-!
DEFINITION. Config.lean: what is fixed for the module (sizes, ladder, numbers) and the FREE VALUES: constants without a body, so that no proof
can see what they are. Every free value is named in the assumption log (entries 5, 6, 10, 13).
-/
namespace Sys2Proof.Config

/-- A fresh free word; applied to the counter State.nonce (log entry 5, DESIGN CHOICE). -/
opaque freeWord : Nat → BitVec 32

/-- The free byte that an undefined area (serial number, address) reads as until it is written (02 R40; log entry 5, DESIGN CHOICE). -/
opaque freeByte : Nat → Nat → BitVec 8

/-- The special functions' own choice of result, a fixed map of operation and input (05 R134; log entry 6, DESIGN CHOICE). -/
opaque sfChoice : Nat → BitVec 32 → BitVec 32

/-- KIND of the violation-log entry of an ERROR action's PROTOCOL response (10 R269): the manual gives the response an entry and no code (16 R388; log
entry 39, DESIGN CHOICE). -/
opaque protocolLogKind : BitVec 8

/-- The placer's, dispatcher's and allocators' unstated choices where one of several is allowed (12 R298, R307; log entry 7, DESIGN CHOICE). -/
opaque pick : Nat → Nat

/-- SHA-256 of a byte list, named and not defined by the manual (16 R395, R397; log entry 10, PRESUMED). -/
opaque sha256 : List (BitVec 8) → BitVec 256

/-- ECDSA P-256 verification: public key bytes, digest, signature bytes (16 R395; log entry 10, PRESUMED). -/
opaque ecdsaVerify : List (BitVec 8) → BitVec 256 → List (BitVec 8) → Bool

/-- The signature the identity key makes over a digest (16 R396, R398; log entry 10, PRESUMED). -/
opaque ecdsaSign : BitVec 256 → List (BitVec 8)

/-- Digest of the signing key, fused at manufacture (16 R395; log entry 10, PRESUMED). -/
opaque keyDigest : BitVec 256
/-- The fused minimum security version as manufactured, and the fuses that DBGST shows (16 R389, R395; log entry 10, PRESUMED). -/
opaque fusedSecver : BitVec 32
opaque fusedDbgst : BitVec 32
/-- The boot ROM's bytes (16 R397; log entry 10, PRESUMED). -/
opaque bootRom : List (BitVec 8)
/-- The firmware image that CD0's boot ROM finds (16 R395; log entry 9, DESIGN CHOICE). -/
opaque firmware : List (BitVec 8)
/-- Fields of a firmware image: the manual names them and states no place for them (16 R395; log entry 9, DESIGN CHOICE). -/
opaque fwKey : List (BitVec 8) → List (BitVec 8)
opaque fwSignature : List (BitVec 8) → List (BitVec 8)
opaque fwDigest : List (BitVec 8) → BitVec 256
opaque fwVersion : List (BitVec 8) → BitVec 32
opaque fwBody : List (BitVec 8) → List (BitVec 8)
/-- The security version that a verified image raises SECVER to, if it is higher (16 R395; log entry 9, DESIGN CHOICE). -/
opaque fwRaises : List (BitVec 8) → BitVec 32
/-- Bytes of SPDM responses whose values the manual leaves to the responder (16 R398; log entry 10, PRESUMED). -/
opaque spdmByte : Nat → BitVec 8

/-- The certificate chain presented in SPDM slot 0 (16 R396; log entry 10, PRESUMED). -/
opaque certChain : List (BitVec 8)

/-- Bytes that a save image takes, by its serial number: USED has 8 bytes, and an image is not empty (17 R411; log entry 13, DESIGN CHOICE). -/
opaque imageSize : Nat → BitVec 64
def imageBytes (serial : Nat) : Nat := max 1 (imageSize serial).toNat

/-- Bytes of a save image, by its serial number and offset: the manual states what an image holds and not how it is written (17 R409; log entry 13, DESIGN CHOICE). -/
opaque imageByte : Nat → Nat → BitVec 8

/-- Events counted by a per-context counter: event code, context, counter and time (14 R369, 16 R380; log entry 12, DESIGN CHOICE). -/
opaque perfEvents : Nat → Nat → Nat → Nat → BitVec 64

/-- Whether training a link at a step succeeds: die, link, step, attempt (17 R414, R417; log entry 2, DESIGN CHOICE). -/
opaque trains : Nat → Nat → Nat → Nat → Bool

/-- Whether a replayed flit passes its CRC (17 R415; log entry 2, DESIGN CHOICE). -/
opaque flitIntact : Nat → Bool

/-- How many arithmetic clocks pass before a step that an agent owes is taken; the manual states no time for it (log entry 2, DESIGN CHOICE). -/
opaque latency : Nat → Nat

/-- Set of a fabric-cache bank that a line address maps to (08 R228 states no rule; log entry 7, DESIGN CHOICE). -/
opaque fabricSet : Nat → Nat

/-- Compute dies (01 R8). -/
def nDies : Nat := 4
/-- Memory-side dies (01 R8). -/
def nHomes : Nat := 16
/-- Cores of one compute die (01 R14). -/
def coresPerDie : Nat := 192
/-- Warp slots of a core (01 R14). -/
def warpSlots : Nat := 16
/-- Bytes of a core's frame store (01 R17, 02 R30): 384 KiB. -/
def frameBytes : Nat := 393216
/-- KiB of a core's stage memory (01 R17). -/
def stageKiB : Nat := 256
/-- Installed DRAM in bytes: 1,280 GB (01 R17). Physical addresses from here up are host memory (log entry 11, DESIGN CHOICE). -/
def dramBytes : Nat := 1280000000000
/-- Lines of a compute die's near-home L2, of its RDC, and of a home slice: 48, 32 and 64 MiB (01 R8, R17). -/
def l2Lines : Nat := 393216
def rdcLines : Nat := 262144
def sliceLines : Nat := 524288
/-- Queues of the module (12 R287). -/
def nQueues : Nat := 4096
/-- Queue slots (12 R290). -/
def queueSlots : Nat := 256
/-- Entries of an Almanac's matching store (12 R297). -/
def almanacEntries : Nat := 512
/-- Iteration tags of a core (02 R31). -/
def coreTags : Nat := 1024
/-- Writes the sink reorder unit holds (13 R328). -/
def reorderEntries : Nat := 256
/-- Matching-store entries of a cell (13 R318). -/
def cellEntries : Nat := 64
/-- Clocks without a retirement before a configuration is drained (13 R326). -/
def stallClocks : Nat := 65536
/-- The steps a link can run at, in GT/s (17 R414). -/
def ladder : List Nat := [24, 28, 32, 36, 40, 44, 48]
/-- The poison word of a load that got an error response (08 R212). -/
def poison : BitVec 32 := 0x7FF00BAD#32

end Sys2Proof.Config
end

