-- ==== Sys2Proof/Machine/Codes.lean ====
section
/-!
DEFINITION. Machine/Codes.lean: status and trap codes, as the manual numbers them (17 R399 and the entries named).
-/
namespace Sys2Proof.Machine

/-- A status of the K4 in a register: bit 31 marks an exception status (16 R393). -/
def excStatus (code : Nat) : BitVec 32 := 0x80000000#32 ||| BitVec.ofNat 32 code

-- Encoding, operand and program traps (17 R399).
def kIllegalOpcode : Nat := 0x0E01
def kReservedField : Nat := 0x0E02
def kIllegalClause : Nat := 0x0E03
def kRegRange : Nat := 0x0E04
def kPrivilege : Nat := 0x0E05
def kCsrNum : Nat := 0x0E06
def kOrphanRead : Nat := 0x0E10
def kSlotFormat : Nat := 0x0E11
def kMisalign : Nat := 0x0E12
def kStageRange : Nat := 0x0E13
def kPrivRange : Nat := 0x0E14
def kCastleRange : Nat := 0x0E15
def kBarCount : Nat := 0x0E16
def kBarState : Nat := 0x0E17
def kTrap : Nat := 0x0E20
def kBreakpoint : Nat := 0x0E21
-- Translation faults.
def kVaRange : Nat := 0x0E30
def kPage : Nat := 0x0E31
def kPerm : Nat := 0x0E32
def kPte : Nat := 0x0E33
def kWindow : Nat := 0x0E34
-- Error responses.
def kTenantWindow : Nat := 0x0E40
def kWoViolation : Nat := 0x0E41
def kVwindow : Nat := 0x0E42
def kProtocol : Nat := 0x0E43
def kEccUncorr : Nat := 0x0E44
def kLostHome : Nat := 0x0E45
def kBtOverlap : Nat := 0x0E46
-- Killing kinds.
def kNested : Nat := 0x0E60
def kSramUncorr : Nat := 0x0E61
def kLostUnit : Nat := 0x0E62
-- Module events.
def evWakeLate : Nat := 0x0801
def evDieLost : Nat := 0x0802
def evLinkDegraded : Nat := 0x0803
def evLaneRetired : Nat := 0x0804

-- Kinds of violation-log entries (16 R388).
def vTenantWindow : Nat := 0x01
def vWoViolation : Nat := 0x02
def vQueueShare : Nat := 0x03
def vBadvec : Nat := 0x04
def vCtxTenant : Nat := 0x05
def vVwindow : Nat := 0x06

/-- Whether a fault of this kind is held for service (17 R423): PAGE, PERM, PTE. -/
def heldKind (k : Nat) : Bool := k == 0x0E31 || k == 0x0E32 || k == 0x0E33
/-- A kind of fault that ends an engine operation in error: VA_RANGE and WINDOW (09 R243). -/
def endingKind (k : Nat) : Bool := k == kVaRange || k == kWindow

end Sys2Proof.Machine
end

