-- ==== Sys2Proof/Syntax.lean ====
section
/-!
DEFINITION. Syntax.lean: instructions and events as data. One constructor per row of the table of operations and events (03 R67 to R76, 95).
A row that is an instruction word carries the decoded fields of the word (03 R49) as one record, and its FN variant as a named choice; a row
that is a step of another agent carries what identifies the step.
-/
namespace Sys2Proof

/-- TY codes (03 R55); codes 0xD and 0xE are reserved and have no constructor. -/
inductive Ty where
  | s8 | s16 | s32 | s64 | n8 | n16 | n32 | n64 | f16 | bf16 | f32 | e4m3 | e5m2 | slot
  deriving DecidableEq, Repr

/-- What B names (03 R51): a register, an imm8, a constant register; or, in a handler entry of the grid only, CONST (13 R331). Forms whose B is not of class X hold it as a register field. -/
inductive BOp where
  | reg (r : Field)
  | imm (v : Field)
  | k (i : Field)
  | const (v : Field)
  deriving DecidableEq, Repr

/-- Scopes (03 R57, 07 R168). -/
inductive Scope where
  | thr | wg | cl | die | dev | sys
  deriving DecidableEq, Repr

/-- A guard (03 R54): predicate 0 to 6, 7 for pt. -/
structure Guard where
  neg : Bool
  p : Fin 8
  deriving DecidableEq, Repr

/-- The decoded fields of an instruction word other than OP and FN (03 R49). -/
structure Operands where
  guard : Guard
  d : Field
  a : Field
  b : BOp
  c : Field
  ty : Ty
  fs : BitVec 3
  sc : Scope
  mod : BitVec 2
  qa : Bool
  fsel : Bool
  deriving DecidableEq, Repr

/-- icmp FN 0 to 5 (05 R117). -/
inductive CmpOp where | eq | ne | lt | le | gt | ge
  deriving DecidableEq, Repr
/-- fcmp FN 0 to 7 (05 R130). -/
inductive FcmpOp where | eq | ne | lt | le | gt | ge | unord | ord
  deriving DecidableEq, Repr
/-- psetp FN 0 to 3 (05 R122). -/
inductive PsetOp where | and | or | xor | andn
  deriving DecidableEq, Repr
/-- xlane FN 0 to 3 (14 R340). -/
inductive XlaneOp where | sel | rot | xor | mir
  deriving DecidableEq, Repr
/-- vote FN 0 to 2 (14 R341). -/
inductive VoteOp where | all | any | eq
  deriving DecidableEq, Repr
/-- match FN 0, 1 (14 R342). -/
inductive MatchOp where | any | all
  deriving DecidableEq, Repr
/-- redux FN 0 to 5 (14 R343). -/
inductive ReduxOp where | add | min | max | and | or | xor
  deriving DecidableEq, Repr
/-- fredux FN 0 to 2 (14 R344). -/
inductive FreduxOp where | add | min | max
  deriving DecidableEq, Repr
/-- scan FN 0 to 3 (14 R345). -/
inductive ScanOp where | add | xadd | min | max
  deriving DecidableEq, Repr
/-- Elements of a group, FN 0 to 2 of the load and store forms (03 R74). -/
inductive GroupN where | one | two | four
  deriving DecidableEq, Repr
/-- prefetch FN 0, 1 (08 R216). -/
inductive CacheLevel where | l1 | llc
  deriving DecidableEq, Repr
/-- atom FN 0 to 6 (08 R217). -/
inductive AtomOp where | add | min | max | and | or | xor | exch
  deriving DecidableEq, Repr
/-- red FN 0 to 5 (08 R220). -/
inductive RedOp where | add | min | max | and | or | xor
  deriving DecidableEq, Repr
/-- cflush FN 0, 1 (08 R231). -/
inductive FlushOp where | wb | inv
  deriving DecidableEq, Repr
/-- waddr FN 0, 1 (08 R232). -/
inductive WaddrOp where | eq | ne
  deriving DecidableEq, Repr
/-- eng.cancel FN 0 to 2 (09 R244). -/
inductive CancelKind where | bt | lay | strm
  deriving DecidableEq, Repr
/-- clock FN 0, 1 (14 R368). -/
inductive ClockKind where | cal | ck
  deriving DecidableEq, Repr
/-- gred FN 0 to 3 (13 R319). -/
inductive GredOp where | addF32 | addN32 | minF32 | maxF32
  deriving DecidableEq, Repr

/-- What the host may hold of a 64-byte half, and MetaValue of M2S MemRd (11 R281): none or I, S, A. -/
inductive HostMark where | none | s | a
  deriving DecidableEq, Repr

/-- Where a storage error lies (17 R418, R419). -/
inductive Storage where
  | dram (pa : Nat)
  | cacheDirty (pa : Nat)
  | cacheClean (die line : Nat)
  | tlb (core : Nat)
  | handlerTable (core cfg : Nat)
  | frameStore (core slot : Nat)
  | stage (core wg : Nat)
  | matching (core slot : Nat)
  | accumulator (cluster wg : Nat)
  | macros (cluster frame : Nat)
  | almanac (tag : Nat)
  deriving DecidableEq, Repr

/-- Instructions and events: one constructor per row of the table. -/
inductive Instr where
  /-- IADD (R107): Integer add, wrapping modulo 2^N. -/
  | iadd (o : Operands)
  /-- ISUB (R107): Integer subtract, wrapping modulo 2^N. -/
  | isub (o : Operands)
  /-- IADD3 (R107): Adds three 32-bit integers, wrapping. -/
  | iadd3 (o : Operands)
  /-- IMUL (R107): Integer multiply, keeping the low half. -/
  | imul (o : Operands)
  /-- IMULHI (R107): Integer multiply, keeping the high 32 bits. -/
  | imulhi (o : Operands)
  /-- IMAD (R107): 32-bit multiply-add, wrapping. -/
  | imad (o : Operands)
  /-- IABS (R107): Signed absolute value, wrapping. -/
  | iabs (o : Operands)
  /-- INEG (R107): Signed negation, wrapping. -/
  | ineg (o : Operands)
  /-- IMIN (R107): Smaller of two integers. -/
  | imin (o : Operands)
  /-- IMAX (R107): Larger of two integers. -/
  | imax (o : Operands)
  /-- IADDC (R108): Unsigned add with carry in and carry out through a predicate. -/
  | iaddc (o : Operands)
  /-- ISUBB (R108): Unsigned subtract with borrow in and borrow out through a predicate. -/
  | isubb (o : Operands)
  /-- ISAD (R107): Sum of absolute differences plus an accumulator. -/
  | isad (o : Operands)
  /-- LEA (R109): Forms the low word of index shifted plus base. -/
  | lea (o : Operands)
  /-- LEA_HI (R109): Forms the high word of a 64-bit shifted index plus base. -/
  | leaHi (o : Operands)
  /-- AND (R110): Bitwise AND. -/
  | andB (o : Operands)
  /-- OR (R110): Bitwise OR. -/
  | orB (o : Operands)
  /-- XOR (R110): Bitwise XOR. -/
  | xorB (o : Operands)
  /-- NOT (R110): Bitwise NOT. -/
  | notB (o : Operands)
  /-- TERN (R111): Any bitwise function of three inputs chosen by an 8-bit truth table. -/
  | tern (o : Operands)
  /-- SHL (R112): Logical shift left. -/
  | shl (o : Operands)
  /-- SHR (R112): Logical shift right. -/
  | shr (o : Operands)
  /-- SAR (R112): Arithmetic shift right. -/
  | sar (o : Operands)
  /-- ROTL (R112): Rotate left. -/
  | rotl (o : Operands)
  /-- FSHL (R113): Funnel shift of a 64-bit pair, keeping the high word. -/
  | fshl (o : Operands)
  /-- BFE (R114): Bit-field extract. -/
  | bfe (o : Operands)
  /-- BFI (R114): Bit-field insert. -/
  | bfi (o : Operands)
  /-- POPC (R115): Population count. -/
  | popc (o : Operands)
  /-- CLZ (R115): Count leading zeros. -/
  | clz (o : Operands)
  /-- CTZ (R115): Count trailing zeros. -/
  | ctz (o : Operands)
  /-- BREV (R115): Bit reversal. -/
  | brev (o : Operands)
  /-- BPERM (R116): Byte permute of an eight-byte value by nibble selectors. -/
  | bperm (o : Operands)
  /-- ICMP (R117): Integer compare into a predicate. -/
  | icmp (op : CmpOp) (o : Operands)
  /-- SEL (R118): Selects one of two values by a predicate. -/
  | sel (o : Operands)
  /-- MOV (R119): Register copy, optionally popping a port register. -/
  | mov (o : Operands)
  /-- MOVI (R120): Replaces one byte of a register with an immediate. -/
  | movi (o : Operands)
  /-- MOVK (R121): Reads a constant register, fixed or per-lane indexed. -/
  | movk (o : Operands)
  /-- PSETP (R122): Logical combination of two predicates. -/
  | psetp (op : PsetOp) (o : Operands)
  /-- P2V (R123): Packs p0-p6 into a register. -/
  | p2v (o : Operands)
  /-- V2P (R123): Sets masked predicates from register bits. -/
  | v2p (o : Operands)
  /-- SRD (R124): Reads a special value into a register. -/
  | srd (o : Operands)
  /-- CVTI (R126): Integer-to-integer conversion, wrapping or saturating. -/
  | cvti (o : Operands)
  /-- PACK (R127): Packs halves or words into a register or pair. -/
  | pack (o : Operands)
  /-- UNPACK (R127): Splits 16-bit halves into a register pair. -/
  | unpack (o : Operands)
  /-- FADD (R128): Binary32 add with one rounding. -/
  | fadd (o : Operands)
  /-- FSUB (R128): Binary32 subtract with one rounding. -/
  | fsub (o : Operands)
  /-- FMUL (R128): Binary32 multiply with one rounding. -/
  | fmul (o : Operands)
  /-- FFMA (R128): Binary32 fused multiply-add with one rounding. -/
  | ffma (o : Operands)
  /-- FMIN (R129): Binary32 minimum with NaN and signed-zero rules. -/
  | fmin (o : Operands)
  /-- FMAX (R129): Binary32 maximum with NaN and signed-zero rules. -/
  | fmax (o : Operands)
  /-- FCMP (R130): Binary32 compare into a predicate. -/
  | fcmp (op : FcmpOp) (o : Operands)
  /-- FCLASS (R131): Tests a binary32 value's class against a mask. -/
  | fclass (o : Operands)
  /-- HADD2 (R132): Packed 16-bit float add. -/
  | hadd2 (o : Operands)
  /-- HMUL2 (R132): Packed 16-bit float multiply. -/
  | hmul2 (o : Operands)
  /-- HFMA2 (R132): Packed 16-bit float fused multiply-add. -/
  | hfma2 (o : Operands)
  /-- HMIN2 (R132): Packed 16-bit float minimum. -/
  | hmin2 (o : Operands)
  /-- HMAX2 (R132): Packed 16-bit float maximum. -/
  | hmax2 (o : Operands)
  /-- FDOT2 (R133): Dot product of packed 16-bit pairs accumulated into binary32. -/
  | fdot2 (o : Operands)
  /-- FRCP (R134): Long-latency reciprocal. -/
  | frcp (o : Operands)
  /-- FRSQ (R134): Long-latency reciprocal square root. -/
  | frsq (o : Operands)
  /-- FSQRT (R134): Long-latency square root. -/
  | fsqrt (o : Operands)
  /-- FEXP2 (R134): Long-latency base-2 exponential. -/
  | fexp2 (o : Operands)
  /-- FLOG2 (R134): Long-latency base-2 logarithm. -/
  | flog2 (o : Operands)
  /-- FSIN (R134): Long-latency sine. -/
  | fsin (o : Operands)
  /-- FCOS (R134): Long-latency cosine. -/
  | fcos (o : Operands)
  /-- FTANH (R134): Long-latency hyperbolic tangent. -/
  | ftanh (o : Operands)
  /-- CVT (R137): Converts one value per lane between integer, float and slot formats. -/
  | cvt (o : Operands)
  /-- CVT_BLK_TO (R139): Encodes the bundle's lanes as one DX block. -/
  | cvtBlkTo (o : Operands)
  /-- CVT_BLK_FROM (R140): Decodes one DX element per lane to binary32. -/
  | cvtBlkFrom (o : Operands)
  /-- XLANE (R340): Reads a value from another lane of the segment. -/
  | xlane (op : XlaneOp) (o : Operands)
  /-- VOTE (R341): Evaluates all, any or eq of a predicate over participating lanes. -/
  | vote (op : VoteOp) (o : Operands)
  /-- VOTE_BALLOT (R341): Writes the mask of participating lanes whose predicate is true. -/
  | voteBallot (o : Operands)
  /-- MATCH (R342): Masks of lanes holding equal values. -/
  | matchLanes (op : MatchOp) (o : Operands)
  /-- REDUX (R343): Integer reduction over participating lanes. -/
  | redux (op : ReduxOp) (o : Operands)
  /-- FREDUX (R344): Binary32 reduction over participating lanes. -/
  | fredux (op : FreduxOp) (o : Operands)
  /-- SCAN (R345): Running prefix result in ascending lane order. -/
  | scan (op : ScanOp) (o : Operands)
  /-- LD (R213): Global load of an element group per lane. -/
  | ld (n : GroupN) (o : Operands)
  /-- ST (R214): Global store of an element group per lane. -/
  | st (n : GroupN) (o : Operands)
  /-- LDS (R213): Stage-memory load. -/
  | lds (n : GroupN) (o : Operands)
  /-- STS (R214): Stage-memory store. -/
  | sts (n : GroupN) (o : Operands)
  /-- LDP (R213): Private-memory load. -/
  | ldp (n : GroupN) (o : Operands)
  /-- STP (R214): Private-memory store. -/
  | stp (n : GroupN) (o : Operands)
  /-- LDC (R215): Load through the constant path. -/
  | ldc (o : Operands)
  /-- PREFETCH (R216): Brings a line into the fabric cache or last-level cache. -/
  | prefetch (lv : CacheLevel) (o : Operands)
  /-- ATOM (R217): Integer or logic read-modify-write returning the old value. -/
  | atom (op : AtomOp) (o : Operands)
  /-- ATOM_CAS (R218): Compare-and-swap returning the old value. -/
  | atomCas (o : Operands)
  /-- ATOM_FADD (R219): Floating-point atomic add returning the old value. -/
  | atomFadd (o : Operands)
  /-- RED (R220): Integer or logic reduction to memory with no result. -/
  | red (op : RedOp) (o : Operands)
  /-- RED_FADD (R219): Floating-point reduction to memory with no result. -/
  | redFadd (o : Operands)
  /-- LDV (R224): Reads a named version of a versioned word. -/
  | ldv (o : Operands)
  /-- STV (R225): Offers a value as the next version of a versioned word. -/
  | stv (o : Operands)
  /-- RECLAIM (R226): Raises a versioned window's floor. -/
  | reclaim (o : Operands)
  /-- FENCE (R227): Fence of acquire, release or sc order at a scope. -/
  | fence (o : Operands)
  /-- LOCK_LINE (R228): Locks a line resident in the core's fabric cache. -/
  | lockLine (o : Operands)
  /-- UNLOCK_LINE (R230): Releases the workgroup's lock on a line. -/
  | unlockLine (o : Operands)
  /-- CFLUSH (R231): Writes back, and optionally drops, a line toward its home. -/
  | cflush (op : FlushOp) (o : Operands)
  /-- WADDR (R232): Sleeps until a stage word matches or a timeout expires. -/
  | waddr (op : WaddrOp) (o : Operands)
  /-- BT_COPY (R239): Starts a block-transfer copy engine thread. -/
  | btCopy (o : Operands)
  /-- BT_GATHER (R239): Starts an indexed gather transfer. -/
  | btGather (o : Operands)
  /-- BT_SCATTER (R239): Starts an indexed scatter transfer. -/
  | btScatter (o : Operands)
  /-- BT_WAIT (R242): Waits for and joins named chunks of a transfer or layout. -/
  | btWait (o : Operands)
  /-- BT_TEST (R242): Tests named chunks without waiting, joining if set. -/
  | btTest (o : Operands)
  /-- STRM_BIND (R249): Queues a stream command for a port register or grid ingress port. -/
  | strmBind (o : Operands)
  /-- WIN_CFG (R254): Hands a window configuration to the cluster's sliding-window unit. -/
  | winCfg (o : Operands)
  /-- LAY (R260): Starts a layout-engine permute, split and merge command. -/
  | lay (o : Operands)
  /-- ENG_CANCEL (R244): Stops a transfer, layout, stream or window operation. -/
  | engCancel (k : CancelKind) (o : Operands)
  /-- MX_POST (R163): Checks a parameter block and posts a matrix operation. -/
  | mxPost (o : Operands)
  /-- MX_WAIT (R164): Waits for and joins a matrix request or block load. -/
  | mxWait (o : Operands)
  /-- MX_POLL (R164): Tests a matrix request or load without waiting. -/
  | mxPoll (o : Operands)
  /-- MX_BLOAD (R163): Binds a block handle and loads a stationary B block. -/
  | mxBload (o : Operands)
  /-- MX_BFREE (R164): Unbinds a block handle. -/
  | mxBfree (o : Operands)
  /-- MX_ACCRD (R165): Joins a request and converts a binary32 result word through a slot. -/
  | mxAccrd (o : Operands)
  /-- BRA (R347): Relative branch per lane. -/
  | bra (o : Operands)
  /-- BRX (R347): Absolute branch per lane. -/
  | brx (o : Operands)
  /-- JCALL (R347): Relative call writing the return address. -/
  | jcall (o : Operands)
  /-- JCALL_IND (R347): Indirect call writing the return address. -/
  | jcallInd (o : Operands)
  /-- RET (R347): Return to an address held in a register pair. -/
  | ret (o : Operands)
  /-- EXIT (R349): Ends active threads after raising due faults and writing back lines. -/
  | exit (o : Operands)
  /-- LOOP (R348): Decrements a counter and branches while non-zero. -/
  | loop (o : Operands)
  /-- YIELD (R350): Asks the front end to prefer other warps next. -/
  | yield (o : Operands)
  /-- NOP (R350): No operation. -/
  | nop (o : Operands)
  /-- TRAP (R351): Raises a precise TRAP with a code. -/
  | trap (o : Operands)
  /-- CAP_OFF (R352): Sets the warp's capture-disable bit. -/
  | capOff (o : Operands)
  /-- CAP_ON (R352): Clears the warp's capture-disable bit. -/
  | capOn (o : Operands)
  /-- BRK (R351): Raises a precise BREAKPOINT. -/
  | brk (o : Operands)
  /-- BAR_INIT (R356): Sets a named barrier's expected count. -/
  | barInit (o : Operands)
  /-- BAR_ARRIVE (R355): Counts arrivals on a barrier, completing a phase at its count. -/
  | barArrive (o : Operands)
  /-- BAR_WAIT (R356): Waits for a barrier phase to complete. -/
  | barWait (o : Operands)
  /-- BAR_SYNC (R356): Arrives on a barrier and waits for its phase. -/
  | barSync (o : Operands)
  /-- CASTLE (R360): Register-donation rendezvous, resolved when every named warp is at its castle. -/
  | castle (o : Operands)
  /-- TAG_OPEN (R361): Allocates an iteration tag in the grid; writes 0 on the front end. -/
  | tagOpen (o : Operands)
  /-- TAG_CLOSE (R361): Frees an iteration's tag at retirement in the grid. -/
  | tagClose (o : Operands)
  /-- SLEEP (R362): Makes lanes not runnable for a number of ticks. -/
  | sleep (o : Operands)
  /-- FLAG_WAIT (R363): Waits until named completion flags are clear. -/
  | flagWait (o : Operands)
  /-- DLAUNCH (R364): Launches a child from a launch record, drawing a device-launch slot. -/
  | dlaunch (o : Operands)
  /-- DWAIT (R365): Parks until a child launch completes, then joins it. -/
  | dwait (o : Operands)
  /-- QPOST (R366): Appends a packet to a queue and kicks it. -/
  | qpost (o : Operands)
  /-- QKICK (R367): Writes a queue's kick register from a kernel. -/
  | qkick (o : Operands)
  /-- CLOCK (R368): Reads the Calends or arithmetic-clock counter. -/
  | clock (k : ClockKind) (o : Operands)
  /-- PERFRD (R369): Reads a performance counter. -/
  | perfrd (o : Operands)
  /-- CSRR (R391): Reads a CSR. -/
  | csrr (o : Operands)
  /-- CSRW (R391): Writes a CSR that has no row of its own. -/
  | csrw (o : Operands)
  /-- TLBINV_PAGE (R392): Starts invalidating one page of a context. -/
  | tlbinvPage (o : Operands)
  /-- TLBINV_RANGE (R392): Starts invalidating a page range of a context. -/
  | tlbinvRange (o : Operands)
  /-- TLBINV_CTX (R392): Starts invalidating every page of a context. -/
  | tlbinvCtx (o : Operands)
  /-- TLBINV_ALL (R392): Starts invalidating every page of every context. -/
  | tlbinvAll (o : Operands)
  /-- TLBSYNC (R393): Completes when the warp's earlier invalidates have completed module-wide. -/
  | tlbsync (o : Operands)
  /-- ERET (R394): Returns from a trap, restoring mode and resuming. -/
  | eret (o : Operands)
  /-- FAULT_DONE (R406): Resumes or marks for drain a parked grid token. -/
  | faultDone (o : Operands)
  /-- PTAB_LOAD (R278): Checks and loads a protocol table into an opening slot on every die. -/
  | ptabLoad (o : Operands)
  /-- PRANGE_SET (R272): Sets or changes a range entry selecting an opening. -/
  | prangeSet (o : Operands)
  /-- PRANGE_CLEAR (R272): Clears a range entry, reverting it to slot 0. -/
  | prangeClear (o : Operands)
  /-- LINK_CTL_RD (R417): Reads a link counter. -/
  | linkCtlRd (o : Operands)
  /-- LINK_CTL_RATE (R417): Retrains a link at a ladder step. -/
  | linkCtlRate (o : Operands)
  /-- LINK_CTL_RETIRE (R417): Retires a link lane. -/
  | linkCtlRetire (o : Operands)
  /-- LINK_CTL_CLR (R417): Clears link error counters. -/
  | linkCtlClr (o : Operands)
  /-- CTX_SAVE (R408): Drains and saves a context to an image. -/
  | ctxSave (o : Operands)
  /-- CTX_RESUME (R412): Resumes a context from its image on chosen dies. -/
  | ctxResume (o : Operands)
  /-- GRED (R319): Grid reduction-by-tag of present operands. -/
  | gred (op : GredOp) (o : Operands)
  /-- GMRG (R319): Grid merge of two tokens with disjoint lane masks. -/
  | gmrg (o : Operands)
  /-- GDLY (R319): Grid delay forwarding a token after C clocks. -/
  | gdly (o : Operands)
  /-- GJOIN (R319): Grid join releasing tokens in static-index order. -/
  | gjoin (o : Operands)
  /-- UDIV (R372): RKL unsigned divide, expanded by dreyf. -/
  | udiv (o : Operands)
  /-- UREM (R372): RKL unsigned remainder, expanded by dreyf. -/
  | urem (o : Operands)
  /-- LOAD_CONTEXT (R390): CMD 0x01: brings a context entry into force and drops its translations. -/
  | loadContext (index : Nat)
  /-- LOAD_TENANT (R390): CMD 0x02: copies a tenant's windows to every home and walker. -/
  | loadTenant (index : Nat)
  /-- STOP_CONTEXT (R390): CMD 0x03: kills a context's launches and unmaps its queues. -/
  | stopContext (index : Nat)
  /-- FLUSH_PLACEMENT_CACHE (R390): CMD 0x04: drains a context's grid warps and clears its placement cache. -/
  | flushPlacementCache (index : Nat)
  /-- CLAUSE_ISSUE (R61): A bundle issues a clause once its WAIT condition holds, after header checks. -/
  | clauseIssue (core : Nat)
  /-- BUNDLER_REGROUP (R26): Every 4 ck the bundler regroups runnable threads by program counter. -/
  | bundlerRegroup (core : Nat)
  /-- LONG_LATENCY_COMPLETE (R63): A long-latency instruction completes, writing its result and decrementing its flag. -/
  | longLatencyComplete (id : Nat)
  /-- ERROR_RESPONSE_DELIVERY (R212): An error response from a home arrives, poisoning loads or deferring a store fault. -/
  | errorResponseDelivery (id : Nat)
  /-- SLEEP_EXPIRY (R362): A lane's sleep time passes and the bundle becomes runnable. -/
  | sleepExpiry (core slot lane : Nat)
  /-- WADDR_DEADLINE (R232): A waddr lane's timeout expires and it resolves false. -/
  | waddrDeadline (core slot lane : Nat)
  /-- KICK_REGISTER_WRITE (R288): A host write to a queue's kick register is applied and logged. -/
  | kickRegisterWrite (fn : Option Nat) (offset : Nat) (value : DWord)
  /-- QUEUE_IDLE_UNMAP (R290): A mapped queue idle for its IDLE time is unmapped. -/
  | queueIdleUnmap (q : Nat)
  /-- DISPATCH_ROUND (R308): A die's dispatcher serves every ready item at the highest effective priority. -/
  | dispatchRound (die : Nat)
  /-- GRAPH_NODE_FIRE (R302): A graph node whose count reaches 0 fires. -/
  | graphNodeFire (g node : Nat)
  /-- GRAPH_NODE_END (R302): A graph node ends and decrements its successors' counts. -/
  | graphNodeEnd (g node : Nat)
  /-- HOSTRING_RECORD_COPY (R304): A HOSTRING node copies a record once ring space exists and updates WIDX and PEND. -/
  | hostringRecordCopy (g node : Nat)
  /-- HOSTRING_CTIME_EXPIRY (R304): The HOSTRING CTIME timer expires with PEND non-zero and raises the vector. -/
  | hostringCtimeExpiry (g node : Nat)
  /-- LEAKY_BUCKET_REFILL (R310): Credits refill at the bucket's rate per 64 ck. -/
  | leakyBucketRefill (core port : Nat)
  /-- POWER_RATE_CHANGE (R310): The power controller changes a bucket's rate. -/
  | powerRateChange (core port rate : Nat)
  /-- PLACEMENT_RECORD_READY (R316): The placer finishes a record and the loop becomes ARMED. -/
  | placementRecordReady (wg : Nat) (head : DWord) (rec : List Byte)
  /-- PLACER_DECLINE (R316): The placer declines a loop, which goes to REFUSED with PL_DECLINE. -/
  | placerDecline (wg : Nat) (head : DWord)
  /-- CONFIGURATION_ARM (R330): A record is checked and armed into a free configuration half. -/
  | configurationArm (wg : Nat) (head : DWord)
  /-- HANDLER_FIRE (R322): A cell handler fires for a tag once its marked ports are present. -/
  | handlerFire (core cfg cell hidx iter : Nat)
  /-- TOKEN_TRANSFER (R326): A token transfers on an elastic channel. -/
  | tokenTransfer (core chan : Nat)
  /-- ITERATION_COMMIT (R425): A ready oldest iteration begins applying its held writes in sequence-tag order. -/
  | iterationCommit (core iter : Nat)
  /-- ITERATION_RETIRE (R328): An iteration retires, freeing its tag and writing back exiting lanes. -/
  | iterationRetire (core iter : Nat)
  /-- WARP_DRAIN (R407): A warp drains to an iteration boundary and its registers are rebuilt. -/
  | warpDrain (core slot : Nat)
  /-- GRID_STALL (R326): A configuration retires nothing for 65,536 ck and is drained and refused. -/
  | gridStall (core cfg : Nat)
  /-- READ (R269): A read request at the home drives its line's opening transition. -/
  | read (id : Nat)
  /-- WRITE (R269): A write request at the home drives its line's opening transition. -/
  | write (id : Nat)
  /-- RMW (R269): An atomic request at the home drives its line's opening transition. -/
  | rmw (id : Nat)
  /-- EVICT_CLEAN (R269): A die cache evicts a clean line. -/
  | evictClean (die line : Nat)
  /-- EVICT_DIRTY (R269): A die cache evicts a dirty line. -/
  | evictDirty (die line : Nat)
  /-- ACK_IN (R269): Every awaited acknowledgement has been received. -/
  | ackIn (line : Nat)
  /-- DATA_IN (R269): Recalled data arrives at the home. -/
  | dataIn (line : Nat)
  /-- TIMEOUT (R269): A transition's TMO expires with the line still in its state. -/
  | timeout (line : Nat)
  /-- LEASE_END (R269): A lease ends at the home. -/
  | leaseEnd (line : Nat)
  /-- WRITE_AGAIN (R267): A write naming an already-written byte under WO is dropped and logged. -/
  | writeAgain (id : Nat)
  /-- VERSIONED_ACCESS_AT_HOME (R198): An ldv, stv or reclaim is performed at the word's home in arrival order. -/
  | versionedAccessAtHome (id : Nat)
  /-- PTS_ADVANCE (R266): A die's logical clock advances with Calends time. -/
  | ptsAdvance (die : Nat)
  /-- M2S_MEMRD (R281): A host CXL.mem read arrives at the home. -/
  | m2sMemRd (pa : Nat) (mark : HostMark)
  /-- M2S_MEMWR (R281): A host CXL.mem write arrives at the home. -/
  | m2sMemWr (pa : Nat) (data : BitVec 512)
  /-- M2S_BIRSP (R281): A host back-invalidation response arrives. -/
  | m2sBiRsp (pa : Nat) (shared : Bool)
  /-- HOST_SNOOP (R276): A host snoop to host-memory lines is answered from CD0's RDC. -/
  | hostSnoop (line : Nat) (inval : Bool)
  /-- WAKE_LATE (R277): A request to a waking die outlasts its WWAIT and the event is logged. -/
  | wakeLate (id : Nat)
  /-- DIE_LOST (R277): A die unanswered for 50 µs is declared lost. -/
  | dieLost (die : Nat)
  /-- BT_CHUNK_COMPLETE (R241): Every write of a chunk has been performed and its bit is set as a release. -/
  | btChunkComplete (op chunk : Nat)
  /-- ENGINE_FAULT (R243): An engine operation meets an unserviceable fault and ends in error. -/
  | engineFault (op : Nat)
  /-- HELD_FAULT_RETRY (R423): A held engine access is retried on tlbsync, CMD load or every 10 µs. -/
  | heldFaultRetry (op : Nat)
  /-- STREAM_START (R250): A queued stream command starts when its port is free. -/
  | streamStart (port : Nat)
  /-- STREAM_ELEMENT_DELIVERY (R248): A stream element and any end markers are delivered to its port. -/
  | streamElementDelivery (port : Nat)
  /-- WINDOW_ROW_EMIT (R253): The sliding-window unit emits one window row. -/
  | windowRowEmit (cluster : Nat)
  /-- MX_GRANT (R157): The chess-clock arbiter grants one whole matrix operation. -/
  | mxGrant (cluster : Nat)
  /-- MX_OPERATION_COMPLETE (R153): A matrix operation writes its last outputs and completes. -/
  | mxOperationComplete (cluster : Nat)
  /-- MX_REDUCTION (R155): The split-0 node combines all partials once they have arrived. -/
  | mxReduction (cluster : Nat)
  /-- MX_BLOCK_LOAD_COMPLETE (R159): A stationary block load completes and waiting entries may be granted. -/
  | mxBlockLoadComplete (cluster frame : Nat)
  /-- FLIT_RECEIVE (R415): A link flit arrives and is delivered or dropped for CRC or duplication. -/
  | flitReceive (die link seq : Nat) (crcOk : Bool) (lane : Nat)
  /-- LINK_RETRAIN_COMPLETE (R414): Link retraining finishes and unacknowledged flits are replayed. -/
  | linkRetrainComplete (die link : Nat)
  /-- LINK_WINDOW_END (R416): A 10 µs window closes and the link may step down or retire lanes. -/
  | linkWindowEnd (die link : Nat)
  /-- ECC_CORRECTED (R418): A corrected storage error is counted and written back. -/
  | eccCorrected (at_ : Storage)
  /-- ECC_UNCORRECTABLE (R419): An uncorrectable storage error poisons, refetches, drains or kills. -/
  | eccUncorrectable (at_ : Storage)
  /-- SCRUB_READ (R418): Scrubbing reads a line so every line is read within 24 hours. -/
  | scrubRead (line : Nat)
  /-- MODULE_RESET (R277): Module reset clears lost dies and restarts the module. -/
  | moduleReset 
  /-- BOOT (R395): The boot ROM verifies the firmware image before releasing any core. -/
  | boot 
  /-- GET_VERSION (R398): SPDM GET_VERSION request. -/
  | getVersion (req : List Byte)
  /-- GET_CAPABILITIES (R398): SPDM GET_CAPABILITIES request. -/
  | getCapabilities (req : List Byte)
  /-- NEGOTIATE_ALGORITHMS (R398): SPDM NEGOTIATE_ALGORITHMS request. -/
  | negotiateAlgorithms (req : List Byte)
  /-- GET_DIGESTS (R398): SPDM GET_DIGESTS request. -/
  | getDigests (req : List Byte)
  /-- GET_CERTIFICATE (R398): SPDM GET_CERTIFICATE request returning the identity chain. -/
  | getCertificate (req : List Byte)
  /-- CHALLENGE (R398): SPDM CHALLENGE answered with a signed CHALLENGE_AUTH. -/
  | challenge (req : List Byte)
  /-- GET_MEASUREMENTS (R398): SPDM GET_MEASUREMENTS answered with signed measurement blocks. -/
  | getMeasurements (req : List Byte)
  /-- UNSUPPORTED_REQUEST (R398): Any other SPDM request receives an UnsupportedRequest error. -/
  | unsupportedRequest (req : List Byte)
  /-- ENGINE_FAULT_HELD (R423): An engine, stream, window, COPY or HOSTRING access meets a PAGE, PERM or PTE fault; the operation is held and one record is written to the fault ring. -/
  | engineFaultHeld (op : Nat)
  /-- MEMORY_PORT_REPLY (R328): A load or returning atomic issued by a memory-port cell receives its data from the home, and the cell sends its result token. -/
  | memoryPortReply (id : Nat)
  /-- WRITE_ACKNOWLEDGEMENT (R266): A home's acknowledgement of a performed write reaches the writer's die, letting a waiting release or fence complete and advancing pts. -/
  | writeAcknowledgement (id : Nat)
  /-- INVALIDATION_RECEIVED (R264): A compute-die cache receives an invalidation, update push or recall from a home, drops or updates or returns its copy, and sends the acknowledgement or data. -/
  | invalidationReceived (die line : Nat)
  /-- LINK_WAKE_COMPLETE (R277): A link waking from a low-power state comes up, and the requests, snoops and recalls waiting on it proceed. -/
  | linkWakeComplete (die link : Nat)
  deriving DecidableEq, Repr

end Sys2Proof
end

