-- ==== Sys2Proof/Machine/Forms.lean ====
section
/-!
DEFINITION. Machine/Forms.lean: the opcode map (03 R67 to R76) as one description per form, and the field checks of 03 R50 to R58 that
check 4 and check 5 of R77 make.
-/
namespace Sys2Proof

/-- Width of a type in bits (03 R55); the block and slot formats are read in one 32-bit register (05 R139). -/
def Ty.bits : Ty → Nat
  | .s8 | .n8 | .e4m3 | .e5m2 => 8
  | .s16 | .n16 | .f16 | .bf16 => 16
  | .s32 | .n32 | .f32 | .slot => 32
  | .s64 | .n64 => 64

/-- TY code (03 R55). -/
def Ty.code : Ty → BitVec 4
  | .s8 => 0x0 | .s16 => 0x1 | .s32 => 0x2 | .s64 => 0x3 | .n8 => 0x4 | .n16 => 0x5 | .n32 => 0x6 | .n64 => 0x7
  | .f16 => 0x8 | .bf16 => 0x9 | .f32 => 0xA | .e4m3 => 0xB | .e5m2 => 0xC | .slot => 0xF

/-- Type of a TY code; none for the reserved 0xD and 0xE (03 R55). -/
def Ty.ofCode (c : BitVec 4) : Option Ty :=
  match c.toNat with
  | 0 => some .s8 | 1 => some .s16 | 2 => some .s32 | 3 => some .s64 | 4 => some .n8 | 5 => some .n16 | 6 => some .n32 | 7 => some .n64
  | 8 => some .f16 | 9 => some .bf16 | 10 => some .f32 | 11 => some .e4m3 | 12 => some .e5m2 | 15 => some .slot
  | _ => none

/-- The .s types (03 R52). -/
def Ty.signed : Ty → Bool
  | .s8 | .s16 | .s32 | .s64 => true
  | _ => false

/-- The floating-point types (04 R89). -/
def Ty.isFloat : Ty → Bool
  | .f16 | .bf16 | .f32 | .e4m3 | .e5m2 => true
  | _ => false

/-- SC code (03 R57). -/
def Scope.code : Scope → BitVec 3
  | .thr => 0 | .wg => 1 | .cl => 2 | .die => 3 | .dev => 4 | .sys => 5

/-- Scope of an SC code; none for 6 and 7 (03 R57). -/
def Scope.ofCode (c : BitVec 3) : Option Scope :=
  match c.toNat with
  | 0 => some .thr | 1 => some .wg | 2 => some .cl | 3 => some .die | 4 => some .dev | 5 => some .sys
  | _ => none

/-- The B field itself (03 R49). -/
def BOp.field : BOp → Field
  | .reg r => r | .imm v => v | .k idx => idx | .const v => v

/-- The SB field (03 R51). -/
def BOp.sb : BOp → BitVec 2
  | .reg _ => 0 | .imm _ => 1 | .k _ => 2 | .const _ => 3

/-- Elements of a load or store group (08 R210). -/
def GroupN.count : GroupN → Nat
  | .one => 1 | .two => 2 | .four => 4

/-- How wide an operand of class V or X is: the form's type, 32 or 64 bits, the source type that C names (cvt, cvti), or twice 32 bits
when the type has 32 bits (pack). -/
inductive Wd where
  | ty | w32 | w64 | src | dbl
  deriving DecidableEq, Repr

/-- Operand classes (03 R50); `i lo hi` is a class I field with its stated range. -/
inductive Cls where
  | none | v (wd : Wd) | w | g (n : Nat) | p | i (lo hi : Nat) | s | x (wd : Wd)
  deriving DecidableEq, Repr

/-- Whether a form reads a format slot (03 R56). -/
inductive SlotUse where
  | never | always | ifF
  deriving DecidableEq, Repr

/-- What SB may be where B is of class X (03 R51 and the forms' entries). -/
inductive BKinds where
  | any | immOnly | noImm
  deriving DecidableEq, Repr

/-- One form of the opcode tables. No types listed: the form has no type (03 R55). -/
structure Form where
  d : Cls
  a : Cls
  b : Cls
  c : Cls
  types : List Ty
  slot : SlotUse := .never
  scopes : List Scope := [.thr]
  mods : List (BitVec 2) := [0]
  ll : Bool := false
  transfer : Bool := false
  bKinds : BKinds := .any
  extra : Operands → Bool := fun _ => true

/-- Every scope (08 R211). -/
def allScopes : List Scope := [.thr, .wg, .cl, .die, .dev, .sys]

/-- The source type of cvt and cvti, C[3:0] (05 R126, R136). -/
def Operands.srcTy (o : Operands) : Option Ty := Ty.ofCode (o.c.extractLsb' 0 4)

/-- cvt's own field rules (05 R136): C codes 0xD and 0xE are reserved, not both codes 0xF, MOD 00 when a slot is read. -/
def cvtExtra (o : Operands) : Bool :=
  match o.srcTy with
  | none => false
  | some t => !(t == .slot && o.ty == .slot) && ((t != .slot && o.ty != .slot) || o.mod == 0)

/-- Indices that srd lists (05 R124). -/
def srdListed (i : Nat) : Bool := i ≤ 0x17 || (0x20 ≤ i && i ≤ 0x22)

/-- The form that an OP and FN assign, taking the operand fields (03 R67). Grid-only and RKL-only forms are listed as well; native decoding
refuses them (13 R319, 15 R372). -/
def mkInstr : Nat → Nat → Option (Operands → Instr)
  | 0x00, 0 => some .iadd
  | 0x01, 0 => some .isub
  | 0x02, 0 => some .iadd3
  | 0x03, 0 => some .imul
  | 0x04, 0 => some .imulhi
  | 0x05, 0 => some .imad
  | 0x06, 0 => some .iabs
  | 0x07, 0 => some .ineg
  | 0x08, 0 => some .imin
  | 0x09, 0 => some .imax
  | 0x0A, 0 => some .iaddc
  | 0x0B, 0 => some .isubb
  | 0x0C, 0 => some .isad
  | 0x0D, 0 => some .lea
  | 0x0D, 1 => some .leaHi
  | 0x10, 0 => some .andB
  | 0x10, 1 => some .orB
  | 0x10, 2 => some .xorB
  | 0x10, 3 => some .notB
  | 0x11, 0 => some .tern
  | 0x12, 0 => some .shl
  | 0x13, 0 => some .shr
  | 0x14, 0 => some .sar
  | 0x15, 0 => some .rotl
  | 0x16, 0 => some .fshl
  | 0x17, 0 => some .bfe
  | 0x18, 0 => some .bfi
  | 0x19, 0 => some .popc
  | 0x1A, 0 => some .clz
  | 0x1B, 0 => some .ctz
  | 0x1C, 0 => some .brev
  | 0x1D, 0 => some .bperm
  | 0x20, 0 => some (.icmp .eq)
  | 0x20, 1 => some (.icmp .ne)
  | 0x20, 2 => some (.icmp .lt)
  | 0x20, 3 => some (.icmp .le)
  | 0x20, 4 => some (.icmp .gt)
  | 0x20, 5 => some (.icmp .ge)
  | 0x21, 0 => some .sel
  | 0x22, 0 => some .mov
  | 0x23, 0 => some .movi
  | 0x24, 0 => some .movk
  | 0x25, 0 => some (.psetp .and)
  | 0x25, 1 => some (.psetp .or)
  | 0x25, 2 => some (.psetp .xor)
  | 0x25, 3 => some (.psetp .andn)
  | 0x26, 0 => some .p2v
  | 0x27, 0 => some .v2p
  | 0x28, 0 => some .srd
  | 0x29, 0 => some .cvti
  | 0x2A, 0 => some .pack
  | 0x2B, 0 => some .unpack
  | 0x30, 0 => some .fadd
  | 0x31, 0 => some .fsub
  | 0x32, 0 => some .fmul
  | 0x33, 0 => some .ffma
  | 0x34, 0 => some .fmin
  | 0x35, 0 => some .fmax
  | 0x36, 0 => some (.fcmp .eq)
  | 0x36, 1 => some (.fcmp .ne)
  | 0x36, 2 => some (.fcmp .lt)
  | 0x36, 3 => some (.fcmp .le)
  | 0x36, 4 => some (.fcmp .gt)
  | 0x36, 5 => some (.fcmp .ge)
  | 0x36, 6 => some (.fcmp .unord)
  | 0x36, 7 => some (.fcmp .ord)
  | 0x37, 0 => some .fclass
  | 0x38, 0 => some .hadd2
  | 0x39, 0 => some .hmul2
  | 0x3A, 0 => some .hfma2
  | 0x3B, 0 => some .hmin2
  | 0x3C, 0 => some .hmax2
  | 0x3D, 0 => some .fdot2
  | 0x40, 0 => some .frcp
  | 0x41, 0 => some .frsq
  | 0x42, 0 => some .fsqrt
  | 0x43, 0 => some .fexp2
  | 0x44, 0 => some .flog2
  | 0x45, 0 => some .fsin
  | 0x46, 0 => some .fcos
  | 0x47, 0 => some .ftanh
  | 0x48, 0 => some .cvt
  | 0x49, 0 => some .cvtBlkTo
  | 0x49, 1 => some .cvtBlkFrom
  | 0x50, 0 => some (.xlane .sel)
  | 0x50, 1 => some (.xlane .rot)
  | 0x50, 2 => some (.xlane .xor)
  | 0x50, 3 => some (.xlane .mir)
  | 0x51, 0 => some (.vote .all)
  | 0x51, 1 => some (.vote .any)
  | 0x51, 2 => some (.vote .eq)
  | 0x51, 3 => some .voteBallot
  | 0x52, 0 => some (.matchLanes .any)
  | 0x52, 1 => some (.matchLanes .all)
  | 0x53, 0 => some (.redux .add)
  | 0x53, 1 => some (.redux .min)
  | 0x53, 2 => some (.redux .max)
  | 0x53, 3 => some (.redux .and)
  | 0x53, 4 => some (.redux .or)
  | 0x53, 5 => some (.redux .xor)
  | 0x54, 0 => some (.fredux .add)
  | 0x54, 1 => some (.fredux .min)
  | 0x54, 2 => some (.fredux .max)
  | 0x55, 0 => some (.scan .add)
  | 0x55, 1 => some (.scan .xadd)
  | 0x55, 2 => some (.scan .min)
  | 0x55, 3 => some (.scan .max)
  | 0x60, 0 => some (.ld .one)
  | 0x61, 0 => some (.st .one)
  | 0x62, 0 => some (.lds .one)
  | 0x63, 0 => some (.sts .one)
  | 0x64, 0 => some (.ldp .one)
  | 0x65, 0 => some (.stp .one)
  | 0x60, 1 => some (.ld .two)
  | 0x61, 1 => some (.st .two)
  | 0x62, 1 => some (.lds .two)
  | 0x63, 1 => some (.sts .two)
  | 0x64, 1 => some (.ldp .two)
  | 0x65, 1 => some (.stp .two)
  | 0x60, 2 => some (.ld .four)
  | 0x61, 2 => some (.st .four)
  | 0x62, 2 => some (.lds .four)
  | 0x63, 2 => some (.sts .four)
  | 0x64, 2 => some (.ldp .four)
  | 0x65, 2 => some (.stp .four)
  | 0x66, 0 => some .ldc
  | 0x67, 0 => some (.prefetch .l1)
  | 0x67, 1 => some (.prefetch .llc)
  | 0x70, 0 => some (.atom .add)
  | 0x70, 1 => some (.atom .min)
  | 0x70, 2 => some (.atom .max)
  | 0x70, 3 => some (.atom .and)
  | 0x70, 4 => some (.atom .or)
  | 0x70, 5 => some (.atom .xor)
  | 0x70, 6 => some (.atom .exch)
  | 0x71, 0 => some .atomCas
  | 0x72, 0 => some .atomFadd
  | 0x73, 0 => some (.red .add)
  | 0x73, 1 => some (.red .min)
  | 0x73, 2 => some (.red .max)
  | 0x73, 3 => some (.red .and)
  | 0x73, 4 => some (.red .or)
  | 0x73, 5 => some (.red .xor)
  | 0x73, 7 => some .redFadd
  | 0x74, 0 => some .ldv
  | 0x75, 0 => some .stv
  | 0x76, 0 => some .reclaim
  | 0x77, 0 => some .fence
  | 0x78, 0 => some .lockLine
  | 0x79, 0 => some .unlockLine
  | 0x7A, 0 => some (.cflush .wb)
  | 0x7A, 1 => some (.cflush .inv)
  | 0x7B, 0 => some (.waddr .eq)
  | 0x7B, 1 => some (.waddr .ne)
  | 0x80, 0 => some .btCopy
  | 0x81, 0 => some .btGather
  | 0x82, 0 => some .btScatter
  | 0x83, 0 => some .btWait
  | 0x84, 0 => some .btTest
  | 0x85, 0 => some .strmBind
  | 0x86, 0 => some .winCfg
  | 0x87, 0 => some .lay
  | 0x88, 0 => some (.engCancel .bt)
  | 0x88, 1 => some (.engCancel .lay)
  | 0x88, 2 => some (.engCancel .strm)
  | 0x90, 0 => some .mxPost
  | 0x91, 0 => some .mxWait
  | 0x92, 0 => some .mxPoll
  | 0x93, 0 => some .mxBload
  | 0x94, 0 => some .mxBfree
  | 0x95, 0 => some .mxAccrd
  | 0xA0, 0 => some .bra
  | 0xA1, 0 => some .brx
  | 0xA2, 0 => some .jcall
  | 0xA2, 1 => some .jcallInd
  | 0xA3, 0 => some .ret
  | 0xA4, 0 => some .exit
  | 0xA5, 0 => some .loop
  | 0xA6, 0 => some .yield
  | 0xA7, 0 => some .nop
  | 0xA8, 0 => some .trap
  | 0xA9, 0 => some .capOff
  | 0xAA, 0 => some .capOn
  | 0xAB, 0 => some .brk
  | 0xB0, 0 => some .barInit
  | 0xB1, 0 => some .barArrive
  | 0xB2, 0 => some .barWait
  | 0xB3, 0 => some .barSync
  | 0xB4, 0 => some .castle
  | 0xB5, 0 => some .tagOpen
  | 0xB6, 0 => some .tagClose
  | 0xB7, 0 => some .sleep
  | 0xB8, 0 => some .flagWait
  | 0xC0, 0 => some .dlaunch
  | 0xC1, 0 => some .dwait
  | 0xC2, 0 => some .qpost
  | 0xC3, 0 => some .qkick
  | 0xC4, 0 => some (.clock .cal)
  | 0xC4, 1 => some (.clock .ck)
  | 0xC5, 0 => some .perfrd
  | 0xD0, 0 => some .csrr
  | 0xD1, 0 => some .csrw
  | 0xD2, 0 => some .tlbinvPage
  | 0xD2, 1 => some .tlbinvRange
  | 0xD2, 2 => some .tlbinvCtx
  | 0xD2, 3 => some .tlbinvAll
  | 0xD3, 0 => some .tlbsync
  | 0xD4, 0 => some .eret
  | 0xD5, 0 => some .faultDone
  | 0xD6, 0 => some .ptabLoad
  | 0xD7, 0 => some .prangeSet
  | 0xD8, 0 => some .linkCtlRd
  | 0xD8, 1 => some .linkCtlRate
  | 0xD8, 2 => some .linkCtlRetire
  | 0xD8, 3 => some .linkCtlClr
  | 0xD9, 0 => some .ctxSave
  | 0xE0, 0 => some (.gred .addF32)
  | 0xE0, 1 => some (.gred .addN32)
  | 0xE0, 2 => some (.gred .minF32)
  | 0xE0, 3 => some (.gred .maxF32)
  | 0xE1, 0 => some .gmrg
  | 0xE2, 0 => some .gdly
  | 0xE3, 0 => some .gjoin
  | 0xE8, 0 => some .udiv
  | 0xE8, 1 => some .urem
  | _, _ => none

/-- OP and FN of an instruction; none for an event, and for the two rows that share the words of another (prange.set, ctx.save). -/
def Instr.opcode : Instr → Option (Nat × Nat)
  | .iadd _ => some (0x00, 0)
  | .isub _ => some (0x01, 0)
  | .iadd3 _ => some (0x02, 0)
  | .imul _ => some (0x03, 0)
  | .imulhi _ => some (0x04, 0)
  | .imad _ => some (0x05, 0)
  | .iabs _ => some (0x06, 0)
  | .ineg _ => some (0x07, 0)
  | .imin _ => some (0x08, 0)
  | .imax _ => some (0x09, 0)
  | .iaddc _ => some (0x0A, 0)
  | .isubb _ => some (0x0B, 0)
  | .isad _ => some (0x0C, 0)
  | .lea _ => some (0x0D, 0)
  | .leaHi _ => some (0x0D, 1)
  | .andB _ => some (0x10, 0)
  | .orB _ => some (0x10, 1)
  | .xorB _ => some (0x10, 2)
  | .notB _ => some (0x10, 3)
  | .tern _ => some (0x11, 0)
  | .shl _ => some (0x12, 0)
  | .shr _ => some (0x13, 0)
  | .sar _ => some (0x14, 0)
  | .rotl _ => some (0x15, 0)
  | .fshl _ => some (0x16, 0)
  | .bfe _ => some (0x17, 0)
  | .bfi _ => some (0x18, 0)
  | .popc _ => some (0x19, 0)
  | .clz _ => some (0x1A, 0)
  | .ctz _ => some (0x1B, 0)
  | .brev _ => some (0x1C, 0)
  | .bperm _ => some (0x1D, 0)
  | .icmp .eq _ => some (0x20, 0)
  | .icmp .ne _ => some (0x20, 1)
  | .icmp .lt _ => some (0x20, 2)
  | .icmp .le _ => some (0x20, 3)
  | .icmp .gt _ => some (0x20, 4)
  | .icmp .ge _ => some (0x20, 5)
  | .sel _ => some (0x21, 0)
  | .mov _ => some (0x22, 0)
  | .movi _ => some (0x23, 0)
  | .movk _ => some (0x24, 0)
  | .psetp .and _ => some (0x25, 0)
  | .psetp .or _ => some (0x25, 1)
  | .psetp .xor _ => some (0x25, 2)
  | .psetp .andn _ => some (0x25, 3)
  | .p2v _ => some (0x26, 0)
  | .v2p _ => some (0x27, 0)
  | .srd _ => some (0x28, 0)
  | .cvti _ => some (0x29, 0)
  | .pack _ => some (0x2A, 0)
  | .unpack _ => some (0x2B, 0)
  | .fadd _ => some (0x30, 0)
  | .fsub _ => some (0x31, 0)
  | .fmul _ => some (0x32, 0)
  | .ffma _ => some (0x33, 0)
  | .fmin _ => some (0x34, 0)
  | .fmax _ => some (0x35, 0)
  | .fcmp .eq _ => some (0x36, 0)
  | .fcmp .ne _ => some (0x36, 1)
  | .fcmp .lt _ => some (0x36, 2)
  | .fcmp .le _ => some (0x36, 3)
  | .fcmp .gt _ => some (0x36, 4)
  | .fcmp .ge _ => some (0x36, 5)
  | .fcmp .unord _ => some (0x36, 6)
  | .fcmp .ord _ => some (0x36, 7)
  | .fclass _ => some (0x37, 0)
  | .hadd2 _ => some (0x38, 0)
  | .hmul2 _ => some (0x39, 0)
  | .hfma2 _ => some (0x3A, 0)
  | .hmin2 _ => some (0x3B, 0)
  | .hmax2 _ => some (0x3C, 0)
  | .fdot2 _ => some (0x3D, 0)
  | .frcp _ => some (0x40, 0)
  | .frsq _ => some (0x41, 0)
  | .fsqrt _ => some (0x42, 0)
  | .fexp2 _ => some (0x43, 0)
  | .flog2 _ => some (0x44, 0)
  | .fsin _ => some (0x45, 0)
  | .fcos _ => some (0x46, 0)
  | .ftanh _ => some (0x47, 0)
  | .cvt _ => some (0x48, 0)
  | .cvtBlkTo _ => some (0x49, 0)
  | .cvtBlkFrom _ => some (0x49, 1)
  | .xlane .sel _ => some (0x50, 0)
  | .xlane .rot _ => some (0x50, 1)
  | .xlane .xor _ => some (0x50, 2)
  | .xlane .mir _ => some (0x50, 3)
  | .vote .all _ => some (0x51, 0)
  | .vote .any _ => some (0x51, 1)
  | .vote .eq _ => some (0x51, 2)
  | .voteBallot _ => some (0x51, 3)
  | .matchLanes .any _ => some (0x52, 0)
  | .matchLanes .all _ => some (0x52, 1)
  | .redux .add _ => some (0x53, 0)
  | .redux .min _ => some (0x53, 1)
  | .redux .max _ => some (0x53, 2)
  | .redux .and _ => some (0x53, 3)
  | .redux .or _ => some (0x53, 4)
  | .redux .xor _ => some (0x53, 5)
  | .fredux .add _ => some (0x54, 0)
  | .fredux .min _ => some (0x54, 1)
  | .fredux .max _ => some (0x54, 2)
  | .scan .add _ => some (0x55, 0)
  | .scan .xadd _ => some (0x55, 1)
  | .scan .min _ => some (0x55, 2)
  | .scan .max _ => some (0x55, 3)
  | .ld .one _ => some (0x60, 0)
  | .ld .two _ => some (0x60, 1)
  | .ld .four _ => some (0x60, 2)
  | .st .one _ => some (0x61, 0)
  | .st .two _ => some (0x61, 1)
  | .st .four _ => some (0x61, 2)
  | .lds .one _ => some (0x62, 0)
  | .lds .two _ => some (0x62, 1)
  | .lds .four _ => some (0x62, 2)
  | .sts .one _ => some (0x63, 0)
  | .sts .two _ => some (0x63, 1)
  | .sts .four _ => some (0x63, 2)
  | .ldp .one _ => some (0x64, 0)
  | .ldp .two _ => some (0x64, 1)
  | .ldp .four _ => some (0x64, 2)
  | .stp .one _ => some (0x65, 0)
  | .stp .two _ => some (0x65, 1)
  | .stp .four _ => some (0x65, 2)
  | .ldc _ => some (0x66, 0)
  | .prefetch .l1 _ => some (0x67, 0)
  | .prefetch .llc _ => some (0x67, 1)
  | .atom .add _ => some (0x70, 0)
  | .atom .min _ => some (0x70, 1)
  | .atom .max _ => some (0x70, 2)
  | .atom .and _ => some (0x70, 3)
  | .atom .or _ => some (0x70, 4)
  | .atom .xor _ => some (0x70, 5)
  | .atom .exch _ => some (0x70, 6)
  | .atomCas _ => some (0x71, 0)
  | .atomFadd _ => some (0x72, 0)
  | .red .add _ => some (0x73, 0)
  | .red .min _ => some (0x73, 1)
  | .red .max _ => some (0x73, 2)
  | .red .and _ => some (0x73, 3)
  | .red .or _ => some (0x73, 4)
  | .red .xor _ => some (0x73, 5)
  | .redFadd _ => some (0x73, 7)
  | .ldv _ => some (0x74, 0)
  | .stv _ => some (0x75, 0)
  | .reclaim _ => some (0x76, 0)
  | .fence _ => some (0x77, 0)
  | .lockLine _ => some (0x78, 0)
  | .unlockLine _ => some (0x79, 0)
  | .cflush .wb _ => some (0x7A, 0)
  | .cflush .inv _ => some (0x7A, 1)
  | .waddr .eq _ => some (0x7B, 0)
  | .waddr .ne _ => some (0x7B, 1)
  | .btCopy _ => some (0x80, 0)
  | .btGather _ => some (0x81, 0)
  | .btScatter _ => some (0x82, 0)
  | .btWait _ => some (0x83, 0)
  | .btTest _ => some (0x84, 0)
  | .strmBind _ => some (0x85, 0)
  | .winCfg _ => some (0x86, 0)
  | .lay _ => some (0x87, 0)
  | .engCancel .bt _ => some (0x88, 0)
  | .engCancel .lay _ => some (0x88, 1)
  | .engCancel .strm _ => some (0x88, 2)
  | .mxPost _ => some (0x90, 0)
  | .mxWait _ => some (0x91, 0)
  | .mxPoll _ => some (0x92, 0)
  | .mxBload _ => some (0x93, 0)
  | .mxBfree _ => some (0x94, 0)
  | .mxAccrd _ => some (0x95, 0)
  | .bra _ => some (0xA0, 0)
  | .brx _ => some (0xA1, 0)
  | .jcall _ => some (0xA2, 0)
  | .jcallInd _ => some (0xA2, 1)
  | .ret _ => some (0xA3, 0)
  | .exit _ => some (0xA4, 0)
  | .loop _ => some (0xA5, 0)
  | .yield _ => some (0xA6, 0)
  | .nop _ => some (0xA7, 0)
  | .trap _ => some (0xA8, 0)
  | .capOff _ => some (0xA9, 0)
  | .capOn _ => some (0xAA, 0)
  | .brk _ => some (0xAB, 0)
  | .barInit _ => some (0xB0, 0)
  | .barArrive _ => some (0xB1, 0)
  | .barWait _ => some (0xB2, 0)
  | .barSync _ => some (0xB3, 0)
  | .castle _ => some (0xB4, 0)
  | .tagOpen _ => some (0xB5, 0)
  | .tagClose _ => some (0xB6, 0)
  | .sleep _ => some (0xB7, 0)
  | .flagWait _ => some (0xB8, 0)
  | .dlaunch _ => some (0xC0, 0)
  | .dwait _ => some (0xC1, 0)
  | .qpost _ => some (0xC2, 0)
  | .qkick _ => some (0xC3, 0)
  | .clock .cal _ => some (0xC4, 0)
  | .clock .ck _ => some (0xC4, 1)
  | .perfrd _ => some (0xC5, 0)
  | .csrr _ => some (0xD0, 0)
  | .csrw _ => some (0xD1, 0)
  | .tlbinvPage _ => some (0xD2, 0)
  | .tlbinvRange _ => some (0xD2, 1)
  | .tlbinvCtx _ => some (0xD2, 2)
  | .tlbinvAll _ => some (0xD2, 3)
  | .tlbsync _ => some (0xD3, 0)
  | .eret _ => some (0xD4, 0)
  | .faultDone _ => some (0xD5, 0)
  | .ptabLoad _ => some (0xD6, 0)
  | .prangeSet _ => some (0xD7, 0)
  | .prangeClear _ => none
  | .linkCtlRd _ => some (0xD8, 0)
  | .linkCtlRate _ => some (0xD8, 1)
  | .linkCtlRetire _ => some (0xD8, 2)
  | .linkCtlClr _ => some (0xD8, 3)
  | .ctxSave _ => some (0xD9, 0)
  | .ctxResume _ => none
  | .gred .addF32 _ => some (0xE0, 0)
  | .gred .addN32 _ => some (0xE0, 1)
  | .gred .minF32 _ => some (0xE0, 2)
  | .gred .maxF32 _ => some (0xE0, 3)
  | .gmrg _ => some (0xE1, 0)
  | .gdly _ => some (0xE2, 0)
  | .gjoin _ => some (0xE3, 0)
  | .udiv _ => some (0xE8, 0)
  | .urem _ => some (0xE8, 1)
  | .loadContext _ => none
  | .loadTenant _ => none
  | .stopContext _ => none
  | .flushPlacementCache _ => none
  | .clauseIssue _ => none
  | .bundlerRegroup _ => none
  | .longLatencyComplete _ => none
  | .errorResponseDelivery _ => none
  | .sleepExpiry _ _ _ => none
  | .waddrDeadline _ _ _ => none
  | .kickRegisterWrite _ _ _ => none
  | .queueIdleUnmap _ => none
  | .dispatchRound _ => none
  | .graphNodeFire _ _ => none
  | .graphNodeEnd _ _ => none
  | .hostringRecordCopy _ _ => none
  | .hostringCtimeExpiry _ _ => none
  | .leakyBucketRefill _ _ => none
  | .powerRateChange _ _ _ => none
  | .placementRecordReady _ _ _ => none
  | .placerDecline _ _ => none
  | .configurationArm _ _ => none
  | .handlerFire _ _ _ _ _ => none
  | .tokenTransfer _ _ => none
  | .iterationCommit _ _ => none
  | .iterationRetire _ _ => none
  | .warpDrain _ _ => none
  | .gridStall _ _ => none
  | .read _ => none
  | .write _ => none
  | .rmw _ => none
  | .evictClean _ _ => none
  | .evictDirty _ _ => none
  | .ackIn _ => none
  | .dataIn _ => none
  | .timeout _ => none
  | .leaseEnd _ => none
  | .writeAgain _ => none
  | .versionedAccessAtHome _ => none
  | .ptsAdvance _ => none
  | .m2sMemRd _ _ => none
  | .m2sMemWr _ _ => none
  | .m2sBiRsp _ _ => none
  | .hostSnoop _ _ => none
  | .wakeLate _ => none
  | .dieLost _ => none
  | .btChunkComplete _ _ => none
  | .engineFault _ => none
  | .heldFaultRetry _ => none
  | .streamStart _ => none
  | .streamElementDelivery _ => none
  | .windowRowEmit _ => none
  | .mxGrant _ => none
  | .mxOperationComplete _ => none
  | .mxReduction _ => none
  | .mxBlockLoadComplete _ _ => none
  | .flitReceive _ _ _ _ _ => none
  | .linkRetrainComplete _ _ => none
  | .linkWindowEnd _ _ => none
  | .eccCorrected _ => none
  | .eccUncorrectable _ => none
  | .scrubRead _ => none
  | .moduleReset => none
  | .boot => none
  | .getVersion _ => none
  | .getCapabilities _ => none
  | .negotiateAlgorithms _ => none
  | .getDigests _ => none
  | .getCertificate _ => none
  | .challenge _ => none
  | .getMeasurements _ => none
  | .unsupportedRequest _ => none
  | .engineFaultHeld _ => none
  | .memoryPortReply _ => none
  | .writeAcknowledgement _ => none
  | .invalidationReceived _ _ => none
  | .linkWakeComplete _ _ => none

/-- The decoded fields of an instruction; none for an event. -/
def Instr.operands : Instr → Option Operands
  | .iadd o => some o
  | .isub o => some o
  | .iadd3 o => some o
  | .imul o => some o
  | .imulhi o => some o
  | .imad o => some o
  | .iabs o => some o
  | .ineg o => some o
  | .imin o => some o
  | .imax o => some o
  | .iaddc o => some o
  | .isubb o => some o
  | .isad o => some o
  | .lea o => some o
  | .leaHi o => some o
  | .andB o => some o
  | .orB o => some o
  | .xorB o => some o
  | .notB o => some o
  | .tern o => some o
  | .shl o => some o
  | .shr o => some o
  | .sar o => some o
  | .rotl o => some o
  | .fshl o => some o
  | .bfe o => some o
  | .bfi o => some o
  | .popc o => some o
  | .clz o => some o
  | .ctz o => some o
  | .brev o => some o
  | .bperm o => some o
  | .icmp _ o => some o
  | .sel o => some o
  | .mov o => some o
  | .movi o => some o
  | .movk o => some o
  | .psetp _ o => some o
  | .p2v o => some o
  | .v2p o => some o
  | .srd o => some o
  | .cvti o => some o
  | .pack o => some o
  | .unpack o => some o
  | .fadd o => some o
  | .fsub o => some o
  | .fmul o => some o
  | .ffma o => some o
  | .fmin o => some o
  | .fmax o => some o
  | .fcmp _ o => some o
  | .fclass o => some o
  | .hadd2 o => some o
  | .hmul2 o => some o
  | .hfma2 o => some o
  | .hmin2 o => some o
  | .hmax2 o => some o
  | .fdot2 o => some o
  | .frcp o => some o
  | .frsq o => some o
  | .fsqrt o => some o
  | .fexp2 o => some o
  | .flog2 o => some o
  | .fsin o => some o
  | .fcos o => some o
  | .ftanh o => some o
  | .cvt o => some o
  | .cvtBlkTo o => some o
  | .cvtBlkFrom o => some o
  | .xlane _ o => some o
  | .vote _ o => some o
  | .voteBallot o => some o
  | .matchLanes _ o => some o
  | .redux _ o => some o
  | .fredux _ o => some o
  | .scan _ o => some o
  | .ld _ o => some o
  | .st _ o => some o
  | .lds _ o => some o
  | .sts _ o => some o
  | .ldp _ o => some o
  | .stp _ o => some o
  | .ldc o => some o
  | .prefetch _ o => some o
  | .atom _ o => some o
  | .atomCas o => some o
  | .atomFadd o => some o
  | .red _ o => some o
  | .redFadd o => some o
  | .ldv o => some o
  | .stv o => some o
  | .reclaim o => some o
  | .fence o => some o
  | .lockLine o => some o
  | .unlockLine o => some o
  | .cflush _ o => some o
  | .waddr _ o => some o
  | .btCopy o => some o
  | .btGather o => some o
  | .btScatter o => some o
  | .btWait o => some o
  | .btTest o => some o
  | .strmBind o => some o
  | .winCfg o => some o
  | .lay o => some o
  | .engCancel _ o => some o
  | .mxPost o => some o
  | .mxWait o => some o
  | .mxPoll o => some o
  | .mxBload o => some o
  | .mxBfree o => some o
  | .mxAccrd o => some o
  | .bra o => some o
  | .brx o => some o
  | .jcall o => some o
  | .jcallInd o => some o
  | .ret o => some o
  | .exit o => some o
  | .loop o => some o
  | .yield o => some o
  | .nop o => some o
  | .trap o => some o
  | .capOff o => some o
  | .capOn o => some o
  | .brk o => some o
  | .barInit o => some o
  | .barArrive o => some o
  | .barWait o => some o
  | .barSync o => some o
  | .castle o => some o
  | .tagOpen o => some o
  | .tagClose o => some o
  | .sleep o => some o
  | .flagWait o => some o
  | .dlaunch o => some o
  | .dwait o => some o
  | .qpost o => some o
  | .qkick o => some o
  | .clock _ o => some o
  | .perfrd o => some o
  | .csrr o => some o
  | .csrw o => some o
  | .tlbinvPage o => some o
  | .tlbinvRange o => some o
  | .tlbinvCtx o => some o
  | .tlbinvAll o => some o
  | .tlbsync o => some o
  | .eret o => some o
  | .faultDone o => some o
  | .ptabLoad o => some o
  | .prangeSet o => some o
  | .prangeClear o => some o
  | .linkCtlRd o => some o
  | .linkCtlRate o => some o
  | .linkCtlRetire o => some o
  | .linkCtlClr o => some o
  | .ctxSave o => some o
  | .ctxResume o => some o
  | .gred _ o => some o
  | .gmrg o => some o
  | .gdly o => some o
  | .gjoin o => some o
  | .udiv o => some o
  | .urem o => some o
  | .loadContext _ => none
  | .loadTenant _ => none
  | .stopContext _ => none
  | .flushPlacementCache _ => none
  | .clauseIssue _ => none
  | .bundlerRegroup _ => none
  | .longLatencyComplete _ => none
  | .errorResponseDelivery _ => none
  | .sleepExpiry _ _ _ => none
  | .waddrDeadline _ _ _ => none
  | .kickRegisterWrite _ _ _ => none
  | .queueIdleUnmap _ => none
  | .dispatchRound _ => none
  | .graphNodeFire _ _ => none
  | .graphNodeEnd _ _ => none
  | .hostringRecordCopy _ _ => none
  | .hostringCtimeExpiry _ _ => none
  | .leakyBucketRefill _ _ => none
  | .powerRateChange _ _ _ => none
  | .placementRecordReady _ _ _ => none
  | .placerDecline _ _ => none
  | .configurationArm _ _ => none
  | .handlerFire _ _ _ _ _ => none
  | .tokenTransfer _ _ => none
  | .iterationCommit _ _ => none
  | .iterationRetire _ _ => none
  | .warpDrain _ _ => none
  | .gridStall _ _ => none
  | .read _ => none
  | .write _ => none
  | .rmw _ => none
  | .evictClean _ _ => none
  | .evictDirty _ _ => none
  | .ackIn _ => none
  | .dataIn _ => none
  | .timeout _ => none
  | .leaseEnd _ => none
  | .writeAgain _ => none
  | .versionedAccessAtHome _ => none
  | .ptsAdvance _ => none
  | .m2sMemRd _ _ => none
  | .m2sMemWr _ _ => none
  | .m2sBiRsp _ _ => none
  | .hostSnoop _ _ => none
  | .wakeLate _ => none
  | .dieLost _ => none
  | .btChunkComplete _ _ => none
  | .engineFault _ => none
  | .heldFaultRetry _ => none
  | .streamStart _ => none
  | .streamElementDelivery _ => none
  | .windowRowEmit _ => none
  | .mxGrant _ => none
  | .mxOperationComplete _ => none
  | .mxReduction _ => none
  | .mxBlockLoadComplete _ _ => none
  | .flitReceive _ _ _ _ _ => none
  | .linkRetrainComplete _ _ => none
  | .linkWindowEnd _ _ => none
  | .eccCorrected _ => none
  | .eccUncorrectable _ => none
  | .scrubRead _ => none
  | .moduleReset => none
  | .boot => none
  | .getVersion _ => none
  | .getCapabilities _ => none
  | .negotiateAlgorithms _ => none
  | .getDigests _ => none
  | .getCertificate _ => none
  | .challenge _ => none
  | .getMeasurements _ => none
  | .unsupportedRequest _ => none
  | .engineFaultHeld _ => none
  | .memoryPortReply _ => none
  | .writeAcknowledgement _ => none
  | .invalidationReceived _ _ => none
  | .linkWakeComplete _ _ => none

/-- The row of the opcode tables that describes an instruction (03 R68 to R76). -/
def Instr.form : Instr → Option Form
  | .iadd _ => some { d := .v .ty, a := .v .ty, b := .x .ty, c := .none, types := [.s32, .s64, .n32, .n64] }
  | .isub _ => some { d := .v .ty, a := .v .ty, b := .x .ty, c := .none, types := [.s32, .s64, .n32, .n64] }
  | .iadd3 _ => some { d := .v .ty, a := .v .ty, b := .x .ty, c := .v .ty, types := [.s32, .n32] }
  | .imul _ => some { d := .v .ty, a := .v .ty, b := .x .ty, c := .none, types := [.s32, .s64, .n32, .n64] }
  | .imulhi _ => some { d := .v .ty, a := .v .ty, b := .x .ty, c := .none, types := [.s32, .n32] }
  | .imad _ => some { d := .v .ty, a := .v .ty, b := .x .ty, c := .v .ty, types := [.s32, .n32] }
  | .iabs _ => some { d := .v .ty, a := .v .ty, b := .none, c := .none, types := [.s32, .s64] }
  | .ineg _ => some { d := .v .ty, a := .v .ty, b := .none, c := .none, types := [.s32, .s64] }
  | .imin _ => some { d := .v .ty, a := .v .ty, b := .x .ty, c := .none, types := [.s32, .s64, .n32, .n64] }
  | .imax _ => some { d := .v .ty, a := .v .ty, b := .x .ty, c := .none, types := [.s32, .s64, .n32, .n64] }
  | .iaddc _ => some { d := .v .ty, a := .v .ty, b := .x .ty, c := .p, types := [.n32] }
  | .isubb _ => some { d := .v .ty, a := .v .ty, b := .x .ty, c := .p, types := [.n32] }
  | .isad _ => some { d := .v .w32, a := .v .w32, b := .x .w32, c := .v .w32, types := [.n8, .s32, .n32] }
  | .lea _ => some { d := .v .ty, a := .v .ty, b := .x .ty, c := .i 0 31, types := [.s32, .n32] }
  | .leaHi _ => some { d := .v .ty, a := .w, b := .x .ty, c := .i 0 31, types := [.s32, .n32] }
  | .andB _ => some { d := .v .ty, a := .v .ty, b := .x .ty, c := .none, types := [.n32, .n64] }
  | .orB _ => some { d := .v .ty, a := .v .ty, b := .x .ty, c := .none, types := [.n32, .n64] }
  | .xorB _ => some { d := .v .ty, a := .v .ty, b := .x .ty, c := .none, types := [.n32, .n64] }
  | .notB _ => some { d := .v .ty, a := .v .ty, b := .none, c := .none, types := [.n32, .n64] }
  | .tern _ => some { d := .v .ty, a := .v .ty, b := .x .ty, c := .i 0 255, types := [.n32] }
  | .shl _ => some { d := .v .ty, a := .v .ty, b := .x .w32, c := .none, types := [.n32, .n64] }
  | .shr _ => some { d := .v .ty, a := .v .ty, b := .x .w32, c := .none, types := [.n32, .n64] }
  | .sar _ => some { d := .v .ty, a := .v .ty, b := .x .w32, c := .none, types := [.n32, .n64] }
  | .rotl _ => some { d := .v .ty, a := .v .ty, b := .x .w32, c := .none, types := [.n32, .n64] }
  | .fshl _ => some { d := .v .ty, a := .v .ty, b := .x .ty, c := .v .ty, types := [.n32] }
  | .bfe _ => some { d := .v .ty, a := .v .ty, b := .x .ty, c := .i 0 32, types := [.s32, .n32] }
  | .bfi _ => some { d := .v .ty, a := .v .ty, b := .x .ty, c := .i 0 32, types := [.n32] }
  | .popc _ => some { d := .v .w32, a := .v .ty, b := .none, c := .none, types := [.n32, .n64] }
  | .clz _ => some { d := .v .w32, a := .v .ty, b := .none, c := .none, types := [.n32, .n64] }
  | .ctz _ => some { d := .v .w32, a := .v .ty, b := .none, c := .none, types := [.n32, .n64] }
  | .brev _ => some { d := .v .ty, a := .v .ty, b := .none, c := .none, types := [.n32, .n64] }
  | .bperm _ => some { d := .v .ty, a := .v .ty, b := .x .ty, c := .v .ty, types := [.n32] }
  | .icmp .eq _ => some { d := .p, a := .v .ty, b := .x .ty, c := .none, types := [.s32, .s64, .n32, .n64] }
  | .icmp .ne _ => some { d := .p, a := .v .ty, b := .x .ty, c := .none, types := [.s32, .s64, .n32, .n64] }
  | .icmp .lt _ => some { d := .p, a := .v .ty, b := .x .ty, c := .none, types := [.s32, .s64, .n32, .n64] }
  | .icmp .le _ => some { d := .p, a := .v .ty, b := .x .ty, c := .none, types := [.s32, .s64, .n32, .n64] }
  | .icmp .gt _ => some { d := .p, a := .v .ty, b := .x .ty, c := .none, types := [.s32, .s64, .n32, .n64] }
  | .icmp .ge _ => some { d := .p, a := .v .ty, b := .x .ty, c := .none, types := [.s32, .s64, .n32, .n64] }
  | .sel _ => some { d := .v .ty, a := .v .ty, b := .x .ty, c := .p, types := [.n32, .n64] }
  | .mov _ => some { d := .v .ty, a := .v .ty, b := .none, c := .none, types := [.n32, .n64] }
  | .movi _ => some { d := .v .ty, a := .none, b := .x .ty, c := .i 0 3, types := [.n32], bKinds := .immOnly }
  | .movk _ => some { d := .v .ty, a := .none, b := .x .ty, c := .none, types := [.n32], bKinds := .noImm }
  | .psetp .and _ => some { d := .p, a := .p, b := .p, c := .none, types := [] }
  | .psetp .or _ => some { d := .p, a := .p, b := .p, c := .none, types := [] }
  | .psetp .xor _ => some { d := .p, a := .p, b := .p, c := .none, types := [] }
  | .psetp .andn _ => some { d := .p, a := .p, b := .p, c := .none, types := [] }
  | .p2v _ => some { d := .v .w32, a := .none, b := .none, c := .none, types := [] }
  | .v2p _ => some { d := .none, a := .v .w32, b := .x .w32, c := .none, types := [], bKinds := .immOnly, extra := fun o => o.b.field < 128#8 }
  | .srd _ => some { d := .v .ty, a := .s, b := .none, c := .none, types := [.n32, .n64] }
  | .cvti _ => some { d := .v .ty, a := .v .src, b := .none, c := .i 0 7, types := [.s8, .s16, .s32, .s64, .n8, .n16, .n32, .n64], mods := [0, 1] }
  | .pack _ => some { d := .v .dbl, a := .v .ty, b := .x .ty, c := .none, types := [.n16, .n32] }
  | .unpack _ => some { d := .w, a := .v .w32, b := .none, c := .none, types := [.n16, .s16] }
  | .fadd _ => some { d := .v .ty, a := .v .ty, b := .x .ty, c := .none, types := [.f32], mods := [0, 1, 2, 3] }
  | .fsub _ => some { d := .v .ty, a := .v .ty, b := .x .ty, c := .none, types := [.f32], mods := [0, 1, 2, 3] }
  | .fmul _ => some { d := .v .ty, a := .v .ty, b := .x .ty, c := .none, types := [.f32], mods := [0, 1, 2, 3] }
  | .ffma _ => some { d := .v .ty, a := .v .ty, b := .x .ty, c := .v .ty, types := [.f32], mods := [0, 1, 2, 3] }
  | .fmin _ => some { d := .v .ty, a := .v .ty, b := .x .ty, c := .none, types := [.f32] }
  | .fmax _ => some { d := .v .ty, a := .v .ty, b := .x .ty, c := .none, types := [.f32] }
  | .fcmp .eq _ => some { d := .p, a := .v .ty, b := .x .ty, c := .none, types := [.f32] }
  | .fcmp .ne _ => some { d := .p, a := .v .ty, b := .x .ty, c := .none, types := [.f32] }
  | .fcmp .lt _ => some { d := .p, a := .v .ty, b := .x .ty, c := .none, types := [.f32] }
  | .fcmp .le _ => some { d := .p, a := .v .ty, b := .x .ty, c := .none, types := [.f32] }
  | .fcmp .gt _ => some { d := .p, a := .v .ty, b := .x .ty, c := .none, types := [.f32] }
  | .fcmp .ge _ => some { d := .p, a := .v .ty, b := .x .ty, c := .none, types := [.f32] }
  | .fcmp .unord _ => some { d := .p, a := .v .ty, b := .x .ty, c := .none, types := [.f32] }
  | .fcmp .ord _ => some { d := .p, a := .v .ty, b := .x .ty, c := .none, types := [.f32] }
  | .fclass _ => some { d := .p, a := .v .ty, b := .x .ty, c := .none, types := [.f32], bKinds := .immOnly }
  | .hadd2 _ => some { d := .v .w32, a := .v .w32, b := .x .w32, c := .none, types := [.f16, .bf16], mods := [0, 1, 2, 3] }
  | .hmul2 _ => some { d := .v .w32, a := .v .w32, b := .x .w32, c := .none, types := [.f16, .bf16], mods := [0, 1, 2, 3] }
  | .hfma2 _ => some { d := .v .w32, a := .v .w32, b := .x .w32, c := .v .w32, types := [.f16, .bf16], mods := [0, 1, 2, 3] }
  | .hmin2 _ => some { d := .v .w32, a := .v .w32, b := .x .w32, c := .none, types := [.f16, .bf16] }
  | .hmax2 _ => some { d := .v .w32, a := .v .w32, b := .x .w32, c := .none, types := [.f16, .bf16] }
  | .fdot2 _ => some { d := .v .w32, a := .v .w32, b := .x .w32, c := .v .w32, types := [.f16, .bf16], mods := [0, 1, 2, 3] }
  | .frcp _ => some { d := .v .ty, a := .v .ty, b := .none, c := .none, types := [.f32], ll := true }
  | .frsq _ => some { d := .v .ty, a := .v .ty, b := .none, c := .none, types := [.f32], ll := true }
  | .fsqrt _ => some { d := .v .ty, a := .v .ty, b := .none, c := .none, types := [.f32], ll := true }
  | .fexp2 _ => some { d := .v .ty, a := .v .ty, b := .none, c := .none, types := [.f32], ll := true }
  | .flog2 _ => some { d := .v .ty, a := .v .ty, b := .none, c := .none, types := [.f32], ll := true }
  | .fsin _ => some { d := .v .ty, a := .v .ty, b := .none, c := .none, types := [.f32], ll := true }
  | .fcos _ => some { d := .v .ty, a := .v .ty, b := .none, c := .none, types := [.f32], ll := true }
  | .ftanh _ => some { d := .v .ty, a := .v .ty, b := .none, c := .none, types := [.f32], ll := true }
  | .cvt _ => some { d := .v .ty, a := .v .src, b := .none, c := .i 0 15, types := [.s8, .s16, .s32, .s64, .n8, .n16, .n32, .n64, .f16, .bf16, .f32, .e4m3, .e5m2, .slot], mods := [0, 1, 2, 3], slot := .ifF, extra := cvtExtra }
  | .cvtBlkTo _ => some { d := .v .w32, a := .v .w32, b := .none, c := .v .w32, types := [.slot], slot := .always }
  | .cvtBlkFrom _ => some { d := .v .w32, a := .v .w32, b := .none, c := .v .w32, types := [.slot], slot := .always }
  | .xlane .sel _ => some { d := .v .ty, a := .v .ty, b := .x .ty, c := .i 0 5, types := [.n32] }
  | .xlane .rot _ => some { d := .v .ty, a := .v .ty, b := .x .ty, c := .i 0 5, types := [.n32] }
  | .xlane .xor _ => some { d := .v .ty, a := .v .ty, b := .x .ty, c := .i 0 5, types := [.n32] }
  | .xlane .mir _ => some { d := .v .ty, a := .v .ty, b := .x .ty, c := .i 0 5, types := [.n32] }
  | .vote .all _ => some { d := .p, a := .p, b := .none, c := .none, types := [] }
  | .vote .any _ => some { d := .p, a := .p, b := .none, c := .none, types := [] }
  | .vote .eq _ => some { d := .p, a := .p, b := .none, c := .none, types := [] }
  | .voteBallot _ => some { d := .v .w32, a := .p, b := .none, c := .none, types := [] }
  | .matchLanes .any _ => some { d := .v .w32, a := .v .ty, b := .none, c := .none, types := [.n32, .n64] }
  | .matchLanes .all _ => some { d := .v .w32, a := .v .ty, b := .none, c := .none, types := [.n32, .n64] }
  | .redux .add _ => some { d := .v .ty, a := .v .ty, b := .none, c := .none, types := [.s32, .n32] }
  | .redux .min _ => some { d := .v .ty, a := .v .ty, b := .none, c := .none, types := [.s32, .n32] }
  | .redux .max _ => some { d := .v .ty, a := .v .ty, b := .none, c := .none, types := [.s32, .n32] }
  | .redux .and _ => some { d := .v .ty, a := .v .ty, b := .none, c := .none, types := [.s32, .n32] }
  | .redux .or _ => some { d := .v .ty, a := .v .ty, b := .none, c := .none, types := [.s32, .n32] }
  | .redux .xor _ => some { d := .v .ty, a := .v .ty, b := .none, c := .none, types := [.s32, .n32] }
  | .fredux .add _ => some { d := .v .ty, a := .v .ty, b := .none, c := .none, types := [.f32] }
  | .fredux .min _ => some { d := .v .ty, a := .v .ty, b := .none, c := .none, types := [.f32] }
  | .fredux .max _ => some { d := .v .ty, a := .v .ty, b := .none, c := .none, types := [.f32] }
  | .scan .add _ => some { d := .v .ty, a := .v .ty, b := .none, c := .none, types := [.s32, .n32, .f32] }
  | .scan .xadd _ => some { d := .v .ty, a := .v .ty, b := .none, c := .none, types := [.s32, .n32, .f32] }
  | .scan .min _ => some { d := .v .ty, a := .v .ty, b := .none, c := .none, types := [.s32, .n32, .f32] }
  | .scan .max _ => some { d := .v .ty, a := .v .ty, b := .none, c := .none, types := [.s32, .n32, .f32] }
  | .ld .one _ => some { d := .g 1, a := .w, b := .x .w32, c := .none, types := [.s8, .s16, .n8, .n16, .n32, .n64], scopes := allScopes, mods := [0, 1, 3], ll := true }
  | .ld .two _ => some { d := .g 2, a := .w, b := .x .w32, c := .none, types := [.s8, .s16, .n8, .n16, .n32, .n64], scopes := allScopes, mods := [0, 1, 3], ll := true }
  | .ld .four _ => some { d := .g 4, a := .w, b := .x .w32, c := .none, types := [.s8, .s16, .n8, .n16, .n32], scopes := allScopes, mods := [0, 1, 3], ll := true }
  | .st .one _ => some { d := .g 1, a := .w, b := .x .w32, c := .none, types := [.n8, .n16, .n32, .n64], scopes := allScopes, mods := [0, 2, 3] }
  | .st .two _ => some { d := .g 2, a := .w, b := .x .w32, c := .none, types := [.n8, .n16, .n32, .n64], scopes := allScopes, mods := [0, 2, 3] }
  | .st .four _ => some { d := .g 4, a := .w, b := .x .w32, c := .none, types := [.n8, .n16, .n32], scopes := allScopes, mods := [0, 2, 3] }
  | .lds .one _ => some { d := .g 1, a := .v .w32, b := .x .w32, c := .none, types := [.s8, .s16, .n8, .n16, .n32, .n64], scopes := [.wg, .cl], mods := [0, 1, 3], ll := true }
  | .lds .two _ => some { d := .g 2, a := .v .w32, b := .x .w32, c := .none, types := [.s8, .s16, .n8, .n16, .n32, .n64], scopes := [.wg, .cl], mods := [0, 1, 3], ll := true }
  | .lds .four _ => some { d := .g 4, a := .v .w32, b := .x .w32, c := .none, types := [.s8, .s16, .n8, .n16, .n32], scopes := [.wg, .cl], mods := [0, 1, 3], ll := true }
  | .sts .one _ => some { d := .g 1, a := .v .w32, b := .x .w32, c := .none, types := [.n8, .n16, .n32, .n64], scopes := [.wg, .cl], mods := [0, 2, 3] }
  | .sts .two _ => some { d := .g 2, a := .v .w32, b := .x .w32, c := .none, types := [.n8, .n16, .n32, .n64], scopes := [.wg, .cl], mods := [0, 2, 3] }
  | .sts .four _ => some { d := .g 4, a := .v .w32, b := .x .w32, c := .none, types := [.n8, .n16, .n32], scopes := [.wg, .cl], mods := [0, 2, 3] }
  | .ldp .one _ => some { d := .g 1, a := .v .w32, b := .x .w32, c := .none, types := [.n8, .n16, .n32, .n64], ll := true }
  | .ldp .two _ => some { d := .g 2, a := .v .w32, b := .x .w32, c := .none, types := [.n8, .n16, .n32, .n64], ll := true }
  | .ldp .four _ => some { d := .g 4, a := .v .w32, b := .x .w32, c := .none, types := [.n8, .n16, .n32], ll := true }
  | .stp .one _ => some { d := .g 1, a := .v .w32, b := .x .w32, c := .none, types := [.n8, .n16, .n32, .n64] }
  | .stp .two _ => some { d := .g 2, a := .v .w32, b := .x .w32, c := .none, types := [.n8, .n16, .n32, .n64] }
  | .stp .four _ => some { d := .g 4, a := .v .w32, b := .x .w32, c := .none, types := [.n8, .n16, .n32] }
  | .ldc _ => some { d := .v .ty, a := .w, b := .x .w32, c := .none, types := [.n32, .n64], ll := true }
  | .prefetch .l1 _ => some { d := .none, a := .w, b := .x .w32, c := .none, types := [] }
  | .prefetch .llc _ => some { d := .none, a := .w, b := .x .w32, c := .none, types := [] }
  | .atom .add _ => some { d := .v .ty, a := .w, b := .x .ty, c := .none, types := [.s32, .s64, .n32, .n64], scopes := allScopes, mods := [0, 1, 2, 3], ll := true }
  | .atom .min _ => some { d := .v .ty, a := .w, b := .x .ty, c := .none, types := [.s32, .s64, .n32, .n64], scopes := allScopes, mods := [0, 1, 2, 3], ll := true }
  | .atom .max _ => some { d := .v .ty, a := .w, b := .x .ty, c := .none, types := [.s32, .s64, .n32, .n64], scopes := allScopes, mods := [0, 1, 2, 3], ll := true }
  | .atom .and _ => some { d := .v .ty, a := .w, b := .x .ty, c := .none, types := [.s32, .s64, .n32, .n64], scopes := allScopes, mods := [0, 1, 2, 3], ll := true }
  | .atom .or _ => some { d := .v .ty, a := .w, b := .x .ty, c := .none, types := [.s32, .s64, .n32, .n64], scopes := allScopes, mods := [0, 1, 2, 3], ll := true }
  | .atom .xor _ => some { d := .v .ty, a := .w, b := .x .ty, c := .none, types := [.s32, .s64, .n32, .n64], scopes := allScopes, mods := [0, 1, 2, 3], ll := true }
  | .atom .exch _ => some { d := .v .ty, a := .w, b := .x .ty, c := .none, types := [.s32, .s64, .n32, .n64], scopes := allScopes, mods := [0, 1, 2, 3], ll := true }
  | .atomCas _ => some { d := .v .ty, a := .w, b := .x .ty, c := .v .ty, types := [.n32, .n64], scopes := allScopes, mods := [0, 1, 2, 3], ll := true }
  | .atomFadd _ => some { d := .v .w32, a := .w, b := .x .w32, c := .none, types := [.f32, .f16, .bf16], scopes := allScopes, mods := [0, 1, 2, 3], ll := true }
  | .red .add _ => some { d := .none, a := .w, b := .x .ty, c := .none, types := [.s32, .s64, .n32, .n64], scopes := allScopes, mods := [0, 2, 3] }
  | .red .min _ => some { d := .none, a := .w, b := .x .ty, c := .none, types := [.s32, .s64, .n32, .n64], scopes := allScopes, mods := [0, 2, 3] }
  | .red .max _ => some { d := .none, a := .w, b := .x .ty, c := .none, types := [.s32, .s64, .n32, .n64], scopes := allScopes, mods := [0, 2, 3] }
  | .red .and _ => some { d := .none, a := .w, b := .x .ty, c := .none, types := [.s32, .s64, .n32, .n64], scopes := allScopes, mods := [0, 2, 3] }
  | .red .or _ => some { d := .none, a := .w, b := .x .ty, c := .none, types := [.s32, .s64, .n32, .n64], scopes := allScopes, mods := [0, 2, 3] }
  | .red .xor _ => some { d := .none, a := .w, b := .x .ty, c := .none, types := [.s32, .s64, .n32, .n64], scopes := allScopes, mods := [0, 2, 3] }
  | .redFadd _ => some { d := .none, a := .w, b := .x .w32, c := .none, types := [.f32], scopes := allScopes, mods := [0, 2, 3] }
  | .ldv _ => some { d := .v .ty, a := .w, b := .x .w32, c := .v .w32, types := [.n32, .n64], scopes := [.die, .dev, .sys], ll := true }
  | .stv _ => some { d := .v .ty, a := .w, b := .x .w32, c := .v .w32, types := [.n32, .n64], scopes := [.die, .dev, .sys], ll := true }
  | .reclaim _ => some { d := .v .w32, a := .w, b := .x .w32, c := .none, types := [], scopes := [.die, .dev, .sys], ll := true }
  | .fence _ => some { d := .none, a := .none, b := .none, c := .none, types := [], scopes := [.wg, .cl, .die, .dev, .sys], mods := [1, 2, 3] }
  | .lockLine _ => some { d := .p, a := .w, b := .none, c := .none, types := [] }
  | .unlockLine _ => some { d := .none, a := .w, b := .none, c := .none, types := [] }
  | .cflush .wb _ => some { d := .none, a := .w, b := .none, c := .none, types := [], scopes := allScopes }
  | .cflush .inv _ => some { d := .none, a := .w, b := .none, c := .none, types := [], scopes := allScopes }
  | .waddr .eq _ => some { d := .p, a := .v .ty, b := .x .ty, c := .v .ty, types := [.n32] }
  | .waddr .ne _ => some { d := .p, a := .v .ty, b := .x .ty, c := .v .ty, types := [.n32] }
  | .btCopy _ => some { d := .v .w32, a := .v .w32, b := .none, c := .none, types := [], scopes := [.wg, .cl, .die, .dev, .sys], ll := true }
  | .btGather _ => some { d := .v .w32, a := .v .w32, b := .none, c := .none, types := [], scopes := [.wg, .cl, .die, .dev, .sys], ll := true }
  | .btScatter _ => some { d := .v .w32, a := .v .w32, b := .none, c := .none, types := [], scopes := [.wg, .cl, .die, .dev, .sys], ll := true }
  | .btWait _ => some { d := .none, a := .v .w32, b := .x .w32, c := .none, types := [], mods := [0, 1, 2, 3] }
  | .btTest _ => some { d := .p, a := .v .w32, b := .x .w32, c := .none, types := [], mods := [0, 1, 2, 3] }
  | .strmBind _ => some { d := .i 0 31, a := .v .w32, b := .none, c := .none, types := [], ll := true, extra := fun o => o.d.getLsbD 4 || !(o.d.getLsbD 3) }
  | .winCfg _ => some { d := .none, a := .v .w32, b := .none, c := .none, types := [], ll := true }
  | .lay _ => some { d := .v .w32, a := .w, b := .x .w64, c := .none, types := [], scopes := [.wg, .cl, .die, .dev, .sys], ll := true, bKinds := .noImm }
  | .engCancel .bt _ => some { d := .none, a := .v .w32, b := .none, c := .none, types := [] }
  | .engCancel .lay _ => some { d := .none, a := .v .w32, b := .none, c := .none, types := [] }
  | .engCancel .strm _ => some { d := .none, a := .v .w32, b := .none, c := .none, types := [] }
  | .mxPost _ => some { d := .v .w32, a := .v .w32, b := .none, c := .none, types := [], ll := true }
  | .mxWait _ => some { d := .none, a := .v .w32, b := .none, c := .none, types := [] }
  | .mxPoll _ => some { d := .p, a := .v .w32, b := .none, c := .none, types := [] }
  | .mxBload _ => some { d := .v .w32, a := .v .w32, b := .none, c := .none, types := [], ll := true }
  | .mxBfree _ => some { d := .none, a := .v .w32, b := .none, c := .none, types := [] }
  | .mxAccrd _ => some { d := .v .w32, a := .v .w32, b := .x .w32, c := .none, types := [], ll := true, slot := .always, bKinds := .noImm }
  | .bra _ => some { d := .none, a := .none, b := .x .w32, c := .none, types := [], transfer := true }
  | .brx _ => some { d := .none, a := .w, b := .none, c := .none, types := [], transfer := true }
  | .jcall _ => some { d := .w, a := .none, b := .x .w32, c := .none, types := [], transfer := true }
  | .jcallInd _ => some { d := .w, a := .w, b := .none, c := .none, types := [], transfer := true }
  | .ret _ => some { d := .none, a := .w, b := .none, c := .none, types := [], transfer := true }
  | .exit _ => some { d := .none, a := .none, b := .none, c := .none, types := [], transfer := true }
  | .loop _ => some { d := .v .ty, a := .none, b := .x .ty, c := .none, types := [.n32], transfer := true }
  | .yield _ => some { d := .none, a := .none, b := .none, c := .none, types := [] }
  | .nop _ => some { d := .none, a := .none, b := .none, c := .none, types := [] }
  | .trap _ => some { d := .none, a := .none, b := .x .w32, c := .none, types := [], bKinds := .immOnly }
  | .capOff _ => some { d := .none, a := .none, b := .none, c := .none, types := [] }
  | .capOn _ => some { d := .none, a := .none, b := .none, c := .none, types := [] }
  | .brk _ => some { d := .none, a := .none, b := .none, c := .none, types := [] }
  | .barInit _ => some { d := .i 0 15, a := .none, b := .x .w32, c := .none, types := [] }
  | .barArrive _ => some { d := .i 0 15, a := .none, b := .none, c := .none, types := [] }
  | .barWait _ => some { d := .i 0 15, a := .none, b := .none, c := .none, types := [] }
  | .barSync _ => some { d := .i 0 15, a := .none, b := .none, c := .none, types := [] }
  | .castle _ => some { d := .none, a := .none, b := .x .w32, c := .i 0 30, types := [], mods := [0, 1] }
  | .tagOpen _ => some { d := .v .w32, a := .none, b := .none, c := .i 0 3, types := [] }
  | .tagClose _ => some { d := .none, a := .v .w32, b := .none, c := .i 0 3, types := [] }
  | .sleep _ => some { d := .none, a := .none, b := .x .w32, c := .none, types := [] }
  | .flagWait _ => some { d := .none, a := .none, b := .x .w32, c := .i 0 15, types := [], bKinds := .immOnly }
  | .dlaunch _ => some { d := .v .w32, a := .w, b := .none, c := .none, types := [], ll := true }
  | .dwait _ => some { d := .none, a := .v .w32, b := .none, c := .none, types := [] }
  | .qpost _ => some { d := .v .w32, a := .w, b := .x .w32, c := .none, types := [], ll := true }
  | .qkick _ => some { d := .none, a := .v .w32, b := .x .w32, c := .none, types := [] }
  | .clock .cal _ => some { d := .w, a := .none, b := .none, c := .none, types := [] }
  | .clock .ck _ => some { d := .w, a := .none, b := .none, c := .none, types := [] }
  | .perfrd _ => some { d := .w, a := .none, b := .x .w32, c := .none, types := [], extra := fun o => match o.b with | .imm v => v < 64#8 | _ => true }
  | .csrr _ => some { d := .v .ty, a := .none, b := .x .w32, c := .none, types := [.n32, .n64] }
  | .csrw _ => some { d := .none, a := .v .ty, b := .x .w32, c := .none, types := [.n32, .n64] }
  | .tlbinvPage _ => some { d := .none, a := .w, b := .x .w32, c := .none, types := [] }
  | .tlbinvRange _ => some { d := .none, a := .w, b := .x .w32, c := .none, types := [] }
  | .tlbinvCtx _ => some { d := .none, a := .w, b := .x .w32, c := .none, types := [] }
  | .tlbinvAll _ => some { d := .none, a := .w, b := .x .w32, c := .none, types := [] }
  | .tlbsync _ => some { d := .v .w32, a := .none, b := .none, c := .none, types := [], ll := true }
  | .eret _ => some { d := .none, a := .none, b := .none, c := .none, types := [], transfer := true }
  | .faultDone _ => some { d := .none, a := .v .w32, b := .none, c := .none, types := [] }
  | .ptabLoad _ => some { d := .v .w32, a := .w, b := .x .w32, c := .none, types := [], ll := true }
  | .prangeSet _ => some { d := .v .w32, a := .w, b := .none, c := .none, types := [], ll := true }
  | .prangeClear _ => none
  | .linkCtlRd _ => some { d := .v .w32, a := .none, b := .x .w32, c := .i 0 6, types := [], ll := true }
  | .linkCtlRate _ => some { d := .v .w32, a := .none, b := .x .w32, c := .i 0 6, types := [], ll := true }
  | .linkCtlRetire _ => some { d := .v .w32, a := .none, b := .x .w32, c := .i 0 6, types := [], ll := true }
  | .linkCtlClr _ => some { d := .v .w32, a := .none, b := .x .w32, c := .i 0 6, types := [], ll := true }
  | .ctxSave _ => some { d := .v .w32, a := .w, b := .none, c := .none, types := [], ll := true }
  | .ctxResume _ => none
  | .gred .addF32 _ => some { d := .v .w32, a := .v .w32, b := .v .w32, c := .v .w32, types := [.f32] }
  | .gred .addN32 _ => some { d := .v .w32, a := .v .w32, b := .v .w32, c := .v .w32, types := [.n32] }
  | .gred .minF32 _ => some { d := .v .w32, a := .v .w32, b := .v .w32, c := .v .w32, types := [.f32] }
  | .gred .maxF32 _ => some { d := .v .w32, a := .v .w32, b := .v .w32, c := .v .w32, types := [.f32] }
  | .gmrg _ => some { d := .v .w32, a := .v .w32, b := .v .w32, c := .none, types := [] }
  | .gdly _ => some { d := .v .w32, a := .v .w32, b := .none, c := .i 1 255, types := [] }
  | .gjoin _ => some { d := .v .w32, a := .v .w32, b := .v .w32, c := .v .w32, types := [] }
  | .udiv _ => some { d := .v .ty, a := .v .ty, b := .x .ty, c := .none, types := [.n32] }
  | .urem _ => some { d := .v .ty, a := .v .ty, b := .x .ty, c := .none, types := [.n32] }
  | .loadContext _ => none
  | .loadTenant _ => none
  | .stopContext _ => none
  | .flushPlacementCache _ => none
  | .clauseIssue _ => none
  | .bundlerRegroup _ => none
  | .longLatencyComplete _ => none
  | .errorResponseDelivery _ => none
  | .sleepExpiry _ _ _ => none
  | .waddrDeadline _ _ _ => none
  | .kickRegisterWrite _ _ _ => none
  | .queueIdleUnmap _ => none
  | .dispatchRound _ => none
  | .graphNodeFire _ _ => none
  | .graphNodeEnd _ _ => none
  | .hostringRecordCopy _ _ => none
  | .hostringCtimeExpiry _ _ => none
  | .leakyBucketRefill _ _ => none
  | .powerRateChange _ _ _ => none
  | .placementRecordReady _ _ _ => none
  | .placerDecline _ _ => none
  | .configurationArm _ _ => none
  | .handlerFire _ _ _ _ _ => none
  | .tokenTransfer _ _ => none
  | .iterationCommit _ _ => none
  | .iterationRetire _ _ => none
  | .warpDrain _ _ => none
  | .gridStall _ _ => none
  | .read _ => none
  | .write _ => none
  | .rmw _ => none
  | .evictClean _ _ => none
  | .evictDirty _ _ => none
  | .ackIn _ => none
  | .dataIn _ => none
  | .timeout _ => none
  | .leaseEnd _ => none
  | .writeAgain _ => none
  | .versionedAccessAtHome _ => none
  | .ptsAdvance _ => none
  | .m2sMemRd _ _ => none
  | .m2sMemWr _ _ => none
  | .m2sBiRsp _ _ => none
  | .hostSnoop _ _ => none
  | .wakeLate _ => none
  | .dieLost _ => none
  | .btChunkComplete _ _ => none
  | .engineFault _ => none
  | .heldFaultRetry _ => none
  | .streamStart _ => none
  | .streamElementDelivery _ => none
  | .windowRowEmit _ => none
  | .mxGrant _ => none
  | .mxOperationComplete _ => none
  | .mxReduction _ => none
  | .mxBlockLoadComplete _ _ => none
  | .flitReceive _ _ _ _ _ => none
  | .linkRetrainComplete _ _ => none
  | .linkWindowEnd _ _ => none
  | .eccCorrected _ => none
  | .eccUncorrectable _ => none
  | .scrubRead _ => none
  | .moduleReset => none
  | .boot => none
  | .getVersion _ => none
  | .getCapabilities _ => none
  | .negotiateAlgorithms _ => none
  | .getDigests _ => none
  | .getCertificate _ => none
  | .challenge _ => none
  | .getMeasurements _ => none
  | .unsupportedRequest _ => none
  | .engineFaultHeld _ => none
  | .memoryPortReply _ => none
  | .writeAcknowledgement _ => none
  | .invalidationReceived _ _ => none
  | .linkWakeComplete _ _ => none

/-- Bits of an operand of width `w`. -/
def Wd.bits (wd : Wd) (o : Operands) : Nat :=
  match wd with
  | .ty => o.ty.bits
  | .w32 => 32
  | .w64 => 64
  | .src => (o.srcTy.map Ty.bits).getD 32
  | .dbl => if o.ty.bits = 32 then 64 else 32

/-- Registers an operand of this class takes: one for 32 bits or fewer, a pair for 64 (03 R50). -/
def Cls.regs (c : Cls) (o : Operands) : Nat :=
  match c with
  | .v wd | .x wd => if wd.bits o = 64 then 2 else 1
  | .w => 2
  | .g n => n * (if o.ty.bits = 64 then 2 else 1)
  | _ => 0

/-- The check of R50 on a D, A or C field. -/
def Cls.fieldOk (c : Cls) (o : Operands) (v : Field) : Bool :=
  match c with
  | .none => v == 0
  | .v _ | .x _ | .w | .g _ => v.toNat % c.regs o == 0
  | .p => v < 8#8
  | .i lo hi => decide (lo ≤ v.toNat ∧ v.toNat ≤ hi)
  | .s => srdListed v.toNat

/-- The check of R50 and R51 on B; `handler` allows SB 0b11 (13 R331). -/
def Cls.bOk (c : Cls) (k : BKinds) (handler : Bool) (o : Operands) : Bool :=
  match c with
  | .x _ =>
    match o.b with
    | .reg r => k != .immOnly && r.toNat % c.regs o == 0
    | .imm _ => k != .noImm
    | .k idx => k != .immOnly && idx < 64#8 && idx.toNat % c.regs o == 0
    | .const _ => handler && k != .immOnly
  | _ => match o.b with
    | .reg r => c.fieldOk o r
    | _ => false

/-- Whether the form reads a slot with these operands (03 R56). -/
def Form.readsSlot (f : Form) (o : Operands) : Bool :=
  match f.slot with
  | .never => false
  | .always => true
  | .ifF => o.ty == .slot || o.srcTy == some .slot

/-- Whether A names a port register legally (03 R53): class V, one register, A[7:3] zero. An A of 8 or 16 bits that is read in one register counts as 32 bits
wide (log entry 31, DEDUCED). A handler's mov may name a grid ingress port
with A[4] = 1 (13 R319). -/
def Form.portOk (f : Form) (handler isMov : Bool) (o : Operands) : Bool :=
  match f.a with
  | .v _ => f.a.regs o == 1 && (o.a < 8#8 || (handler && isMov && o.a.getLsbD 4 && o.a < 32#8))
  | _ => false

/-- Check 4 of R77: every field obeys R50 to R58 and the form's own entry. `handler` is a handler entry of the grid, `rkl` an RKL word. -/
def Form.fieldsOk (f : Form) (handler rkl isMov : Bool) (o : Operands) : Bool :=
  (!f.types.isEmpty || o.ty == .s8)
    && f.d.fieldOk o o.d
    && (if o.qa then f.portOk handler isMov o else f.a.fieldOk o o.a)
    && f.b.bOk f.bKinds handler o
    && f.c.fieldOk o o.c
    && (f.readsSlot o || o.fs == 0)
    && f.scopes.contains o.sc
    && f.mods.contains o.mod
    && (!o.fsel || (f.ll && !handler && !rkl))
    && f.extra o

/-- A type the form accepts, where it has a type (03 R55). -/
def Form.typeOk (f : Form) (t : Ty) : Bool := f.types.isEmpty || f.types.contains t

/-- Registers that a D, A or C field names: first and count. -/
def Cls.span (c : Cls) (o : Operands) (v : Field) : List (Nat × Nat) :=
  if c.regs o = 0 then [] else [(v.toNat, c.regs o)]

/-- Registers that the operands name, first and count (check 5 of R77). -/
def Form.spans (f : Form) (o : Operands) : List (Nat × Nat) :=
  f.d.span o o.d ++ (if o.qa then [] else f.a.span o o.a)
    ++ (match f.b, o.b with
        | .x _, .reg r => f.b.span o r
        | .v _, .reg r => f.b.span o r
        | _, _ => [])
    ++ f.c.span o o.c

/-- Check 5 of R77: no register at or above the budget (02 R29). -/
def Form.budgetOk (f : Form) (budget : Nat) (o : Operands) : Bool := (f.spans o).all fun s => decide (s.1 + s.2 ≤ budget)

end Sys2Proof
end

