-- ==== Sys2Proof/WellFormed.lean ====
section
/-!
DEFINITION. WellFormed.lean: which instructions are well formed: those whose type the form accepts and whose fields pass check 4 of 03 R77.
-/
namespace Sys2Proof

/-- The mov forms, whose A may name a grid ingress port in a handler entry (13 R319). -/
def Instr.isMov : Instr → Bool
  | .mov _ => true
  | _ => false

/-- The instruction passes checks 2 and 4 of R77. An event has no word and is well formed. -/
def WellFormedAs (handler rkl : Bool) (i : Instr) : Bool :=
  match i.form, i.operands with
  | some f, some o => f.typeOk o.ty && f.fieldsOk handler rkl i.isMov o
  | _, none => true
  | none, some _ => false

/-- A well-formed native instruction, or an event. -/
def WellFormed (i : Instr) : Bool := WellFormedAs false false i

end Sys2Proof
end

