-- ==== Sys2Proof/Decode.lean ====
section
/-!
DEFINITION. Decode.lean: from a 64-bit word to an instruction or a named trap, in the order of the checks of 03 R77; the clause header of R59
with the checks of R60; and the encoder, written from the same tables.
-/
namespace Sys2Proof

/-- The traps that decoding raises (03 R77). -/
inductive EncTrap where
  | illegalClause | illegalOpcode | privilege | reservedField | regRange
  deriving DecidableEq, Repr

/-- Where a word stands: as a native instruction in user or supervisor mode, in a handler entry (13 R335), or as an RKL word (15 R372). -/
structure DecodeAt where
  user : Bool := false
  handler : Bool := false
  rkl : Bool := false
  deriving DecidableEq, Repr

/-- OP of a word (03 R49). -/
def wordOp (w : DWord) : Nat := (w.extractLsb' 56 8).toNat
/-- FN of a word. -/
def wordFn (w : DWord) : Nat := (w.extractLsb' 52 4).toNat

/-- The guard field (03 R54). -/
def wordGuard (w : DWord) : Guard := { neg := w.getLsbD 51, p := (w.extractLsb' 48 3).toFin }

/-- The B operand that SB and B name (03 R51). -/
def wordB (w : DWord) : BOp :=
  match (w.extractLsb' 4 2).toNat with
  | 0 => .reg (w.extractLsb' 24 8)
  | 1 => .imm (w.extractLsb' 24 8)
  | 2 => .k (w.extractLsb' 24 8)
  | _ => .const (w.extractLsb' 24 8)

/-- The operand fields of a word; none where TY or SC holds a reserved code (03 R55, R57). -/
def wordOperands (w : DWord) : Option Operands :=
  match Ty.ofCode (w.extractLsb' 12 4), Scope.ofCode (w.extractLsb' 6 3) with
  | some ty, some sc =>
    some { guard := wordGuard w, d := w.extractLsb' 40 8, a := w.extractLsb' 32 8, b := wordB w, c := w.extractLsb' 16 8,
           ty := ty, fs := w.extractLsb' 9 3, sc := sc, mod := w.extractLsb' 2 2, qa := w.getLsbD 1, fsel := w.getLsbD 0 }
  | _, _ => none

/-- Operand fields all zero, used only to ask a form for its types. -/
def zeroOperands : Operands :=
  { guard := ⟨false, 0⟩, d := 0, a := 0, b := .reg 0, c := 0, ty := .s8, fs := 0, sc := .thr, mod := 0, qa := false, fsel := false }

/-- Whether a form's OP may stand where the word stands (13 R319, 15 R372): 0xE0 to 0xE3 in handler entries only, 0xE8 in RKL only. -/
def opAllowed (at_ : DecodeAt) (op : Nat) : Bool :=
  if op ≥ 0xE8 then at_.rkl else if op ≥ 0xE0 then at_.handler else true

/-- Check 2 of R77: a defined TY that the form does not accept. A reserved TY code is left to check 4. -/
def typeRefused (f : Form) (w : DWord) : Bool :=
  match Ty.ofCode (w.extractLsb' 12 4) with
  | none => false
  | some t => !f.typeOk t

/-- Checks 1 to 4 of R77, in their order, apart from the place of a control transfer (R60), which the front end checks. -/
def decodeWord (at_ : DecodeAt) (w : DWord) : Except EncTrap Instr :=
  if wordOp w = 0xFF then .error .illegalClause
  else
    match (if opAllowed at_ (wordOp w) then mkInstr (wordOp w) (wordFn w) else none) with
    | none => .error .illegalOpcode
    | some mk =>
      match (mk zeroOperands).form with
      | none => .error .illegalOpcode
      | some f =>
        if typeRefused f w then .error .illegalOpcode
        else if at_.user && (0xD0 ≤ wordOp w && wordOp w ≤ 0xD9) then .error .privilege
        else
          match wordOperands w with
          | none => .error .reservedField
          | some o => if f.fieldsOk at_.handler at_.rkl (mk o).isMov o then .ok (mk o) else .error .reservedField

/-- Check 5 of R77 for a decoded instruction. -/
def budgetRefused (budget : Nat) (i : Instr) : Bool :=
  match i.form, i.operands with
  | some f, some o => !f.budgetOk budget o
  | _, _ => false

/-- The control-transfer forms (03 R60). -/
def Instr.isTransfer (i : Instr) : Bool :=
  match i.form with
  | some f => f.transfer
  | none => false

/-- The long-latency forms (03 R63). -/
def Instr.isLL (i : Instr) : Bool :=
  match i.form with
  | some f => f.ll
  | none => false

/-- The fields of a clause header (03 R59). -/
structure Header where
  wait : BitVec 12
  fx : BitVec 4
  fy : BitVec 4
  cnt : BitVec 3
  yld : Bool
  lmid : BitVec 8
  deriving DecidableEq, Repr

/-- The fields of a header word (03 R59). -/
def headerOf (w : DWord) : Header :=
  { wait := w.extractLsb' 44 12, fx := w.extractLsb' 40 4, fy := w.extractLsb' 36 4, cnt := w.extractLsb' 33 3, yld := w.getLsbD 32,
    lmid := w.extractLsb' 24 8 }

/-- A flag field: 0 to 11, or 0xF for none (03 R60 rule 3). -/
def flagFieldOk (f : BitVec 4) : Bool := f < 12#4 || f == 15#4

/-- The rules of R60 on a header at address `h`, in their order; an unaligned address or a word that is no header is ILLEGAL_CLAUSE (rule 5). -/
def decodeHeader (h : DWord) (w : DWord) : Except EncTrap Header :=
  let hd := headerOf w
  if h.toNat % 8 ≠ 0 || wordOp w ≠ 0xFF then .error .illegalClause
  else if (h.toNat % 64) + 8 * (hd.cnt.toNat + 1) > 64 then .error .illegalClause
  else if hd.cnt = 0 then .error .illegalClause
  else if !(flagFieldOk hd.fx && flagFieldOk hd.fy) then .error .illegalClause
  else if w.extractLsb' 0 24 ≠ 0 then .error .reservedField
  else .ok hd

/-- The word of a form's operands (03 R49). -/
def encodeFields (op fn : Nat) (o : Operands) : DWord :=
  BitVec.ofNat 8 op ++ BitVec.ofNat 4 fn ++ BitVec.ofBool o.guard.neg ++ BitVec.ofFin (w := 3) o.guard.p ++ o.d ++ o.a ++ o.b.field ++ o.c
    ++ o.ty.code ++ o.fs ++ o.sc.code ++ o.b.sb ++ o.mod ++ BitVec.ofBool o.qa ++ BitVec.ofBool o.fsel

/-- The word of an instruction; none for an event. -/
def encode (i : Instr) : Option DWord :=
  match i.opcode, i.operands with
  | some (op, fn), some o => some (encodeFields op fn o)
  | _, _ => none

/-- The word of a clause header (03 R59). -/
def encodeHeader (h : Header) : DWord :=
  (0xFF#8 ++ h.wait ++ h.fx ++ h.fy ++ h.cnt ++ BitVec.ofBool h.yld ++ h.lmid ++ 0#24 : BitVec 64)

/-- Where decodeTableWord reads: grid-only and RKL-only rows where they are valid. -/
def tableAt (w : DWord) : DecodeAt :=
  { user := false, handler := decide (0xE0 ≤ wordOp w ∧ wordOp w < 0xE8), rkl := decide (wordOp w = 0xE8) }

/-- The instruction the decoder reads from an instruction word whose bits are `w`. Every instruction is one 64-bit word (03 R49), so `nbits`
changes nothing: bits above it are zero in `w`. -/
def decodeTableWord (_nbits w : Nat) : Option Instr :=
  match decodeWord (tableAt (BitVec.ofNat 64 w)) (BitVec.ofNat 64 w) with
  | .ok i => some i
  | .error _ => none

end Sys2Proof
end

