-- ==== Sys2Proof/Machine/Maps.lean ====
section
/-!
DEFINITION. Machine/Maps.lean: memories and register files as sorted lists of (address, value) pairs in one canonical form.
-/
namespace Sys2Proof.Machine

/-- A map from numbers to words of `n` bits: addresses strictly rising, no entry zero; an unlisted address reads as zero. -/
abbrev SMap (n : Nat) := List (Nat × BitVec n)

/-- What an address holds. -/
def smGet {n : Nat} (m : SMap n) (a : Nat) : BitVec n :=
  match m with
  | [] => 0
  | (k, v) :: t => if k = a then v else smGet t a

/-- The map with nothing at an address. -/
def smErase {n : Nat} (m : SMap n) (a : Nat) : SMap n :=
  match m with
  | [] => []
  | (k, v) :: t => if k = a then smErase t a else (k, v) :: smErase t a

/-- The map with a value inserted in order, whatever the value; the address is not listed before. -/
def smInsert {n : Nat} (m : SMap n) (a : Nat) (v : BitVec n) : SMap n :=
  match m with
  | [] => [(a, v)]
  | (k, w) :: t => if a < k then (a, v) :: (k, w) :: t else (k, w) :: smInsert t a v

/-- A write: writing zero removes the entry. -/
def smSet {n : Nat} (m : SMap n) (a : Nat) (v : BitVec n) : SMap n :=
  if v = 0 then smErase m a else smInsert (smErase m a) a v

/-- `n` values written from an address, in one pass. -/
def smFill {w : Nat} (m : SMap w) (lo n : Nat) (v : Nat → BitVec w) : SMap w :=
  m.filter (fun x => decide (x.1 < lo)) ++ ((List.range n).map fun i => (lo + i, v (lo + i))).filter (fun x => x.2 != 0)
    ++ m.filter (fun x => decide (lo + n ≤ x.1))

/-- Keys strictly rising, all above `lo`, and no zero value. -/
def smWfFrom {n : Nat} (lo : Nat) : SMap n → Bool
  | [] => true
  | (k, v) :: t => decide (lo ≤ k) && v != 0 && smWfFrom (k + 1) t

/-- The canonical form. -/
def smWf {n : Nat} (m : SMap n) : Bool := smWfFrom 0 m

/-- A map that lists only what has been written; other addresses hold nothing. -/
abbrev PMap (n : Nat) := List (Nat × BitVec n)

/-- What has been written at an address, if anything. -/
def pmGet {n : Nat} (m : PMap n) (a : Nat) : Option (BitVec n) :=
  match m with
  | [] => none
  | (k, v) :: t => if k = a then some v else pmGet t a

/-- A write into a partial map, kept in order. -/
def pmSet {n : Nat} (m : PMap n) (a : Nat) (v : BitVec n) : PMap n :=
  match m with
  | [] => [(a, v)]
  | (k, w) :: t => if a < k then (a, v) :: (k, w) :: t else if a = k then (a, v) :: t else (k, w) :: pmSet t a v

/-- The first element of a list for which `p` holds, replaced by `f` of it. -/
def mapFirst {α : Type} (p : α → Bool) (f : α → α) : List α → List α
  | [] => []
  | x :: t => if p x then f x :: t else x :: mapFirst p f t

/-- An element replaced, or appended where none stands for it. -/
def upsert {α : Type} (p : α → Bool) (x : α) : List α → List α
  | [] => [x]
  | y :: t => if p y then x :: t else y :: upsert p x t

/-- The number of `k` little-endian bytes read by `f` (00 R4). -/
def leNat (f : Nat → BitVec 8) (a : Nat) : Nat → Nat
  | 0 => 0
  | k + 1 => (f a).toNat + 256 * leNat f (a + 1) k

/-- Byte `i` of a number (00 R4). -/
def byteOf (x : Nat) (i : Nat) : BitVec 8 := BitVec.ofNat 8 (x >>> (8 * i))

/-- Byte `i` of a line. -/
def LineData.byte (d : LineData) (i : Nat) : BitVec 8 := d.extractLsb' (8 * i) 8

/-- Every bit of a byte mask spread over its byte. -/
def spreadMask (m : LineMask) : LineData :=
  (List.range 128).foldl (fun d i => if m.getLsbD i then d ||| ((0xFF#1024) <<< (8 * i)) else d) 0

/-- The bytes of `new` where the mask is set, of `old` elsewhere. -/
def mergeLine (old new : LineData) (m : LineMask) : LineData := (old &&& ~~~(spreadMask m)) ||| (new &&& spreadMask m)

/-- Bits [off + len - 1 : off] of a byte mask. -/
def byteMask (off len : Nat) : LineMask := (BitVec.ofNat 128 (2 ^ len - 1)) <<< off

/-- A number placed at a byte offset of a line. -/
def placeBytes (off : Nat) (x : Nat) : LineData := (BitVec.ofNat 1024 x) <<< (8 * off)

/-- `len` bytes of a line from an offset, as a number. -/
def takeBytes (d : LineData) (off len : Nat) : Nat := (d >>> (8 * off)).toNat % 2 ^ (8 * len)

end Sys2Proof.Machine
end

