-- ==== Sys2Proof/Machine/Floats.lean ====
section
/-!
DEFINITION. Machine/Floats.lean: the published floating-point formats as exact values, and the one rounding function (04 R88 to R91).
-/
namespace Sys2Proof

/-- A published format (04 R89): exponent bits, trailing bits, bias, and whether it is E4M3, which has no infinity. -/
structure Fmt where
  ebits : Nat
  tbits : Nat
  bias : Nat
  e4m3 : Bool := false
  deriving DecidableEq, Repr

def fmt32 : Fmt := { ebits := 8, tbits := 23, bias := 127 }
def fmt16 : Fmt := { ebits := 5, tbits := 10, bias := 15 }
def fmtB16 : Fmt := { ebits := 8, tbits := 7, bias := 127 }
def fmtE4M3 : Fmt := { ebits := 4, tbits := 3, bias := 7, e4m3 := true }
def fmtE5M2 : Fmt := { ebits := 5, tbits := 2, bias := 15 }

/-- Format of a floating-point type (04 R89); binary32 for every other type. -/
def Ty.fmt : Ty → Fmt
  | .f16 => fmt16
  | .bf16 => fmtB16
  | .e4m3 => fmtE4M3
  | .e5m2 => fmtE5M2
  | _ => fmt32

/-- Width of a format in bits. -/
def Fmt.width (f : Fmt) : Nat := 1 + f.ebits + f.tbits
/-- Largest finite magnitude code (04 R89). -/
def Fmt.maxMag (f : Fmt) : Nat := if f.e4m3 then 0x7E else (2 ^ f.ebits - 1) * 2 ^ f.tbits - 1
/-- Magnitude code of infinity, for formats that have one. -/
def Fmt.infMag (f : Fmt) : Nat := (2 ^ f.ebits - 1) * 2 ^ f.tbits
/-- Canonical quiet NaN (04 R89). -/
def Fmt.nan (f : Fmt) : Nat := if f.e4m3 then 0x7F else (2 ^ f.ebits - 1) * 2 ^ f.tbits + 2 ^ (f.tbits - 1)
/-- Exponent of the smallest subnormal. -/
def Fmt.emin (f : Fmt) : Int := 1 - (f.bias : Int) - (f.tbits : Int)

/-- An exact value: NaN, an infinity, or (-1)^neg * m * 2^e; m = 0 is a zero with its sign. -/
inductive FVal where
  | nan
  | inf (neg : Bool)
  | num (neg : Bool) (m : Nat) (e : Int)
  deriving DecidableEq, Repr

/-- Rounding modes (04 R88). -/
inductive Rnd where
  | rn | rz | rm | rp
  deriving DecidableEq, Repr

/-- The mode of a MOD field or of a slot's RND (04 R88). -/
def Rnd.ofBits (b : BitVec 2) : Rnd :=
  match b.toNat with
  | 0 => .rn | 1 => .rz | 2 => .rm | _ => .rp

/-- The exact value of an encoding (04 R89, R90). -/
def Fmt.decode (f : Fmt) (bits : Nat) : FVal :=
  let neg := (bits >>> (f.ebits + f.tbits)) % 2 = 1
  let mag := bits % 2 ^ (f.ebits + f.tbits)
  let ef := mag >>> f.tbits
  let tf := mag % 2 ^ f.tbits
  if mag > f.maxMag then (if mag = f.infMag ∧ !f.e4m3 then .inf neg else .nan)
  else if ef = 0 then .num neg tf f.emin
  else .num neg (2 ^ f.tbits + tf) (f.emin + (ef : Int) - 1)

/-- Whether a mode rounds away from zero on overflow for a sign (04 R91). -/
def Rnd.away (r : Rnd) (neg : Bool) : Bool :=
  match r with
  | .rn => true
  | .rz => false
  | .rm => neg
  | .rp => !neg

/-- An integer quotient rounded by a mode: `q` whole units and a remainder `r` out of `d` (04 R88); the sign is that of the rounded value. -/
def roundUnits (mode : Rnd) (neg : Bool) (q r d : Nat) : Nat :=
  if r = 0 then q
  else match mode with
    | .rn => if 2 * r > d ∨ (2 * r = d ∧ q % 2 = 1) then q + 1 else q
    | .rz => q
    | .rm => if neg then q + 1 else q
    | .rp => if neg then q else q + 1

/-- m * 2^k rounded to an integer by a mode. -/
def roundScaled (mode : Rnd) (neg : Bool) (m : Nat) (k : Int) : Nat :=
  match k with
  | .ofNat n => m <<< n
  | .negSucc n => roundUnits mode neg (m >>> (n + 1)) (m % 2 ^ (n + 1)) (2 ^ (n + 1))

/-- Sign bit of a format at a magnitude code. -/
def Fmt.signed (f : Fmt) (neg : Bool) (mag : Nat) : Nat := (if neg then 2 ^ (f.ebits + f.tbits) else 0) + mag

/-- The code of an overflow (04 R91). -/
def Fmt.overflow (f : Fmt) (mode : Rnd) (sat neg : Bool) : Nat :=
  if sat || !mode.away neg then f.signed neg f.maxMag
  else if f.e4m3 then f.nan else f.signed neg f.infMag

/-- An infinite input written in a format (04 R91): only E4M3, which has no infinity, saturates it. -/
def Fmt.ofInf (f : Fmt) (sat neg : Bool) : Nat :=
  if f.e4m3 then (if sat then f.signed neg f.maxMag else f.nan) else f.signed neg f.infMag

/-- Exponent of the last place that a value m * 2^e, m > 0, keeps in a format. -/
def Fmt.quantum (f : Fmt) (m : Nat) (e : Int) : Int := max ((m.log2 : Int) + e - (f.tbits : Int)) f.emin

/-- Rounds an exact value into a format: 04 R88, R90, R91. Subnormals are kept (R87). -/
def Fmt.round (f : Fmt) (mode : Rnd) (sat : Bool) (v : FVal) : Nat :=
  match v with
  | .nan => f.nan
  | .inf neg => f.ofInf sat neg
  | .num neg m e =>
    if m = 0 then f.signed neg 0
    else
      let q := f.quantum m e
      let sig := roundScaled mode neg m (e - q)
      let mag := (q - f.emin).toNat * 2 ^ f.tbits + sig
      if mag > f.maxMag then f.overflow mode sat neg else f.signed neg mag

/-- m as a signed integer in units of 2^base, for base ≤ e. -/
def alignTo (base : Int) (neg : Bool) (m : Nat) (e : Int) : Int :=
  let u : Int := ((m <<< (e - base).toNat : Nat) : Int)
  if neg then -u else u

/-- The exact product of two values (05 R128): NaN for NaN inputs and for zero times infinity. -/
def FVal.mul : FVal → FVal → FVal
  | .nan, _ => .nan
  | _, .nan => .nan
  | .inf a, .inf b => .inf (a != b)
  | .inf a, .num b m _ => if m = 0 then .nan else .inf (a != b)
  | .num a m _, .inf b => if m = 0 then .nan else .inf (a != b)
  | .num a m e, .num b m' e' => .num (a != b) (m * m') (e + e')

/-- The value with its sign flipped. -/
def FVal.neg : FVal → FVal
  | .nan => .nan
  | .inf s => .inf (!s)
  | .num s m e => .num (!s) m e

/-- The sum of a list of values, exact (04 R90, 05 R133): NaN if any is NaN or infinities of both signs meet; an exact zero sum takes the common
sign of the terms when all are zeros of one sign, else + or, under .rm, -. -/
def FVal.sum (mode : Rnd) (vs : List FVal) : FVal :=
  if vs.contains .nan then .nan
  else if vs.contains (.inf false) then (if vs.contains (.inf true) then .nan else .inf false)
  else if vs.contains (.inf true) then .inf true
  else
    let base := vs.foldl (fun b v => match v with | .num _ m e => if m = 0 then b else min b e | _ => b) 0
    let total := vs.foldl (fun t v => match v with | .num s m e => if m = 0 then t else t + alignTo base s m e | _ => t) (0 : Int)
    if total = 0 then
      let allNeg := vs.all fun v => match v with | .num s m _ => s && m == 0 | _ => false
      let allPos := vs.all fun v => match v with | .num s m _ => !s && m == 0 | _ => false
      if allNeg then .num true 0 0 else if allPos then .num false 0 0 else .num (mode == .rm) 0 0
    else .num (decide (total < 0)) total.natAbs base

/-- a + b in a format (05 R128). -/
def Fmt.add (f : Fmt) (mode : Rnd) (a b : Nat) : Nat := f.round mode false (FVal.sum mode [f.decode a, f.decode b])
/-- a - b in a format (05 R128). -/
def Fmt.sub (f : Fmt) (mode : Rnd) (a b : Nat) : Nat := f.round mode false (FVal.sum mode [f.decode a, (f.decode b).neg])
/-- a * b in a format (05 R128). -/
def Fmt.mul (f : Fmt) (mode : Rnd) (a b : Nat) : Nat := f.round mode false ((f.decode a).mul (f.decode b))
/-- a * b + c with one rounding (05 R128). -/
def Fmt.fma (f : Fmt) (mode : Rnd) (a b c : Nat) : Nat :=
  f.round mode false (FVal.sum mode [(f.decode a).mul (f.decode b), f.decode c])

/-- Whether an encoding is a NaN. -/
def Fmt.isNaN (f : Fmt) (a : Nat) : Bool := f.decode a == .nan

/-- Order key of a non-NaN encoding, with -0 below +0 (05 R129). -/
def Fmt.key (f : Fmt) (a : Nat) : Int :=
  let mag := a % 2 ^ (f.ebits + f.tbits)
  if (a >>> (f.ebits + f.tbits)) % 2 = 1 then -(mag : Int) - 1 else (mag : Int)

/-- Value key of a non-NaN encoding, with -0 equal to +0 (05 R130). -/
def Fmt.valKey (f : Fmt) (a : Nat) : Int :=
  let mag := a % 2 ^ (f.ebits + f.tbits)
  if (a >>> (f.ebits + f.tbits)) % 2 = 1 then -(mag : Int) else (mag : Int)

/-- fmin and fmax (05 R129). -/
def Fmt.minmax (f : Fmt) (isMax : Bool) (a b : Nat) : Nat :=
  match f.isNaN a, f.isNaN b with
  | true, true => f.nan
  | true, false => b
  | false, true => a
  | false, false => if (if isMax then f.key a ≥ f.key b else f.key a ≤ f.key b) then a else b

/-- fcmp (05 R130). -/
def fcmpTrue (op : FcmpOp) (a b : Nat) : Bool :=
  let un := fmt32.isNaN a || fmt32.isNaN b
  match op with
  | .eq => !un && fmt32.valKey a == fmt32.valKey b
  | .ne => un || fmt32.valKey a != fmt32.valKey b
  | .lt => !un && fmt32.valKey a < fmt32.valKey b
  | .le => !un && fmt32.valKey a ≤ fmt32.valKey b
  | .gt => !un && fmt32.valKey a > fmt32.valKey b
  | .ge => !un && fmt32.valKey a ≥ fmt32.valKey b
  | .unord => un
  | .ord => !un

/-- Class bit of a binary32 encoding (05 R131). -/
def fclassBit (a : Nat) : Nat :=
  match fmt32.decode a with
  | .nan => 0
  | .inf true => 1
  | .inf false => 7
  | .num neg m _ =>
    if m = 0 then 4 else if m < 2 ^ 23 then (if neg then 3 else 5) else (if neg then 2 else 6)

/-- A value rounded to an integer by a mode; none for NaN and the infinities (05 R137). -/
def FVal.toInt? (mode : Rnd) : FVal → Option Int
  | .num neg m e =>
    let u : Int := (roundScaled mode neg m e : Nat)
    some (if neg then -u else u)
  | _ => none

/-- An integer as an exact value; zero is +0. -/
def FVal.ofInt (x : Int) : FVal := .num (decide (x < 0)) x.natAbs 0

/-- A value times 2^s, exact (04 R95). -/
def FVal.scale (v : FVal) (s : Int) : FVal :=
  match v with
  | .num neg m e => .num neg m (e + s)
  | v => v

/-- The imm8 of a floating form: an E4M3 value converted exactly to the format (03 R52). -/
def Fmt.ofImm (f : Fmt) (imm : Nat) : Nat := f.round .rn false (fmtE4M3.decode imm)

/-- The fixed tree of `fredux.add` over 32 encodings (04 R104): five levels of adjacent pairs. -/
def treeSum : Nat → List Nat → Nat
  | 0, xs => xs.headD 0
  | n + 1, xs => fmt32.add .rn (treeSum n (xs.take (2 ^ n))) (treeSum n (xs.drop (2 ^ n)))

end Sys2Proof
end

