-- ==== Sys2Proof/Machine/Alu.lean ====
section
/-!
DEFINITION. Machine/Alu.lean: the values of the integer, logic, shift and bit forms (05 R107 to R117, R126, R127), on bit vectors of the form's width.
-/
namespace Sys2Proof

/-- The bit vector whose bit j is `f j`. -/
def bitsOf : (n : Nat) → (Nat → Bool) → BitVec n
  | 0, _ => 0#0
  | n + 1, f => BitVec.cons (f n) (bitsOf n f)

/-- Ext(x) of 05 R106. -/
def extend (sgn : Bool) {n : Nat} (x : BitVec n) : Int := if sgn then x.toInt else (x.toNat : Int)

/-- The smaller or larger of two values by Ext (R107). -/
def iminmax (sgn isMax : Bool) {n : Nat} (a b : BitVec n) : BitVec n :=
  if (if isMax then extend sgn a ≥ extend sgn b else extend sgn a ≤ extend sgn b) then a else b

/-- imulhi (R107). -/
def imulhiV (sgn : Bool) (a b : Word) : Word := (BitVec.ofInt 64 (extend sgn a * extend sgn b)).extractLsb' 32 32

/-- isad on 32-bit values (R107). -/
def isadV (sgn : Bool) (a b c : Word) : Word := BitVec.ofNat 32 (extend sgn a - extend sgn b).natAbs + c

/-- isad.n8 (R107). -/
def isad8V (a b c : Word) : Word :=
  [0, 8, 16, 24].foldl (fun t j => t + BitVec.ofNat 32 (((a.extractLsb' j 8).toNat : Int) - ((b.extractLsb' j 8).toNat : Int)).natAbs) c

/-- iaddc and isubb (R108): result and carry or borrow out. -/
def addCarry (a b : Word) (c : Bool) : Word × Bool :=
  let s := a.toNat + b.toNat + c.toNat
  (BitVec.ofNat 32 s, decide (s ≥ 2 ^ 32))
def subBorrow (a b : Word) (c : Bool) : Word × Bool :=
  let s : Int := (a.toNat : Int) - (b.toNat : Int) - (c.toNat : Int)
  (BitVec.ofInt 32 s, decide (s < 0))

/-- The 64-bit sum of lea and lea.hi (R109). -/
def leaSum (sgn : Bool) (i l h : Word) (sh : Nat) : DWord :=
  BitVec.ofInt 64 (extend sgn i * 2 ^ sh + (l.toNat : Int) + (h.toNat : Int) * 2 ^ 32)

/-- tern (R111): bit by bit, d the most significant selector and a the least. -/
def ternV (a b d : Word) (table : Field) : Word :=
  bitsOf 32 fun j => table.getLsbD (4 * (d.getLsbD j).toNat + 2 * (b.getLsbD j).toNat + (a.getLsbD j).toNat)

/-- shl, shr, sar, rotl (R112); the count is an unsigned number. -/
def shlV {n : Nat} (a : BitVec n) (c : Nat) : BitVec n := if c < n then a <<< c else 0
def shrV {n : Nat} (a : BitVec n) (c : Nat) : BitVec n := if c < n then a >>> c else 0
def sarV {n : Nat} (a : BitVec n) (c : Nat) : BitVec n := a.sshiftRight (min c n)
def rotlV {n : Nat} (a : BitVec n) (c : Nat) : BitVec n := a.rotateLeft (c % n)

/-- fshl (R113). -/
def fshlV (a b c : Word) : Word := ((c ++ a) <<< (min b.toNat 32) : DWord).extractLsb' 32 32

/-- bfe (R114). -/
def bfeV (sgn : Bool) (a : Word) (p len : Nat) : Word :=
  if len = 0 then 0
  else
    let bit (j : Nat) : Bool := if p + j ≤ 31 then a.getLsbD (p + j) else (sgn && a.getLsbD 31)
    bitsOf 32 fun j => if j < len then bit j else (sgn && bit (len - 1))

/-- bfi (R114). -/
def bfiV (a d : Word) (p len : Nat) : Word :=
  bitsOf 32 fun j => if p ≤ j ∧ j < p + len then a.getLsbD (j - p) else d.getLsbD j

/-- popc (R115). -/
def popcV {n : Nat} (a : BitVec n) : Nat := (List.range n).foldl (fun t j => t + (a.getLsbD j).toNat) 0
/-- clz (R115): N when the value is 0. -/
def clzV {n : Nat} (a : BitVec n) : Nat := if a = 0 then n else n - 1 - a.toNat.log2
/-- ctz (R115): N when the value is 0. -/
def ctzV {n : Nat} (a : BitVec n) : Nat := ((List.range n).find? fun j => a.getLsbD j).getD n
/-- brev (R115). -/
def brevV {n : Nat} (a : BitVec n) : BitVec n := a.reverse

/-- bperm (R116). -/
def bpermV (a b c : Word) : Word :=
  let byte (i : Nat) : BitVec 8 :=
    let z := b.extractLsb' (4 * i) 4
    let v := (c ++ a : DWord).extractLsb' (8 * (z.extractLsb' 0 3).toNat) 8
    if z.getLsbD 3 then (if v.getLsbD 7 then 0xFF else 0x00) else v
  byte 3 ++ byte 2 ++ byte 1 ++ byte 0

/-- icmp (R117). -/
def icmpTrue (op : CmpOp) (sgn : Bool) {n : Nat} (a b : BitVec n) : Bool :=
  match op with
  | .eq => extend sgn a == extend sgn b
  | .ne => extend sgn a != extend sgn b
  | .lt => extend sgn a < extend sgn b
  | .le => extend sgn a ≤ extend sgn b
  | .gt => extend sgn a > extend sgn b
  | .ge => extend sgn a ≥ extend sgn b

/-- movi (R120): byte `i` of `d` replaced. -/
def moviV (d : Word) (imm : Field) (i : Nat) : Word :=
  (d &&& ~~~((0xFF#32) <<< (8 * i))) ||| ((imm.setWidth 32) <<< (8 * i))

/-- Least and greatest value of an integer type. -/
def Ty.minInt (t : Ty) : Int := if t.signed then -(2 ^ (t.bits - 1)) else 0
def Ty.maxInt (t : Ty) : Int := if t.signed then 2 ^ (t.bits - 1) - 1 else 2 ^ t.bits - 1

/-- x clamped to a type's range (R126, R137). -/
def Ty.clamp (t : Ty) (x : Int) : Int := max t.minInt (min x t.maxInt)

/-- The low bits of a register pair read as a value of an integer type (R105). -/
def Ty.intOf (t : Ty) (x : DWord) : Int :=
  let v : Int := (x.toNat % 2 ^ t.bits : Nat)
  if t.signed && v ≥ 2 ^ (t.bits - 1) then v - 2 ^ t.bits else v

/-- A result widened into a register or pair: 8- and 16-bit signed types copy the sign, others fill with zeros (R105). -/
def Ty.widen (t : Ty) (x : Int) : DWord :=
  let m : Int := x % 2 ^ t.bits
  match t with
  | .s8 => ((BitVec.ofInt 8 x).signExtend 32).setWidth 64
  | .s16 => ((BitVec.ofInt 16 x).signExtend 32).setWidth 64
  | _ => BitVec.ofInt 64 m

/-- cvti (R126). -/
def cvtiV (dst src : Ty) (sat : Bool) (a : DWord) : DWord :=
  let x := src.intOf a
  dst.widen (if sat then dst.clamp x else x)

/-- Integer results of redux and scan on two values (14 R343). -/
def reduxPair (op : ReduxOp) (sgn : Bool) (a b : Word) : Word :=
  match op with
  | .add => a + b
  | .min => iminmax sgn false a b
  | .max => iminmax sgn true a b
  | .and => a &&& b
  | .or => a ||| b
  | .xor => a ^^^ b

end Sys2Proof
end

