-- ==== Sys2Proof/Machine/Slots.lean ====
section
/-!
DEFINITION. Machine/Slots.lean: format slots (04 R95, R96) and the block formats DX8, DX6 and DX4 (04 R92 to R94, R97).
-/
namespace Sys2Proof

/-- Formats a slot may hold (04 R95); codes 0x8 to 0xF are reserved. -/
inductive SlotFmt where
  | empty | dx8 | dx6 | dx4 | e4m3 | e5m2 | f16 | bf16
  deriving DecidableEq, Repr

/-- A format slot, 16 bytes of a launch record (04 R95), fields as they stand. -/
structure Slot where
  fmt : BitVec 4
  gap : BitVec 4
  rnd : BitVec 3
  sat : Bool
  scsrc : BitVec 2
  rsv14 : BitVec 2
  scb : BitVec 8
  sck : BitVec 6
  rsv30 : BitVec 2
  eoff : BitVec 32
  rsv64 : BitVec 64
  deriving DecidableEq, Repr

/-- The slot of 16 bytes read as one little-endian number (04 R95). -/
def Slot.ofBits (w : BitVec 128) : Slot :=
  { fmt := w.extractLsb' 0 4, gap := w.extractLsb' 4 4, rnd := w.extractLsb' 8 3, sat := w.getLsbD 11, scsrc := w.extractLsb' 12 2,
    rsv14 := w.extractLsb' 14 2, scb := w.extractLsb' 16 8, sck := w.extractLsb' 24 6, rsv30 := w.extractLsb' 30 2,
    eoff := w.extractLsb' 32 32, rsv64 := w.extractLsb' 64 64 }

/-- The empty slot. -/
def Slot.none : Slot := Slot.ofBits 0

/-- The format that FMT names. -/
def Slot.format? (s : Slot) : Option SlotFmt :=
  match s.fmt.toNat with
  | 0 => some .empty | 1 => some .dx8 | 2 => some .dx6 | 3 => some .dx4 | 4 => some .e4m3 | 5 => some .e5m2 | 6 => some .f16 | 7 => some .bf16
  | _ => Option.none

/-- Magnitude width of a block format (04 R92). -/
def SlotFmt.dxWidth : SlotFmt → Option Nat
  | .dx8 => some 6
  | .dx6 => some 4
  | .dx4 => some 2
  | _ => Option.none

/-- The published format in a slot. -/
def SlotFmt.published : SlotFmt → Option Fmt
  | .e4m3 => some fmtE4M3
  | .e5m2 => some fmtE5M2
  | .f16 => some fmt16
  | .bf16 => some fmtB16
  | _ => Option.none

/-- The check of R96. -/
def Slot.ok (s : Slot) : Bool :=
  let dx := s.fmt = 1#4 || s.fmt = 2#4 || s.fmt = 3#4
  s.fmt < 8#4 && s.rnd < 4#3 && s.scsrc != 3#2 && s.rsv14 == 0 && s.rsv30 == 0 && s.rsv64 == 0
    && (dx || (s.gap == 0 && s.eoff == 0)) && s.eoff.getLsbD 0 == false
    && (s.scb == 0 || s.scsrc == 1#2) && (s.sck == 0 || s.scsrc == 2#2)

/-- Rounding mode of a slot. -/
def Slot.mode (s : Slot) : Rnd := Rnd.ofBits (s.rnd.setWidth 2)

/-- The scale exponent S (04 R95): none, SCB, or the low byte of k(SCK) as a signed byte. -/
def Slot.scaleExp (s : Slot) (k : Nat → Word) : Int :=
  match s.scsrc.toNat with
  | 1 => s.scb.toInt
  | 2 => ((k s.sck.toNat).setWidth 8).toInt
  | _ => 0

/-- DXValue of R92. -/
def dxValue (code : Nat) (e0 e1 : Nat) (w : Nat) (scale : Int) : FVal :=
  let sel := (code >>> (w + 1)) % 2
  let e := if sel = 0 then e0 else e1
  if e = 0xFF then .nan
  else .num (decide ((code >>> w) % 2 = 1)) (code % 2 ^ w) ((e : Int) - 127 - ((w : Int) - 1) + scale)

/-- Mag(y, e) of R97; none for an infinite y. -/
def dxMag (mode : Rnd) (w : Nat) (y : FVal) (e : Nat) : Option Nat :=
  match y with
  | .num neg m k => some (roundScaled mode neg m (k + 127 + ((w : Int) - 1) - (e : Int)))
  | _ => Option.none

/-- Mag(y, e) ≤ t. -/
def dxFits (mode : Rnd) (w t : Nat) (y : FVal) (e : Nat) : Bool :=
  match dxMag mode w y e with
  | some m => decide (m ≤ t)
  | Option.none => false

/-- SignBit of R97: 1 for a negative value and for -0. -/
def FVal.signBit : FVal → Bool
  | .nan => false
  | .inf s => s
  | .num s _ _ => s

/-- Code(s, sg, m) of R97. -/
def dxCode (w : Nat) (s sg : Bool) (m : Nat) : Nat := s.toNat * 2 ^ (w + 1) + sg.toNat * 2 ^ w + m

/-- DXEncode of R97: element codes and the two exponent bytes. -/
def dxEncode (slot : Slot) (w : Nat) (scale : Int) (x : List FVal) : List Nat × Nat × Nat :=
  let t := 2 ^ w - 1
  let mode := slot.mode
  let y := x.map fun v => v.scale (-scale)
  let bad (v : FVal) : Bool := v == .nan || (!slot.sat && !dxFits mode w t v 254)
  let anyBad := y.any bad
  let good := y.filter fun v => !bad v
  let ehi := ((List.range 255).find? fun e => good.all fun v => dxFits mode w t v e).getD 254
  let elo := ehi - slot.gap.toNat
  let e0 := if anyBad then ehi else elo
  let e1 := if anyBad then 0xFF else ehi
  let code (v : FVal) : Nat :=
    if bad v then dxCode w true false t
    else
      let s := !(anyBad || dxFits mode w t v e0)
      let m := match dxMag mode w v (if s then e1 else e0) with
        | some m => min m t
        | Option.none => t
      dxCode w s v.signBit m
  (y.map code, e0, e1)

/-- The two's-complement bits of a 32-bit float read as a value. -/
def Word.f32 (x : Word) : FVal := fmt32.decode x.toNat

end Sys2Proof
end

