-- ==== Sys2Proof/Machine/TypesCore.lean ====
section
/-!
DEFINITION. Machine/TypesCore.lean: the plain data of threads, warps, workgroups and the front end (02, 14, 16 R389).
-/
namespace Sys2Proof.Machine

/-- What a thread that is not runnable waits for (02 R26). -/
inductive Wait where
  /-- Runnable. -/
  | none
  /-- A barrier's phase (14 R356). -/
  | bar (b phase : Nat)
  /-- Its warp's castle rendezvous (14 R360). -/
  | castle
  /-- Named completion flags clear (14 R363). -/
  | flags (mask : BitVec 12)
  /-- A flag whose count is 63 (03 R62). -/
  | flagFull (f : Nat)
  /-- The completion of long-latency instructions that name its registers (03 R61). -/
  | llRegs (ids : List Nat)
  /-- A tick count (14 R362), in arithmetic clocks. -/
  | sleep (until_ : Nat)
  /-- A stage word of its workgroup to equal `b`, or not to (08 R232), for a bundle's lanes `m`: none goes on before all are resolved. -/
  | word (m : LaneMask) (off : Nat) (ne : Bool) (b : Word)
  /-- Its turn at what the K4 does one at a time, or an answer of another agent: the instruction is issued again at every regrouping. -/
  | turn
  /-- An element of a port register (03 R53). -/
  | port (q : Nat)
  /-- Named chunks of an engine operation (09 R242). -/
  | chunks (op : Nat) (js : List Nat)
  /-- A matrix request or block load (06 R164). -/
  | matrix (id : Nat)
  /-- A child launch (14 R365). -/
  | child (ident : Word)
  /-- Earlier writes performed (08 R227, 10 R266). -/
  | writes (n : Nat)
  /-- Every long-latency instruction of the warp complete, at a handler's entry (03 R64). -/
  | handler
  /-- A versioned load waiting at its home (08 R224), or another long-latency operation named by its number. -/
  | op (id : Nat)
  deriving DecidableEq, Repr

/-- The trap CSRs of a thread (16 R389). -/
structure TrapCsrs where
  estat : Word := 0
  ecause : Word := 0
  epc : DWord := 0
  eclh : DWord := 0
  eva : DWord := 0
  elanes : Word := 0
  erec : DWord := 0
  escr : DWord := 0
  deriving DecidableEq, Repr

/-- A fault that a thread will raise at its next release, fence, exit or drain (08 R212, 09 R243). -/
structure Deferred where
  kind : Nat
  va : Nat
  iaddr : DWord
  /-- Its thread has been saved, or has left the grid for it: it traps before any other instruction (17 R412; 14 R360). -/
  now : Bool := false
  /-- A trap of the thread where it stands, and no deferred fault (14 R360). -/
  trap : Bool := false
  page : Nat := 4096
  seq : BitVec 16 := 0
  itag : Option Nat := none
  iter : Nat := 0
  /-- LMID of the clause or loop of the access (03 R65). -/
  lmid : BitVec 8 := 0
  deriving DecidableEq, Repr

/-- Faults due for one instruction (17 R404). -/
def Deferred.sameInstr (d x : Deferred) : Bool := x.iaddr == d.iaddr && x.seq == d.seq && x.itag == d.itag

/-- Whose stores a write carries (08 R212): the warp slot, the lanes, the instruction and its clause's LMID; for stores of the grid also their sequence
tag, iteration tag and count (17 R426). -/
structure Writer where
  slot : Nat
  lanes : LaneMask
  iaddr : DWord
  lmid : BitVec 8 := 0
  seq : BitVec 16 := 0
  itag : Option Nat := none
  iter : Nat := 0
  deriving DecidableEq, Repr

/-- A failed access of a lane (08 R212). -/
structure LaneErr where
  lane : Nat
  kind : Nat
  va : Nat
  page : Nat
  deriving DecidableEq, Repr

/-- One warp-wide element of a stream (09 R248): a word for each lane, the words that got an error response, and the rank of the end marker that
follows it (0 none, 1 day, 2 week, 3 month, 4 year). -/
structure PortElem where
  words : List Word
  errs : List LaneErr := []
  marker : Nat := 0
  /-- Lanes that it covers: all but for the last token of a window row (09 R255). -/
  mask : LaneMask := 0xFFFFFFFF
  deriving DecidableEq, Repr

/-- An element that a thread has read from a port register for an instruction that it will issue again (03 R53): the instruction's address, the port,
the element's number on its warp, and the element. -/
structure Popped where
  pc : DWord
  port : Nat
  serial : Nat
  elem : PortElem
  deriving DecidableEq, Repr

/-- One thread (02 R23, R25): its program counter, where it stands inside a clause, its mode, what it waits for, its trap CSRs, its barrier
records (14 R354), and its deferred faults. -/
structure Thread where
  pc : DWord := 0
  clh : Option DWord := none
  exited : Bool := false
  sup : Bool := false
  wait : Wait := .none
  csr : TrapCsrs := {}
  /-- Phase of the latest arrival, by barrier. -/
  arrivals : List (Nat × Nat) := []
  lastIssue : Nat := 0
  deferred : List Deferred := []
  /-- The thread is in the grid (13 R323). -/
  inGrid : Bool := false
  /-- The arrivals at a head that the thread must run on the front end after a drain (02 R46). -/
  gskip : Option (DWord × Nat) := none
  /-- The parked token whose fault the thread's handler serves (17 R405): PORTID. -/
  gridFault : Option Word := none
  /-- Deadlines of an unresolved waddr (08 R232), in ticks; none for no deadline. -/
  waddrDeadline : Option (Option Nat) := none
  /-- How the thread's waddr has resolved, while other lanes of its bundle have not. -/
  waddrDone : Option Bool := none
  /-- How the thread's lane of an instruction has come out, while other lanes of its bundle have not: a lock.line (08 R228; 1 for true), a ctx.save
  (17 R411; its status), a write of CMD (16 R390). -/
  laneDone : Option Nat := none
  /-- The model's own: requests with smaller numbers that an ordering operation of the thread waits for. -/
  mark : Option Nat := none
  /-- The newest write timestamp among the lines that its strong reads have read (10 R266). -/
  seen : Nat := 0
  /-- The element that an instruction it will issue again has already read (03 R53). -/
  popped : Option Popped := none
  deriving DecidableEq, Repr

/-- What a castle gave: its partners, its sign and its amount (14 R359). -/
structure CastleReq where
  lanes : LaneMask
  partners : BitVec 16
  take : Bool
  amount : Nat
  pc : DWord
  clh : DWord
  lmid : BitVec 8 := 0
  deriving DecidableEq, Repr

/-- A port register or grid ingress port as its reader sees it (03 R53, 09 R250). -/
structure Port where
  bound : Bool := false
  /-- Elements delivered and not yet popped. -/
  queue : List PortElem := []
  /-- The stream has delivered its last element. -/
  ended : Bool := false
  /-- Commands that wait for the port. -/
  queued : Nat := 0
  popped : Nat := 0
  /-- The workgroup whose stream feeds it. -/
  wg : Nat := 0
  deriving DecidableEq, Repr

/-- One warp (02 R23): 32 threads in a slot of a core. -/
structure Warp where
  core : Nat
  slot : Nat
  wg : Nat
  sub : Nat
  budget : Nat
  threads : List Thread
  /-- Register r of lane l at 32 r + l. -/
  regs : SMap 32 := []
  /-- Lanes in which predicate p is true, at p. -/
  preds : SMap 32 := []
  /-- Counts of f0 to f11 (03 R62). -/
  flags : SMap 8 := []
  ports : List Port := List.replicate 8 {}
  capd : Bool := false
  bundles : List LaneMask := []
  castles : List CastleReq := []
  lastIssue : Nat := 0
  /-- Prefer other warps at the next issue (03 R65, 14 R350). -/
  yielded : Bool := false
  issued : Nat := 0
  bissue : Nat := 0
  stallck : Nat := 0
  gretire : Nat := 0
  drains : Nat := 0
  deriving DecidableEq, Repr

/-- A named barrier (14 R354): expected count, arrivals, phase. -/
structure Barrier where
  e : Nat := 0
  a : Nat := 0
  p : Nat := 0
  deriving DecidableEq, Repr

/-- An async handle of a workgroup (09 R236): generation, and the operation on it. -/
structure Handle where
  gen : Nat := 0
  op : Option Nat := none
  deriving DecidableEq, Repr

/-- A workgroup (02 R23). -/
structure Wg where
  id : Nat
  launch : Nat
  core : Nat
  x : Nat
  y : Nat
  z : Nat
  warps : Nat
  clrank : Nat := 0
  clsize : Nat := 1
  /-- The group's number, shared by its members; none without cluster groups. -/
  group : Option Nat := none
  privIdx : Nat := 0
  stageKiB : Nat := 0
  /-- Stage bytes written; a byte nothing has written reads as Config.freeByte of the serial number. -/
  stage : PMap 8 := []
  serial : Nat := 0
  barriers : List Barrier := List.replicate 16 {}
  handles : List Handle := List.replicate 32 {}
  /-- Matrix request handles and block handles (06 R147, R156): generation, and the entry or frame. -/
  reqs : List Handle := List.replicate 32 {}
  blks : List Handle := List.replicate 8 {}
  /-- Every warp has exited; the workgroup ends when its engine threads have (R24). -/
  ending : Bool := false
  fcmiss : Nat := 0
  mxgrant : Nat := 0
  /-- Loops refused for this workgroup only (02 R45): heads, each with its status. -/
  refused : List (DWord × Nat) := []
  /-- Bytes of the core's front-end frame area: start and length (02 R30). -/
  frameLo : Nat := 0
  frameLen : Nat := 0
  /-- The region control blocks that its start was charged to (02 R35). -/
  region : List Nat := []
  deriving DecidableEq, Repr

/-- A clause that a bundle is issuing (03 R61): its fetched words and the next one. -/
structure Issue where
  core : Nat
  slot : Nat
  lanes : LaneMask
  hdr : DWord
  header : Header
  words : List DWord
  idx : Nat
  deriving DecidableEq, Repr

/-- A result of a grid-only operation (13 R319): the lanes and their words, and the clocks after which it goes on its way. -/
structure GOut where
  mask : LaneMask
  words : SMap 32
  delay : Option Nat := none
  /-- MIDX of its sequence tag (13 R327): that of the token which it forwards. -/
  midx : Nat := 0
  deriving DecidableEq, Repr

/-- The instruction being executed: whose bundle, where. `place` names the handler of a grid firing (13 R322). -/
structure Focus where
  core : Nat
  slot : Nat
  lanes : LaneMask
  pc : DWord
  hdr : DWord
  cnt : Nat
  fx : BitVec 4
  fy : BitVec 4
  /-- The element popped from a port register for this instruction. -/
  popped : Option PortElem := none
  /-- The port it came from, its number on the warp, and whether an earlier issue of the instruction has popped it. -/
  port : Nat := 0
  serial : Nat := 0
  again : Bool := false
  lmid : BitVec 8 := 0
  /-- B's configuration constant in a handler entry (13 R331). -/
  const : Word := 0
  grid : Bool := false
  /-- PK of the handler and the lane masks of its tokens, by port (13 R319, R335). -/
  pk : BitVec 4 := 0
  masks : List LaneMask := []
  /-- Static indices of their sequence tags (13 R327). -/
  midxs : List Nat := []
  /-- The sequence tag, iteration tag and count of a firing (17 R426). -/
  seq : BitVec 16 := 0
  itag : Option Nat := none
  iter : Nat := 0
  /-- Numbers of the versioned windows at which lanes of a firing wait for a version (07 R199). -/
  vwait : List (Nat × Nat) := []
  /-- What a grid-only operation sends. -/
  outs : List GOut := []
  /-- Lanes of a grid firing that the unit they name cannot take yet. -/
  gwait : LaneMask := 0
  /-- A trap or fault that a grid firing met: its kind, and the failing accesses (17 R405, R426). -/
  gtrap : Option (Nat × List LaneErr) := none
  deriving DecidableEq, Repr

/-- A register write that a long-latency instruction will make. -/
structure RegWrite where
  lane : Nat
  reg : Nat
  val : Word
  deriving DecidableEq, Repr

/-- What an engine operation moves: a block transfer by its descriptor (09 R238, R239), a layout command by its descriptor and mapping word (09 R257 to
R259), or a COPY of a packet or graph node (12 R292). -/
inductive EngForm where
  | copy | gather | scatter
  | lay (dmw : DWord)
  | plain (src dst bytes : Nat)
  deriving DecidableEq, Repr

/-- One lane's command to an engine, with the block that the engine has read for it: a transfer or layout command with its scope, its chunks and the
status of a refusal (09 R235); a stream command for a port, and a window configuration, each with the place of its block (09 R249, R254); a matrix post
or block load (06 R163). -/
inductive EngCmd where
  | move (form : EngForm) (d : List Byte) (sc : Scope) (total status : Nat)
  | strm (port wg off : Nat) (d : List Byte)
  | win (wg off : Nat) (d : List Byte)
  | post (status : Nat) (b : List Byte)
  | bload (status : Nat) (b : List Byte)
  deriving DecidableEq, Repr

/-- Who issued engine commands: the bundle's warp, workgroup, context, launch tag, mode, and the instruction's address. -/
structure Issuer where
  core : Nat
  slot : Nat
  sub : Nat
  wg : Nat
  ctx : Nat
  ltag : Nat
  sup : Bool
  pc : DWord
  /-- LMID of its clause (03 R65). -/
  lmid : BitVec 8
  deriving DecidableEq, Repr

/-- An outstanding long-latency instruction (03 R63). -/
structure LLOp where
  id : Nat
  core : Nat
  slot : Nat
  wg : Nat
  lanes : LaneMask
  flag : Option Nat
  /-- Destination registers of each lane, for R61. -/
  dests : List Nat
  writes : List RegWrite := []
  errors : List LaneErr := []
  /-- Pieces not yet performed. -/
  pending : Nat := 0
  /-- At completion, invalidate the fabric cache as an acquire of this scope. -/
  acquire : Option Scope := none
  /-- The newest write timestamp among the lines read (10 R266). -/
  wts : Nat := 0
  iaddr : DWord := 0
  hdr : DWord := 0
  /-- LMID of its clause (03 R65). -/
  lmid : BitVec 8 := 0
  /-- A tlbsync, whose result a die that is lost before it completes changes (16 R393). -/
  sync : Bool := false
  /-- Engine commands of its lanes not yet accepted: the instruction waits in its flag count (06 R156; 09 R236, R249, R254). -/
  queue : Option (Issuer × List (Nat × EngCmd)) := none
  deriving DecidableEq, Repr

/-- An entry of a core's loop monitor (13 R315). -/
structure MonEntry where
  core : Nat
  head : DWord
  counts : List (Nat × Nat) := []
  stamp : Nat := 0
  deriving DecidableEq, Repr

/-- A leaky bucket of an issue stage or ingress port (12 R310): core, port 0 for the issue stage and p + 1 for ingress port p. -/
structure Bucket where
  core : Nat
  port : Nat
  rate : Nat
  credit : Nat
  /-- Time at which the controller last set its rate. -/
  changed : Nat := 0
  deriving DecidableEq, Repr

/-- The front ends of the module. -/
structure FrontEnd where
  warps : List Warp := []
  wgs : List Wg := []
  issues : List Issue := []
  llops : List LLOp := []
  monitors : List MonEntry := []
  buckets : List Bucket := []
  /-- Time of each core's last regrouping (02 R26). -/
  regrouped : List (Nat × Nat) := []
  /-- Lanes asleep in waddr whose word has matched (08 R232): core, warp slot, lane. -/
  matched : List (Nat × Nat × Nat) := []
  deriving DecidableEq, Repr

end Sys2Proof.Machine
end

