-- ==== Sys2Proof/Machine/TypesMem.lean ====
section
/-!
DEFINITION. Machine/TypesMem.lean: the plain data of memory, caches, protocol tables, ranges, versioned windows, requests, contexts, tenants and
translations (07, 08, 10, 11, 16).
-/
namespace Sys2Proof.Machine

/-- A read-modify-write (08 R217 to R219). -/
inductive RmwKind where
  | int (op : AtomOp) (signed wide : Bool)
  | cas (wide : Bool)
  | fadd32
  | fadd16 (bf : Bool)
  deriving DecidableEq, Repr

/-- One element that a lane accesses inside a 128-byte line (07 R184). `reg` is its destination; `b` and `c` are an RMW's operands. -/
structure Acc where
  lane : Nat
  off : Nat
  size : Nat
  va : Nat
  reg : Nat := 0
  signed : Bool := false
  b : DWord := 0
  c : DWord := 0
  deriving DecidableEq, Repr

/-- What a request asks of its home. -/
inductive ReqKind where
  | read
  | write
  | rmw (k : RmwKind)
  | ldv (n : Word)
  | stv (n : Word)
  | reclaim (n : Word)
  deriving DecidableEq, Repr

/-- A request that only reads. -/
def ReqKind.readsOnly : ReqKind → Bool
  | .read | .ldv _ => true
  | _ => false

/-- Who sent a request: a thread's instruction, a fabric cache writing back, or an agent for the event of an access that it has made at once (log entry
34, DESIGN CHOICE). -/
inductive ReqFrom where
  | thread
  | writeback
  | agent
  deriving DecidableEq, Repr

/-- A request on its way to a home, or an unacknowledged write (10 R262, R266): one piece of 07 R184. -/
structure Req where
  id : Nat
  kind : ReqKind
  from_ : ReqFrom := .thread
  llop : Option Nat := none
  core : Nat
  slot : Nat
  ctx : Nat
  line : Nat
  vline : Nat
  mask : LineMask := 0
  data : LineData := 0
  accs : List Acc := []
  scope : Scope := .thr
  /-- A release: performed only after every older write of its core (10 R266). -/
  rel : Bool := false
  acq : Bool := false
  page : Nat := 4096
  /-- The home has performed it; an acknowledgement is on its way. -/
  performed : Bool := false
  /-- The error response, if any. -/
  error : Option Nat := none
  /-- Status register and half for versioned forms. -/
  status : Nat := 0
  wide : Bool := false
  wts : Nat := 0
  iaddr : DWord := 0
  /-- LMID of its instruction's clause (03 R65). -/
  lmid : BitVec 8 := 0
  /-- The tenant that it carries (16 R387); none for context 0. -/
  ten : Option Nat := none
  /-- Allocate the data in the fabric cache. -/
  fill : Bool := false
  /-- Of a read of `ldc`: allocate the data in the cluster's constant path (08 R215). -/
  const : Bool := false
  /-- Of a read, or an RMW that its core performs in its fabric cache: the bytes that its core has written before it and that it reads as `data` holds
  them; those of them that no RMW of the core outstanding at its issue writes after (07 R172). -/
  overlay : LineMask := 0
  fixed : LineMask := 0
  /-- Of an RMW that its core performs in its fabric cache: bytes that the core has stored since. -/
  later : LineMask := 0
  /-- Of a write-back: the stores that it carries. -/
  writers : List Writer := []
  /-- Of a cflush at .dev or .sys (08 R231): the bytes go on to the home slice; true where the die's copy goes too. -/
  flush : Option Bool := none
  deriving DecidableEq, Repr

/-- A fabric-cache line of a core (08 R228). -/
structure FabLine where
  core : Nat
  ctx : Nat
  vline : Nat
  pline : Nat
  data : LineData := 0
  valid : LineMask := 0
  dirty : LineMask := 0
  /-- Workgroups that lock it, each with the number of its locking. -/
  locks : List (Nat × Nat) := []
  stamp : Nat := 0
  /-- The stores since its last write-back, for an error response to the next. -/
  writers : List Writer := []
  page : Nat := 4096
  deriving DecidableEq, Repr

/-- A line of the constant path, which the cores of a cluster share (08 R215). -/
structure ConstLine where
  cluster : Nat
  ctx : Nat
  vline : Nat
  pline : Nat
  data : LineData := 0
  valid : LineMask := 0
  deriving DecidableEq, Repr

/-- A line in a compute die's L2 or RDC (10 R262, R266). -/
structure DieLine where
  die : Nat
  line : Nat
  data : LineData := 0
  dirty : LineMask := 0
  writable : Bool := false
  wts : Nat := 0
  rts : Nat := 0
  filled : Nat := 0
  deriving DecidableEq, Repr

/-- What a home holds for the next event of a line (10 R269, 11 R281), or what waits for a link: a request of the K4, a host message with its mark and
data, the host's answer to a back-invalidation, or a move of the K4 that makes accesses of its own: an engine's, the grid's, Almanac's. -/
inductive Waiter where
  | req (id : Nat)
  | host (pa : Nat) (mark : HostMark) (data : Option (BitVec 512))
  | biRsp (pa : Nat) (shared : Bool)
  | move (i : Instr)
  deriving DecidableEq, Repr

/-- What the home keeps of a line beside its bytes (10 R266, R267, R269, 11 R281). -/
structure HomeLine where
  line : Nat
  st : Nat
  wts : Nat := 0
  rts : Nat := 0
  holders : List Nat := []
  written : LineMask := 0
  host0 : HostMark := .none
  host1 : HostMark := .none
  /-- Requests and host messages held by WAIT, in order of arrival. -/
  waiters : List Waiter := []
  /-- Dies whose acknowledgement is awaited. -/
  acks : List Nat := []
  /-- The die whose data is awaited. -/
  awaitData : Option Nat := none
  /-- Halves whose back-invalidation is pending. -/
  bi : List Nat := []
  /-- Time-outs of the state it stays in: the state, and the time at which TIMEOUT is raised. -/
  tmo : List (Nat × Nat) := []
  /-- Dirty data on its way home from a die, and its bytes. -/
  back : LineData := 0
  backMask : LineMask := 0
  /-- The awaited acknowledgements are of a pushed write (UPD_ALL), and the bytes pushed. -/
  pushing : Bool := false
  push : LineData := 0
  pushMask : LineMask := 0
  /-- WWAIT of the entry of the line's last transition, in units of 16 ns. -/
  wwait : Nat := 0
  deriving DecidableEq, Repr

/-- A loaded protocol table (10 R268, R269): entries at 16 s + e. -/
structure PTable where
  nst : Nat
  init : Nat
  leasel : Nat
  sdesc : SMap 8 := []
  entries : SMap 64 := []
  deriving DecidableEq, Repr

/-- A range entry (10 R271). -/
structure RangeEntry where
  base : Nat
  lim : Nat
  slot : Nat
  near : Bool
  vwin : Bool
  hdm : Bool
  deriving DecidableEq, Repr

/-- A word of a versioned window: its live versions, newest first (07 R197, 08 R223). -/
structure VWord where
  addr : Nat
  versions : List (Word × DWord)
  deriving DecidableEq, Repr

/-- The share of a versioned range on one memory-side die (10 R273). -/
structure VWindow where
  base : Nat
  ms : Nat
  floor : Word := 0
  closed : Bool := false
  words : List VWord := []
  /-- Its number among all windows opened. -/
  serial : Nat := 0
  /-- Waiting ldv requests. -/
  waiting : List Nat := []
  deriving DecidableEq, Repr

/-- A lane's set or clear of a range (10 R272, R280): its descriptor's address and bytes, its instruction and register, and how far it is. -/
structure RangeJob where
  at_ : Nat
  bs : List Byte
  llop : Nat
  lane : Nat
  reg : Nat
  /-- It has passed its checks, and the range is being recalled. -/
  started : Bool := false
  /-- The homes have yet to answer that they have closed its windows. -/
  closing : Bool := false
  /-- Requests, host messages and moves for the range that wait meanwhile, in order of arrival. -/
  held : List Waiter := []
  deriving DecidableEq, Repr

/-- What holds up accesses that an agent makes at once (log entry 34, DESIGN CHOICE): a link that wakes or retrains, for the lines of an opening slot (10
R277); the change of a range (10 R272); a line whose home makes READ or WRITE wait (10 R275, 11 R281). -/
inductive Hold where
  | link (die link slot : Nat)
  | range
  | line (line : Nat) (write : Bool)
  deriving DecidableEq, Repr

/-- Memory and coherence. -/
structure Mem where
  /-- Bytes at the homes and in host memory, by physical address; zero where nothing is listed (log entry 4, DESIGN CHOICE). -/
  bytes : SMap 8 := []
  /-- Ranges whose bytes nothing has written since their contents became undefined (02 R40): base, limit, and the number of their free values. -/
  undef : List (Nat × Nat × Nat) := []
  fab : List FabLine := []
  /-- Lines that the constant paths hold, one path for each cluster (08 R215). -/
  consts : List ConstLine := []
  die : List DieLine := []
  home : List HomeLine := []
  reqs : List Req := []
  tables : List (Nat × PTable) := []
  ranges : List RangeEntry := []
  windows : List VWindow := []
  /-- Range changes in the order in which they reached CD0; the first is in progress. -/
  ranging : List RangeJob := []
  /-- Largest timestamp among the lines that have left each home slice (log entry 34, DESIGN CHOICE). -/
  aged : SMap 48 := []
  /-- Logical clock of each die (10 R266). -/
  pts : SMap 48 := []
  /-- Poisoned 32-byte sectors, by sector number (17 R419). -/
  poisoned : List Nat := []
  /-- Messages the homes have sent to the host: kind, address, data (11 R281). -/
  s2m : List (String × Nat × BitVec 512) := []
  /-- The model's own: what a step tries whether its move depends on (Machine/Holds.lean). Empty in every state that a step answers. -/
  veil : List Hold := []
  deriving DecidableEq, Repr

/-- A context entry in force (16 R380). -/
structure Ctx where
  id : Nat
  en : Bool
  ten : Nat
  lockq : Nat
  ptroot : Nat
  tvec : DWord
  xarea : DWord
  xsize : Nat
  rootrcb : DWord
  pcsel : List Nat
  /-- Saved by ctx.save and not resumed (17 R408). -/
  saved : Bool := false
  deriving DecidableEq, Repr

/-- A window of a tenant (16 R381). -/
structure Window where
  perm : BitVec 2
  base : Nat
  lim : Nat
  deriving DecidableEq, Repr

/-- A tenant entry in force. -/
structure Tenant where
  id : Nat
  en : Bool
  vvec : Nat
  vlbase : Nat
  vllog : Nat
  vlpos : Nat
  wins : List Window
  /-- Address of the entry that it was loaded from (16 R389). -/
  at_ : Nat := 0
  deriving DecidableEq, Repr

/-- A translation held by a core's TLB, or by a range entry of a memory-port cell (16 R386, 13 R333): page base, size, physical base, the
leaf's permissions. `cell` is none for the TLB; `half` is that of the configuration whose range entry it is. -/
structure TlbEntry where
  core : Nat
  cell : Option Nat := none
  half : Nat := 0
  ctx : Nat
  va : Nat
  size : Nat
  pa : Nat
  r : Bool
  w : Bool
  x : Bool
  sup : Bool
  deriving DecidableEq, Repr

/-- An invalidate in progress (16 R392): what it covers. -/
structure TlbOp where
  id : Nat
  ctx : Option Nat
  lo : Nat
  hi : Nat
  /-- The warp that started it: its workgroup and subgroup. -/
  wg : Nat
  sub : Nat
  /-- Requests already translated when it started. -/
  reqs : List Nat
  lost : Bool := false
  /-- That of a load of its context (16 R390): 1 by a write of CMD, 2 by the command itself. -/
  cmd : Nat := 0
  deriving DecidableEq, Repr

/-- Isolation: contexts and tenants in force, module CSRs, translations. -/
structure Iso where
  ctxs : List Ctx := []
  tenants : List Tenant := []
  ctxtab : DWord := 0
  tentab : DWord := 0
  qtab : DWord := 0
  cmdst : Word := 0
  tlb : List TlbEntry := []
  invs : List TlbOp := []
  /-- Records written into and lost from each context's fault ring: context, WPOS, LOST (17 R402). -/
  rings : List (Nat × Nat × Nat) := []
  /-- Values of PC0 to PC47, at 48 c + j (14 R369). -/
  perf : SMap 64 := []
  deriving DecidableEq, Repr

end Sys2Proof.Machine
end

