-- ==== Sys2Proof/Machine/TypesLink.lean ====
section
/-!
DEFINITION. Machine/TypesLink.lean: the plain data of links, storage-error counters, boot and attestation (16 R395 to R398, 17 R413 to R419).
-/
namespace Sys2Proof.Machine

/-- One end of a link, on a compute die (17 R413 to R416). -/
structure Link where
  die : Nat
  link : Nat
  up : Bool := true
  waking : Bool := false
  lost : Bool := false
  rate : Nat := 32
  crc : Nat := 0
  replay : Nat := 0
  rth : Nat := 256
  lastev : Nat := 0
  laststamp : DWord := 0
  /-- Retired lanes, m * 64 + i. -/
  retired : List Nat := []
  ce : Nat := 0
  ue : Nat := 0
  /-- Flits replayed in the current 10 µs window, and CRC errors of each lane in it. -/
  winReplay : Nat := 0
  laneErrs : List (Nat × Nat) := []
  /-- Sequence number of the next flit the receiver will deliver. -/
  expect : Nat := 0
  /-- The receiver drops flits until the replay of a failed one arrives. -/
  dropping : Bool := false
  /-- One past the highest sequence number that has arrived: a flit below it is a replay. -/
  seen : Nat := 0
  /-- Sequence numbers delivered, in order. -/
  delivered : List Nat := []
  /-- The close of the current 10 µs window is due. -/
  winDue : Bool := false
  /-- The rate step that training is for, while the link retrains. -/
  target : Option Nat := none
  attempt : Nat := 0
  /-- link.ctl.rate instructions that wait for the training. -/
  waiters : List Nat := []
  deriving DecidableEq, Repr

/-- Boot and attestation. -/
structure Boot where
  /-- The firmware image as CD0's boot ROM finds it. -/
  image : List Byte := []
  /-- The fused minimum security version (16 R389). -/
  secver : Word := 0
  /-- Cores are released. -/
  released : Bool := false
  /-- BAR0 offset 0 of the physical function (16 R395). -/
  bar0 : Word := 0
  /-- Measurements 1 to 5 (16 R397). -/
  measures : List (BitVec 256) := List.replicate 5 0
  /-- Near-first windows of CD0 to CD3, base and limit (01 R16). -/
  near : List (Nat × Nat) := []
  /-- SPDM: GET_VERSION, GET_CAPABILITIES and NEGOTIATE_ALGORITHMS answered so far. -/
  spdm : Nat := 0
  /-- SPDM messages since the last GET_VERSION, that a signature covers. -/
  transcript : List Byte := []
  /-- Responses sent through the DOE mailbox, newest first. -/
  doe : List (List Byte) := []
  deriving DecidableEq, Repr

/-- A request, or a message to a die about a line, that waits for a link that is waking (10 R277): what waits, for which die, and since when. -/
structure WakeWait where
  id : Nat
  req : Option Nat
  /-- The line asked for; none for a move that makes accesses of its own. -/
  line : Option Nat
  die : Nat
  via : Nat × Nat
  since : Nat
  /-- A host message or a move that waits. -/
  msg : Option Waiter := none
  deriving DecidableEq, Repr

/-- Links, lost dies, storage errors. Dies are numbered CD0 to CD3 as 0 to 3 and MS0 to MS15 as 4 to 19 (log entry 15, DESIGN CHOICE). -/
structure LinkState where
  links : List Link := []
  lost : List Nat := []
  waits : List WakeWait := []
  /-- Corrected and uncorrectable SRAM errors of each die (17 R413). -/
  sce : SMap 31 := []
  sue : SMap 31 := []
  deriving DecidableEq, Repr

end Sys2Proof.Machine
end

