-- ==== Sys2Proof/Machine/TypesAlm.lean ====
section
/-!
DEFINITION. Machine/TypesAlm.lean: the plain data of queues, packets, launches, graphs and dispatch (02 R38, 12).
-/
namespace Sys2Proof.Machine

/-- Where a launch came from (12 R291, R300, R305). -/
inductive Origin where
  | packet (q idx : Nat)
  | node (g k : Nat)
  /-- Launched by dlaunch: the RCB whose DUSE it holds. -/
  | child (parentRcb : DWord) (parent : Nat)
  deriving DecidableEq, Repr

/-- A launch, with its record as it was copied (02 R38). -/
structure Launch where
  id : Nat
  tag : Nat
  gen : Nat := 0
  ctx : Nat
  home : Nat
  origin : Origin
  /-- Address of the launch record. -/
  recAddr : DWord := 0
  entry : DWord := 0
  regb : Nat := 2
  stage : Nat := 0
  wgw : Nat := 1
  clg : Bool := false
  clw : Nat := 1
  gx : Nat := 1
  gy : Nat := 1
  gz : Nat := 1
  tagh : List Nat := [0, 0, 0, 0]
  rcb : DWord := 0
  compl : DWord := 0
  privb : DWord := 0
  privs : Nat := 0
  privn : Nat := 0
  slots : List Slot := []
  k : SMap 32 := []
  /-- Linear index of the next workgroup to start. -/
  next : Nat := 0
  privUsed : List Nat := []
  /-- No further workgroup starts; the launch ends with this status (02 R36). -/
  stopStatus : Option Nat := none
  /-- Kind of an engine's fault that no thread could take (09 R243): the launch completes with it. -/
  engFail : Option Nat := none
  /-- The kill that ended it: kind, tag of the faulting launch, whether it is the faulting launch itself (02 R37). -/
  killed : Option (Nat × Nat × Bool) := none
  done : Bool := false
  tstart : DWord := 0
  /-- Rounds of each die in which it was ready and not served (12 R308). -/
  age : List Nat := [0, 0, 0, 0]
  /-- Dies a resume may use (17 R412). -/
  diem : Option Nat := none
  /-- Loops for which the kernel supplies a record (13 R316): head and address of the record. -/
  placed : List (DWord × Nat) := []
  /-- The native entry made by dreyf for an RKL kernel (15 R373). -/
  rkl : Bool := false
  deriving DecidableEq, Repr

/-- A queue's dynamic state (12 R290); everything else stands in its table entry in memory. -/
structure Queue where
  q : Nat
  mapped : Bool := false
  /-- Place in the map-wait list; none when not waiting. -/
  waiting : Option Nat := none
  signalled : Nat := 0
  /-- Packets started and not complete: index and the 64 bytes Almanac copied. -/
  running : List (Nat × List Byte) := []
  age : Nat := 0
  /-- Table base when it was mapped (16 R389). -/
  base : Nat := 0
  /-- Time since when it has been idle. -/
  idleSince : Nat := 0
  deriving DecidableEq, Repr

/-- State of a graph node in the current iteration (12 R302). -/
inductive NodeState where
  | idle | ready | running | ended
  deriving DecidableEq, Repr

/-- A graph node as copied (12 R299, R300). -/
structure GNode where
  typ : Nat
  npred : Nat
  arm : Bool
  succ : DWord
  /-- The 48 bytes from offset 0x10. -/
  fields : List Byte
  addr : DWord
  count : Nat := 0
  st : NodeState := .idle
  rpos : Word := 0
  pend : Nat := 0
  /-- The successors that a COND chose (12 R302, R303). -/
  chosen : DWord := 0
  /-- When a HOSTRING's CTIME timer runs out (12 R304). -/
  timer : Option Nat := none
  /-- The address of a held HOSTRING access, and the fault's kind (17 R423). -/
  held : Option (Nat × Nat) := none
  /-- Addresses of the hold that have a record (17 R423). -/
  noted : List Nat := []
  deriving DecidableEq, Repr

/-- A running graph. -/
structure Graph where
  id : Nat
  q : Nat
  idx : Nat
  tag : Nat
  gen : Nat := 0
  ctx : Nat
  home : Nat
  maxit : Nat
  compl : DWord
  rcb : DWord
  nodes : List GNode
  iter : Nat := 1
  rearm : Bool := false
  failed : Option Nat := none
  killed : Option (Nat × Nat) := none
  tstart : DWord := 0
  deriving DecidableEq, Repr

/-- An RKL kernel translated by dreyf into its context's translation area (15 R373): the launch's ENTRY and budget, its native entry, its spill area,
the bytes of the kernel, and the bytes of the area used. A translation that has been cleared is not live; its bytes are not used again. -/
structure Xlated where
  ctx : Nat
  entry : Nat
  budget : Nat
  native : Nat
  spill : Nat
  bytes : Nat
  used : Nat
  /-- The code pages that it was made from: base and size of each leaf page (15 R373). -/
  pages : List (Nat × Nat) := []
  live : Bool := true
  deriving DecidableEq, Repr

/-- Almanac and the dispatchers. -/
structure Alm where
  queues : List Queue := []
  launches : List Launch := []
  graphs : List Graph := []
  /-- Generation of each launch tag (14 R364). -/
  gens : SMap 18 := []
  /-- Where the last round at each priority stopped, at 16 d + p (12 R308). -/
  rr : SMap 32 := []
  /-- The launch each die holds cores for (12 R309). -/
  reserve : List (Nat × Nat) := []
  /-- Starved launches that have reached effective priority 15 on a die, in that order: die and launch (12 R309). -/
  hungry : List (Nat × Nat) := []
  /-- RKL translations (15 R373). -/
  xlated : List Xlated := []
  deriving DecidableEq, Repr

end Sys2Proof.Machine
end

