-- ==== Sys2Proof/Machine/TypesEng.lean ====
section
/-!
DEFINITION. Machine/TypesEng.lean: the plain data of the engines (09) and of the matrix engines (06).
-/
namespace Sys2Proof.Machine

/-- Whose the operation is: a handle of a workgroup (R236), a queue's COPY packet, or a graph's node. -/
inductive EngOwner where
  | handle (wg h : Nat)
  | packet (q idx : Nat)
  | node (g k : Nat)
  deriving DecidableEq, Repr

/-- An engine operation (R43, R236 to R245). -/
structure EngOp where
  id : Nat
  owner : EngOwner
  core : Nat
  slot : Nat := 0
  sub : Nat := 0
  ctx : Nat
  ltag : Nat := 0
  form : EngForm
  desc : List Byte := []
  sc : Scope
  /-- The operation identifier (R235). -/
  ident : Word := 0
  /-- Chunks in all, and those whose writes have been performed (R241). -/
  total : Nat
  done : List Nat := []
  /-- The operation has ended in error with this kind and address (R243). -/
  failed : Option (Nat × Nat) := none
  /-- Chunks that have met a fault not yet handled, and held chunks, with the kind and address of the fault (R243, R423). -/
  met : List (Nat × Nat × Nat) := []
  held : List (Nat × Nat × Nat) := []
  /-- Addresses of the hold that have a record (R423). -/
  noted : List Nat := []
  /-- Issued in supervisor mode. -/
  sup : Bool := false
  /-- Address and clause of the issuing instruction. -/
  iaddr : DWord := 0
  /-- LMID of its clause (03 R65). -/
  lmid : BitVec 8 := 0
  /-- The region under which a COPY runs: its context's root region control block (12 R292). -/
  region : Nat := 0
  deriving DecidableEq, Repr

/-- A stream command on a port (R247 to R250); the first command of a port is live once started. -/
structure Strm where
  id : Nat
  port : Nat
  core : Nat
  slot : Nat
  sub : Nat
  wg : Nat
  ctx : Nat
  ltag : Nat
  desc : List Byte
  started : Bool := false
  /-- Next element to deliver. -/
  next : Nat := 0
  /-- Its last element has been delivered; it is kept until its elements have been popped (R250, R251). -/
  delivered : Bool := false
  met : Option (Nat × Nat) := none
  held : Option (Nat × Nat) := none
  noted : List Nat := []
  /-- It has ended in error, and its issuing warp has still to raise the fault (R243, R423). -/
  failed : Option (Nat × Nat) := none
  sup : Bool := false
  iaddr : DWord := 0
  lmid : BitVec 8 := 0
  deriving DecidableEq, Repr

/-- A cluster's sliding-window unit (R252 to R256). -/
structure WinUnit where
  cluster : Nat
  id : Nat
  wg : Nat
  core : Nat
  slot : Nat
  sub : Nat
  ctx : Nat
  ltag : Nat
  cfg : List Byte
  oy : Nat := 0
  ox : Nat := 0
  /-- Rows emitted to the row buffer and not taken by a post: elements of the configured size. -/
  rows : List (List Nat) := []
  /-- Every row has been emitted. -/
  emitted : Bool := false
  /-- Its rows have all been taken, and its port has gone on to another stream (R255, R256). -/
  spent : Bool := false
  /-- The image elements read so far, each once (R253), by (y W + x) C + c. -/
  line : PMap 32 := []
  met : Option (Nat × Nat) := none
  sup : Bool := false
  held : Option (Nat × Nat) := none
  noted : List Nat := []
  failed : Option (Nat × Nat) := none
  iaddr : DWord := 0
  lmid : BitVec 8 := 0
  deriving DecidableEq, Repr

/-- The engines of the module: operations, stream commands in order, grid ingress ports by number, window units, and the issuing instructions whose
acceptance waits. -/
structure Eng where
  ops : List EngOp := []
  strms : List Strm := []
  gports : List (Nat × Port) := []
  wins : List WinUnit := []
  deriving DecidableEq, Repr

/-- A block frame of a matrix engine (06 R141, R146, R147). -/
structure MxFrame where
  cluster : Nat
  frame : Nat
  wg : Nat
  handle : Nat
  ctx : Nat
  /-- The 16-byte block descriptor. -/
  desc : Nat
  loaded : Bool := false
  /-- Unbound by mx.bfree or the end of its workgroup. -/
  unbound : Bool := false
  /-- Not yet loaded since its workgroup resumed (06 R148). -/
  resumed : Bool := false
  /-- Its load had completed before its workgroup was taken off its core (06 R148, R164). -/
  again : Bool := false
  /-- The block's values: column n of B, its elements in K order; positions beyond read as +0. -/
  cols : List (List FVal) := []
  deriving DecidableEq, Repr

/-- How far an operation is (06 R153, R155, R157). -/
inductive MxStage where
  | pending
  | running
  /-- The split-0 member waits for the partials of the others. -/
  | reducing
  deriving DecidableEq, Repr

/-- An entry of a cluster's reservation table (06 R156, R157). -/
structure MxEntry where
  id : Nat
  cluster : Nat
  core : Nat
  wg : Nat
  handle : Nat
  ctx : Nat
  launch : Nat
  ltag : Nat
  pb : List Byte
  /-- Frames of BLK0 to BLK3; none where none is named. -/
  frames : List (Option Nat)
  stage : MxStage := .pending
  /-- Grants made to other entries while this one was pending (R157). -/
  passed : Nat := 0
  /-- Steps completed. -/
  step : Nat := 0
  /-- Accumulator at 128 i + j, as binary32. -/
  acc : SMap 32 := []
  /-- The decay factors read at the grant. -/
  g : List Word := []
  /-- The initial values read at the grant, at 128 i + j (06 R153); empty without INIT. -/
  c0 : SMap 32 := []
  deriving DecidableEq, Repr

/-- A partial that a split member has written for its split-0 member (06 R155): launch tag, group, MSEL, NSEL, split tag. -/
structure MxPartial where
  launch : Nat
  group : Nat
  msel : Nat
  nsel : Nat
  spk : Nat
  /-- K-block tag of its first K-block, for R102. -/
  kbt : Nat
  deriving DecidableEq, Repr

/-- The matrix engines. -/
structure Mx where
  entries : List MxEntry := []
  frames : List MxFrame := []
  partials : List MxPartial := []
  /-- The region, by context and address, that received the last grant of each cluster, and how many in a row it has received while an entry of
  another region with equal effective priority was pending (R157). -/
  last : List (Nat × (Nat × DWord) × Nat) := []
  deriving DecidableEq, Repr

end Sys2Proof.Machine
end

