-- ==== Sys2Proof/Machine/TypesGrid.lean ====
section
/-!
DEFINITION. Machine/TypesGrid.lean: the plain data of loop capture and the cell grid (13, 17 R405 to R407).
-/
namespace Sys2Proof.Machine

/-- An entry of a context's placement cache (02 R45, R48): ARMED, or REFUSED with a status (0 for a criterion of R313). -/
structure PlaceRec where
  ctx : Nat
  head : DWord
  /-- The kernel's code pages when the entry was made: base and size of each leaf page (02 R48). -/
  pages : List (Nat × Nat) := []
  /-- The kernel's entry, from which the record's offsets count. -/
  entry : DWord
  status : Option Nat := none
  bytes : List Byte := []
  /-- Offsets from HEAD of the clause headers of its body (13 R312). -/
  heads : List Nat := []
  /-- Current CONST of the handlers whose CWR is 1, as a save keeps them (13 R329, R331): handler key and value. -/
  consts : List (Nat × Word) := []
  deriving DecidableEq, Repr

/-- A token on its way (13 R325): where it goes and what it carries. `iter` is the iteration that its producer fired in. -/
structure GTok where
  /-- 0 data; 1 an address, to a memory port; 4 to 7 an end marker of rank day to year. -/
  kind : Nat := 0
  iter : Nat
  /-- The handler that sent it. -/
  src : Nat
  /-- Destination field (13 R335), and its number. -/
  dst : BitVec 16
  out : Nat := 0
  mask : LaneMask
  /-- Word i of lane l at 32 i + l: one word, or those of a pair or group (log entry 22, DEDUCED). -/
  words : SMap 32 := []
  /-- How many words each lane has. -/
  width : Nat := 1
  /-- The producer wrote a predicate: the bit of a packed slot that it names. -/
  pbit : Option Nat := none
  /-- MIDX of its sequence tag (13 R327). -/
  midx : Nat := 0
  /-- Markers: the position count of AUX. -/
  aux : Nat := 0
  /-- The iteration that it waits for, once its own has retired. -/
  goal : Option Nat := none
  deriving DecidableEq, Repr

/-- An elastic channel (13 R326): from one output of a handler, or a virtual circuit; tokens in the order sent. The first two stand in the skid buffer;
those behind them (of a gjoin, and an end marker behind its token) are with the producer, which does nothing more until there is room. -/
structure GChan where
  id : Nat
  core : Nat
  half : Nat
  /-- Handler and output, or 4096 and the circuit. -/
  src : Nat
  out : Nat
  toks : List GTok := []
  deriving DecidableEq, Repr

/-- A held write (13 R328): the handler, its static index, the lanes, and the frame as the firing read it. -/
structure GWrite where
  key : Nat
  midx : Nat
  mask : LaneMask
  regs : SMap 32
  preds : SMap 32
  /-- The element that it has read from a port (03 R53). -/
  pop : Option PortElem := none
  /-- CONST of its handler when it fired (13 R331). -/
  const : Word := 0
  deriving DecidableEq, Repr

/-- A parked address token (17 R405): its handler, lanes, and the address of its fault record. -/
structure GPark where
  key : Nat
  mask : LaneMask
  /-- Active() of the placed instruction. -/
  act : LaneMask
  kind : Nat
  va : Nat
  midx : Nat
  record : Nat
  deriving DecidableEq, Repr

/-- A load, or another form that a memory port performs before the commit, whose data is awaited (13 R328). -/
structure GReply where
  id : Nat
  key : Nat
  midx : Nat
  mask : LaneMask
  regs : SMap 32
  preds : SMap 32
  pop : Option PortElem := none
  const : Word := 0
  /-- Its request is on its way, or waits at its home, for an answer (13 R326). -/
  sent : Bool := false
  /-- Lanes of an `ldv` that wait for a version, each with the number of its window (07 R199). -/
  vwait : List (Nat × Nat) := []
  /-- Of a read with .sc: the older writes of its core that it waits for (07 R180). -/
  mark : Option Nat := none
  deriving DecidableEq, Repr

/-- One iteration of a warp in the grid, with its frame (13 R320, R324). -/
structure GIter where
  id : Nat
  core : Nat
  half : Nat
  slot : Nat
  level : Nat
  /-- Ordinal at its level, and count at its level, since the warp entered (13 R327, 17 R403). -/
  ord : Nat
  /-- None while its `tag.open` waits for a tag (13 R324). -/
  tag : Option Nat := none
  parent : Option Nat := none
  mask : LaneMask
  /-- Slot s of lane l at 32 s + l. -/
  frame : SMap 32 := []
  /-- The frame of the boundary after it, as far as its tokens have given it (13 R321, R323). -/
  after : SMap 32 := []
  /-- The register slots as the handlers after its inner level read them: those at the place of that level, with what its lanes have left (log entry 22,
  DEDUCED). The frame itself is never written again (13 R320). -/
  inside : SMap 32 := []
  /-- Tokens of mode 10 that have been delivered: 4 key + output. -/
  carried : List Nat := []
  /-- The frame is complete (13 R320). -/
  opened : Bool := false
  /-- Tokens present: 4 key + port, with the lanes they carry and the static index of their sequence tag. -/
  present : List (Nat × LaneMask × Nat) := []
  /-- Values of the guard and predicate tokens held: 4 key + port, mask of true lanes. -/
  guards : List (Nat × LaneMask) := []
  /-- Handlers that have fired. -/
  fired : List Nat := []
  replies : List GReply := []
  parked : List GPark := []
  writes : List GWrite := []
  /-- Its addresses have been checked and no drain point is left: what stands inside it may take effect too (13 R425). -/
  checked : Bool := false
  /-- It has begun to commit and is never squashed (13 R425). -/
  committing : Bool := false
  /-- A write before its inner level, or of an inner iteration, has taken effect (log entry 22, DEDUCED). -/
  begun : Bool := false
  /-- Lanes that the level's back edge takes, those of its token to `tag.open`; none before that has fired. -/
  taken : Option LaneMask := none
  /-- Its inner level: 0 not begun, 1 running, 2 ended. -/
  inner : Nat := 0
  /-- Elements popped from ports (02 R47), in order: port number and element. -/
  pops : List (Nat × PortElem) := []
  /-- The requests that a release of it waits for. -/
  mark : Option Nat := none
  deriving DecidableEq, Repr

/-- A warp in the grid (13 R323): its configuration, and a drain to come (17 R406, R407). -/
structure GRun where
  core : Nat
  slot : Nat
  half : Nat
  ctx : Nat
  /-- Next ordinal of each level. -/
  ords : List Nat := [0, 0, 0, 0]
  drain : Bool := false
  /-- Level-0 ordinal of the iteration in which the drain's cause arose (02 R46). -/
  cause : Nat := 0
  /-- The parked token whose handler runs: iteration and handler. -/
  handler : Option (Nat × Nat) := none
  /-- The handler has issued fault.done for that token. -/
  answered : Bool := false
  deriving DecidableEq, Repr

/-- An end marker that a handler's port has received and not yet forwarded (13 R329): handler, port, rank, position. -/
structure GMark where
  key : Nat
  port : Nat
  rank : Nat
  pos : Nat
  deriving DecidableEq, Repr

/-- A configuration in a half of a core's grid (13 R330). -/
structure GCfg where
  core : Nat
  half : Nat
  ctx : Nat
  head : DWord
  entry : DWord
  bytes : List Byte
  /-- Current CONST of handlers that the argument network has rewritten. -/
  consts : List (Nat × Word) := []
  /-- Offsets from HEAD of the clause headers of its body (13 R312). -/
  heads : List Nat := []
  /-- Rewrites that wait for an end marker (13 R331). -/
  rewrites : List (Nat × Word) := []
  marks : List GMark := []
  /-- The stall count of R326, in arithmetic clocks, as it stood at a time, and whether it runs since. -/
  stall : Nat := 0
  mark : Nat := 0
  counting : Bool := false
  /-- Base and bytes of each level's iteration frames in the frame store (02 R30, R31). -/
  bases : List (Nat × Nat) := []
  /-- Grids of other dies that hold a part of it: core and half (13 R332). -/
  cut : List (Nat × Nat) := []
  /-- Time of its arming, for the bank binding in force (13 R334). -/
  armed : Nat := 0
  /-- It goes when its last warp has drained (02 R48; 13 R326; 16 R390; 17 R419). -/
  leaving : Bool := false
  deriving DecidableEq, Repr

/-- A loop in PLACE (02 R45): the workgroup and head, and what its record will be checked against (18 R421). -/
structure GPlacing where
  wg : Nat
  head : DWord
  ctx : Nat
  entry : DWord
  k : SMap 32 := []
  tagh : List Nat := []
  deriving DecidableEq, Repr

/-- A workgroup that holds no core, with what the module keeps for it: parked in dwait, or of a saved context, or waiting after a resume (12 R306,
17 R408, R409, R412). -/
structure Parked where
  wg : Wg
  warps : List Warp
  ops : List EngOp := []
  strms : List Strm := []
  gports : List (Nat × Port) := []
  wins : List WinUnit := []
  entries : List MxEntry := []
  frames : List MxFrame := []
  /-- Lines it has locked, each with the number of its locking, in that order (08 R229). -/
  locks : List (Nat × Nat) := []
  /-- Dies that a resume may use, as a mask (17 R412). -/
  dies : Nat := 15
  deriving DecidableEq, Repr

/-- What a save image holds (17 R409), with where its bytes were written. -/
structure Image where
  ctx : Nat
  base : Nat
  serial : Nat
  size : Nat
  wgs : List Parked
  launches : List Launch
  graphs : List Graph
  recs : List PlaceRec
  /-- Packets running, of each queue. -/
  running : List (Nat × List (Nat × List Byte))
  /-- Almanac's own engine operations: COPY packets and nodes. -/
  ops : List EngOp := []
  /-- Steps of its graphs and operations that were due. -/
  moves : List (Nat × Instr) := []
  deriving DecidableEq, Repr

/-- Workgroups without a core, and save images. -/
structure Saved where
  parked : List Parked := []
  images : List Image := []
  /-- Contexts whose save is in progress, with the serial number of the save and the thread of the instruction that asked for it, as 512 times its workgroup
  and its number there (17 R408, R411). -/
  draining : List (Nat × Nat × Nat) := []
  deriving DecidableEq, Repr

/-- The cell grids and the placement caches. -/
structure Grid where
  recs : List PlaceRec := []
  placing : List GPlacing := []
  cfgs : List GCfg := []
  runs : List GRun := []
  iters : List GIter := []
  chans : List GChan := []
  /-- Tokens that wait in matching stores for an iteration that has no tag yet (13 R321). One of mode 10 has given its word to the frame of the boundary
  and holds its entry. -/
  waiting : List GTok := []
  deriving DecidableEq, Repr

end Sys2Proof.Machine
end

