-- ==== Sys2Proof/Machine/State.lean ====
section
/-!
DEFINITION. Machine/State.lean: the state of the module as plain data, the reasons a step can stop, and the state right after module reset.
-/
namespace Sys2Proof.Machine

/-- Why the machine stops. -/
inductive Fault where
  /-- Raised by step alone, after a BOOT that found the firmware image bad (16 R395): no core is released and the module answers only
  configuration and BAR0 offset 0. Safe: the module does nothing more in that state. -/
  | bootFailed (code : Word)
  deriving DecidableEq, Repr

/-- Why an instruction has no meaning. -/
inductive Refusal where
  /-- Raised by an arm of exec for an instruction that this model gives no meaning yet. Safe: nothing is claimed of it. -/
  | notModelled (mnemonic : String)
  deriving DecidableEq, Repr

/-- A step that an agent of the module will take, and the earliest time of it in arithmetic clocks (log entry 2, DESIGN CHOICE). -/
structure Move where
  at_ : Nat
  what : Instr
  deriving DecidableEq, Repr

/-- The whole module. -/
structure State where
  /-- Arithmetic clocks since module reset (00 R3). -/
  now : Nat := 0
  /-- How far each die's Calends counter stands ahead (01 R18), and its count of clocks (14 R368). -/
  calAhead : SMap 8 := []
  ckAhead : SMap 64 := []
  /-- The model's own: how many free values and numbers have been drawn (log entries 2, 5). -/
  nonce : Nat := 0
  /-- The model's own: the core whose front end moves next (log entry 2, DESIGN CHOICE). -/
  turn : Nat := 0
  /-- The model's own: pending steps of the agents, by time (log entry 2, DESIGN CHOICE). -/
  agenda : List Move := []
  /-- The model's own: the bundle whose instruction is being executed. -/
  focus : Option Focus := none
  fe : FrontEnd := {}
  mem : Mem := {}
  iso : Iso := {}
  alm : Alm := {}
  eng : Eng := {}
  mx : Mx := {}
  grid : Grid := {}
  saved : Saved := {}
  links : LinkState := {}
  boot : Boot := {}
  /-- Interrupts raised: function (none for the physical function), vector; newest first. -/
  irqs : List (Option Nat × Nat) := []
  deriving DecidableEq, Repr

/-- The links of one die (01 R12), up at the rated step with their threshold at 256 (17 R413). -/
def resetLinks : List Link := (List.range 4).flatMap fun d => (List.range 7).map fun l => { die := d, link := l }

/-- The module right after module reset: nothing resident, every memory line at what nothing has written reads as, every link up at its rated step
(17 R413), boot about to start on CD0 (01 R22; log entry 3, DESIGN CHOICE). -/
def State.reset : State :=
  { links := { links := resetLinks }, boot := { image := Config.firmware, secver := Config.fusedSecver }, agenda := [{ at_ := 0, what := .boot }] }

end Sys2Proof.Machine
end

