-- ==== Sys2Proof/Machine/Store.lean ====
section
/-!
DEFINITION. Machine/Store.lean: time, the agenda, homes and their bytes, and tenants' windows (01 R15, R16, R18; 10 R262, R265; 16 R387).
-/
namespace Sys2Proof.Machine

/-- What a meaning answers. -/
abbrev Out := Host.Outcome State Fault Refusal

/-- Calends of a die (00 R3, 01 R18). -/
def State.cal (s : State) (die : Nat) : Nat := s.now / 2 + (smGet s.calAhead die).toNat
/-- Arithmetic clocks of a die since module reset (14 R368). -/
def State.ck (s : State) (die : Nat) : Nat := s.now + (smGet s.ckAhead die).toNat

/-- Die of a core (01 R14). -/
def dieOf (core : Nat) : Nat := core / Config.coresPerDie
/-- Module-wide cluster of a core (01 R14). -/
def clusterOf (core : Nat) : Nat := core / 4

/-- A move put into the agenda by time, after the moves of the same time. -/
def insertMove (m : Move) : List Move → List Move
  | [] => [m]
  | x :: t => if x.at_ ≤ m.at_ then x :: insertMove m t else m :: x :: t

/-- A step owed after a stated number of clocks. -/
def State.after (s : State) (dt : Nat) (i : Instr) : State :=
  { s with agenda := insertMove { at_ := s.now + dt, what := i } s.agenda }

/-- A step owed after a time the manual does not state (log entry 2, DESIGN CHOICE). -/
def State.later (s : State) (i : Instr) : State :=
  { s with agenda := insertMove { at_ := s.now + Config.latency s.nonce, what := i } s.agenda, nonce := s.nonce + 1 }

/-- A step owed within a stated number of clocks. -/
def State.within (s : State) (n : Nat) (i : Instr) : State :=
  { s with nonce := s.nonce + 1 }.after (1 + Config.latency s.nonce % n) i

/-- Steps to be taken now, in order, before any other move. -/
def State.first (s : State) (l : List Instr) : State := { s with agenda := l.map (fun i => { at_ := s.now, what := i }) ++ s.agenda }

/-- A fresh number, from the model's own counter. -/
def State.fresh (s : State) : Nat × State := (s.nonce, { s with nonce := s.nonce + 1 })

/-- A free 32-bit value (log entry 5, DESIGN CHOICE). -/
def State.freeWord (s : State) : Word × State := (Config.freeWord s.nonce, { s with nonce := s.nonce + 1 })

/-- An interrupt raised on a function (16 R382); a vector of 64 or more raises nothing. -/
def State.raiseIrq (s : State) (fn : Option Nat) (vec : Nat) : State :=
  if vec < 64 then { s with irqs := (fn, vec) :: s.irqs } else s

/-- A physical address in host memory (log entry 11, DESIGN CHOICE). -/
def isHostPa (pa : Nat) : Bool := decide (pa ≥ Config.dramBytes)

/-- The near-first window that holds an address, if any: its die (01 R16). -/
def State.nearDie (s : State) (pa : Nat) : Option Nat :=
  (List.range 4).find? fun n => match s.boot.near[n]? with
    | some (b, l) => decide (b ≤ pa ∧ pa < l)
    | none => false

/-- The memory-side die that is home to an address (01 R15, R16). -/
def State.homeOf (s : State) (pa : Nat) : Nat :=
  match s.nearDie pa with
  | some n => 4 * n + (pa / 2 ^ 10) % 4
  | none => (pa / 2 ^ 10) % 16

/-- The 128-byte line of an address. -/
def lineOf (a : Nat) : Nat := a - a % 128

/-- The range entry that covers an address (10 R265). -/
def State.rangeAt (s : State) (pa : Nat) : Option RangeEntry := s.mem.ranges.find? fun r => decide (r.base ≤ pa ∧ pa < r.lim)
/-- Opening slot of an address; 0 outside every entry (10 R265). -/
def State.slotAt (s : State) (pa : Nat) : Nat := ((s.rangeAt pa).map RangeEntry.slot).getD 0
/-- The table of an opening slot. -/
def State.tableIn (s : State) (slot : Nat) : Option PTable := (s.mem.tables.find? fun t => t.1 == slot).map Prod.snd

/-- The number of a memory-side die among all dies (log entry 15, DESIGN CHOICE). -/
def msDie (m : Nat) : Nat := Config.nDies + m
/-- The die at the far end of a compute die's link (01 R12). -/
def farDie (die link : Nat) : Nat :=
  if link < 4 then msDie (4 * die + link) else (((List.range 4).filter (· != die))[link - 4]?).getD die
/-- The mesh link of a compute die to another (01 R12). -/
def meshLink (die other : Nat) : Nat := 4 + (if other < die then other else other - 1)
/-- The other end of a link, where it has a number: a mesh link's (01 R12). -/
def farEnd (die link : Nat) : Option (Nat × Nat) := if link < 4 then none else some (farDie die link, meshLink (farDie die link) die)
/-- The links that a request of a compute die to a memory-side die crosses (01 R9, R13). -/
def pathTo (die ms : Nat) : List (Nat × Nat) := (if ms / 4 = die then [] else [(die, meshLink die (ms / 4))]) ++ [(ms / 4, ms % 4)]

/-- The home of an address is lost, or the compute die that owns it (01 R10). -/
def State.homeLost (s : State) (pa : Nat) : Bool :=
  !isHostPa pa && (s.links.lost.contains (s.homeOf pa / 4) || s.links.lost.contains (msDie (s.homeOf pa)))

/-- One end of a link. -/
def State.link? (s : State) (die link : Nat) : Option Link := s.links.links.find? fun l => l.die == die && l.link == link
/-- The first link of a list that is waking or retraining (10 R277, 17 R414). -/
def State.wakingOn (s : State) (ls : List (Nat × Nat)) : Option (Nat × Nat) :=
  ls.find? fun x => ((s.link? x.1 x.2).map Link.waking).getD false

/-- The waking link that an access of a die to a line would cross, if any; one to host memory goes through CD0's port (01 R9, R20; 10 R277). -/
def State.wakingTo (s : State) (die line : Nat) : Option (Nat × Nat) :=
  s.wakingOn (if isHostPa line then (if die = 0 then [] else [(die, meshLink die 0)]) else pathTo die (s.homeOf line))

/-- A byte at its home: a free value where its contents are undefined (02 R40; log entry 5, DESIGN CHOICE). -/
def State.homeByte (s : State) (pa : Nat) : Byte :=
  match s.mem.undef.find? fun u => decide (u.1 ≤ pa ∧ pa < u.2.1) with
  | some u => Config.freeByte u.2.2 pa
  | none => smGet s.mem.bytes pa

/-- The bytes of a line at its home. -/
def State.homeData (s : State) (line : Nat) : LineData := BitVec.ofNat 1024 (leNat s.homeByte line 128)

/-- Bytes of a line written where the mask is set. -/
def writeBytes (m : SMap 8) (line : Nat) (d : LineData) (mask : LineMask) : SMap 8 :=
  (List.range 128).foldl (fun m i => if mask.getLsbD i then smSet m (line + i) (LineData.byte d i) else m) m

/-- Ranges less the addresses from `lo` up to `hi`. -/
def carve (us : List (Nat × Nat × Nat)) (lo hi : Nat) : List (Nat × Nat × Nat) :=
  us.flatMap fun u => (if u.1 < min u.2.1 lo then [(u.1, min u.2.1 lo, u.2.2)] else [])
    ++ (if max u.1 hi < u.2.1 then [(max u.1 hi, u.2.1, u.2.2)] else [])
/-- Bytes of a line written at its home where the mask is set; they are defined from then on. -/
def Mem.poke (m : Mem) (line : Nat) (d : LineData) (mask : LineMask) : Mem :=
  { m with
    bytes := writeBytes m.bytes line d mask,
    undef := if m.undef.isEmpty then m.undef
      else (List.range 128).foldl (fun us i => if mask.getLsbD i then carve us (line + i) (line + i + 1) else us) m.undef }

/-- The largest timestamp that has left a home slice with a directory entry (log entry 34, DESIGN CHOICE). -/
def State.agedAt (s : State) (line : Nat) : Nat := (smGet s.mem.aged (s.homeOf line)).toNat
/-- The home's record of a line; a line that none stands for is in its table's INIT state with nothing held. -/
def State.homeLine (s : State) (line : Nat) : HomeLine :=
  (s.mem.home.find? fun h => h.line == line).getD
    { line := line, st := ((s.tableIn (s.slotAt line)).map PTable.init).getD 0, wts := s.agedAt line, rts := s.agedAt line }
/-- The home's record of a line replaced. -/
def State.setHomeLine (s : State) (h : HomeLine) : State :=
  { s with mem := { s.mem with home := upsert (fun x => x.line == h.line) h s.mem.home } }

/-- A die's copy of a line (10 R262). -/
def State.dieLine? (s : State) (die line : Nat) : Option DieLine := s.mem.die.find? fun d => d.die == die && d.line == line
def State.setDieLine (s : State) (d : DieLine) : State :=
  { s with mem := { s.mem with die := upsert (fun x => x.die == d.die && x.line == d.line) d s.mem.die } }
def State.dropDieLine (s : State) (die line : Nat) : State :=
  { s with mem := { s.mem with die := s.mem.die.filter fun x => !(x.die == die && x.line == line) } }

/-- The dirty copy of a line that a die holds under its opening, if any. -/
def State.dirtyCopy (s : State) (line : Nat) : Option DieLine := s.mem.die.find? fun d => d.line == line && d.dirty != 0

/-- The bytes of a line as the home would serve them: a dirty die copy's bytes over the home's. -/
def State.lineNow (s : State) (line : Nat) : LineData :=
  match s.dirtyCopy line with
  | some d => mergeLine (s.homeData line) d.data d.dirty
  | none => s.homeData line

/-- Byte of a line as its home would serve it. -/
def State.byteNow (s : State) (pa : Nat) : Byte :=
  match s.dirtyCopy (lineOf pa) with
  | none => s.homeByte pa
  | some d => if d.dirty.getLsbD (pa % 128) then LineData.byte d.data (pa % 128) else s.homeByte pa

/-- A poisoned sector among the named bytes (17 R419). -/
def State.poisonHit (s : State) (line : Nat) (mask : LineMask) : Bool :=
  (List.range 4).any fun i => s.mem.poisoned.contains (line / 32 + i) && (mask &&& byteMask (32 * i) 32) != 0
/-- A write of the whole of every poisoned sector it touches, which clears the mark. -/
def State.poisonCovered (s : State) (line : Nat) (mask : LineMask) : Bool :=
  (List.range 4).all fun i =>
    !(s.mem.poisoned.contains (line / 32 + i) && (mask &&& byteMask (32 * i) 32) != 0)
      || (mask &&& byteMask (32 * i) 32) == byteMask (32 * i) 32
def State.clearPoison (s : State) (line : Nat) (mask : LineMask) : State :=
  { s with mem := { s.mem with poisoned := s.mem.poisoned.filter fun p =>
      !(p / 4 == line / 128 && (mask &&& byteMask (32 * (p % 4)) 32) == byteMask (32 * (p % 4)) 32) } }

/-- The tenant that a context belongs to; none for context 0 (16 R379). -/
def State.tenantOf (s : State) (ctx : Nat) : Option Tenant :=
  if ctx = 0 then none
  else match s.iso.ctxs.find? fun c => c.id == ctx with
    | some c => s.iso.tenants.find? fun t => t.id == c.ten
    | none => none
/-- A context entry in force. -/
def State.ctx? (s : State) (ctx : Nat) : Option Ctx := s.iso.ctxs.find? fun c => c.id == ctx

/-- A tenant entry in force. -/
def State.tenant? (s : State) (n : Nat) : Option Tenant := s.iso.tenants.find? fun t => t.id == n
/-- [pa, pa + len) lies in a window of the tenant that gives the permissions (16 R387). -/
def Tenant.windowOk (t : Tenant) (pa len : Nat) (r w : Bool) : Bool :=
  (t.wins.take 16).any fun v => decide (v.base ≤ pa ∧ pa + len ≤ v.lim) && (!r || v.perm.getLsbD 0) && (!w || v.perm.getLsbD 1)
/-- The window check of 16 R387 for a context's request that carries a tenant: context 0 and host memory pass. -/
def windowPass (t : Option Tenant) (ctx pa len : Nat) (r w : Bool) : Bool := ctx == 0 || isHostPa pa || t.any fun t => t.windowOk pa len r w
/-- The window check of 16 R387 on [pa, pa + len) for the context's tenant. -/
def State.windowOk (s : State) (ctx pa len : Nat) (r w : Bool) : Bool := windowPass (s.tenantOf ctx) ctx pa len r w

/-- Plain bytes written at a home with nothing checked: the K4's own logs and tables. -/
def State.putBytes (s : State) (pa n x : Nat) : State :=
  { s with mem := { s.mem with
      bytes := (List.range n).foldl (fun m i => smSet m (pa + i) (byteOf x i)) s.mem.bytes, undef := carve s.mem.undef pa (pa + n) } }

/-- A little-endian number at a physical address, as its home serves it. -/
def State.readPa (s : State) (pa n : Nat) : Nat := leNat s.byteNow pa n
end Sys2Proof.Machine
end

