-- ==== Sys2Proof/Machine/Tables.lean ====
section
/-!
DEFINITION. Machine/Tables.lean: the tables of the openings, a line's opening and what its home keeps up: leases, host marks, ranges being changed (10 R264
to R277; 11 R281, R282).
-/
namespace Sys2Proof.Machine

-- Events and actions by their codes (10 R269).
def evRead : Nat := 0
def evWrite : Nat := 1
def evRmw : Nat := 2
def evEvictClean : Nat := 3
def evEvictDirty : Nat := 4
def evAckIn : Nat := 5
def evDataIn : Nat := 6
def evTimeout : Nat := 7
def evHostRd : Nat := 8
def evHostWr : Nat := 9
def evBiDone : Nat := 10
def evRecallReq : Nat := 11
def evLeaseEnd : Nat := 12
def evWriteAgain : Nat := 13
def evWakeLateLine : Nat := 14
def evLost : Nat := 15

/-- A transition entry (10 R269) of a built-in table: next state and actions. Its WWAIT is 0: the manual gives the built-in openings none, and a waking
link is reported at once under them (10 R277; log entry 9, DESIGN CHOICE). -/
def entryOf (next : Nat) (acts : List Nat) : BitVec 64 :=
  BitVec.ofNat 64 (next + 64 + ((acts.zipIdx.map fun a => a.1 * 2 ^ (8 + 4 * a.2)).foldl (· + ·) 0))

/-- A built-in table from rows (state, event, next state, actions); every other event stays without action. -/
def tableOf (nst leasel : Nat) (sdesc : List Nat) (rows : List (Nat × Nat × Nat × List Nat)) : PTable :=
  let base := (List.range nst).flatMap fun st => (List.range 16).map fun e => (16 * st + e, entryOf st [])
  { nst := nst - 1, init := 0, leasel := leasel,
    sdesc := (sdesc.zipIdx.foldl (fun m d => smSet m d.2 (BitVec.ofNat 8 d.1)) []),
    entries := (rows.foldl (fun m r => smSet m (16 * r.1 + r.2.1) (entryOf r.2.2.1 r.2.2.2)) base) }

/-- Slot 0, LEASE (10 R264, R266; log entry 9, DESIGN CHOICE). -/
def leaseTable : PTable :=
  tableOf 3 14 [4, 4, 4]
    [(0, 0, 0, [8, 1]), (0, 1, 0, [6, 7, 13]), (0, 2, 0, [6, 7, 13]), (0, 4, 0, [6, 7]), (0, 5, 0, [6]), (0, 6, 0, [6, 7]), (0, 8, 0, [1, 7]),
     (0, 9, 0, [6, 7, 13]), (0, 11, 0, [3]), (0, 15, 0, [9])]
/-- Slot 1, INV, with the states of 11 R282 (log entry 9, DESIGN CHOICE). -/
def invTable : PTable :=
  tableOf 7 0 [4, 4, 1, 1, 4, 4, 0]
    ([(0, 0, 1, [1]), (0, 1, 3, [2]), (0, 2, 0, [6, 13]), (0, 4, 0, [6]), (0, 6, 0, [6]), (0, 8, 0, [1]), (0, 9, 0, [6, 13]), (0, 15, 0, [9]),
      (1, 0, 1, [1]), (1, 1, 4, [3, 10]), (1, 2, 4, [3, 10]), (1, 4, 1, [6]), (1, 6, 1, [6]), (1, 8, 4, [3, 10]), (1, 9, 4, [3, 10]), (1, 11, 4, [3]),
      (1, 15, 0, [9]), (4, 5, 0, [6, 13]), (4, 4, 4, [6]), (4, 6, 4, [6]), (4, 15, 0, [9]),
      (5, 4, 5, [6]), (5, 6, 5, [6]), (5, 10, 1, [1]), (5, 15, 0, [9]),
      (6, 5, 0, [6, 13]), (6, 6, 0, [6, 13]), (6, 4, 6, [6]), (6, 15, 0, [9])]
      ++ [2, 3].flatMap (fun st => [(st, 0, 6, [12, 10]), (st, 1, 6, [12, 10]), (st, 2, 6, [12, 10]), (st, 3, 0, []), (st, 4, 0, [6]), (st, 6, 2, [6]),
        (st, 8, 6, [12, 10]), (st, 9, 6, [12, 10]), (st, 11, 6, [12]), (st, 15, 0, [9])])
      ++ [4, 5, 6].flatMap (fun st => [0, 1, 2, 8, 9].map fun e => (st, e, st, [10])))
/-- Slot 2, UPD (log entry 9, DESIGN CHOICE): a write is pushed to every holder, and performed at home once all have it. -/
def updTable : PTable :=
  tableOf 4 0 [4, 4, 4, 4]
    ([(0, 0, 1, [1]), (0, 1, 0, [6, 13]), (0, 2, 0, [6, 13]), (0, 4, 0, [6]), (0, 6, 0, [6]), (0, 8, 0, [1]), (0, 9, 0, [6, 13]), (0, 15, 0, [9]),
      (1, 0, 1, [1]), (1, 1, 2, [5, 10]), (1, 2, 2, [5, 10]), (1, 4, 1, [6]), (1, 6, 1, [6]), (1, 8, 3, [3, 10]), (1, 9, 3, [3, 10]), (1, 11, 3, [3]),
      (1, 15, 0, [9]), (2, 5, 1, [6, 13]), (2, 4, 2, [6]), (2, 6, 2, [6]), (3, 5, 0, [6, 13]), (3, 4, 3, [6]), (3, 6, 3, [6]), (2, 15, 0, [9]),
      (3, 15, 0, [9])]
      ++ [2, 3].flatMap (fun st => [0, 1, 2, 8, 9].map fun e => (st, e, st, [10])))
/-- Slot 3, MIG (log entry 9, DESIGN CHOICE). -/
def migTable : PTable :=
  tableOf 4 0 [4, 1, 0, 4]
    ([(0, 0, 1, [2]), (0, 1, 1, [2]), (0, 2, 0, [6, 13]), (0, 4, 0, [6]), (0, 6, 0, [6]), (0, 8, 0, [1]), (0, 9, 0, [6, 13]), (0, 15, 0, [9]),
      (1, 3, 0, []), (1, 4, 0, [6]), (1, 6, 1, [6]), (1, 11, 2, [12]), (1, 15, 0, [9]), (2, 6, 0, [6, 13]), (2, 5, 0, [6, 13]), (2, 4, 2, [6]),
      (2, 15, 0, [9])]
      ++ [0, 1, 2, 8, 9].map (fun e => (1, e, 2, [12, 10])) ++ [0, 1, 2, 8, 9].map (fun e => (2, e, 2, [10])))
/-- Slot 4, WO (10 R267; log entry 9, DESIGN CHOICE). -/
def woTable : PTable :=
  tableOf 3 0 [4, 4, 4]
    [(0, 0, 0, [1]), (0, 1, 0, [6, 14, 13]), (0, 2, 0, [9]), (0, 5, 0, [6]), (0, 6, 0, [6]), (0, 8, 0, [1]), (0, 9, 0, [6, 14, 13]), (0, 11, 0, [3]),
     (0, 13, 0, [9]), (0, 15, 0, [9])]

/-- The tables that boot firmware fills slots 0 to 4 with (10 R264; log entry 9, DESIGN CHOICE). -/
def builtinTables : List (Nat × PTable) := [(0, leaseTable), (1, invTable), (2, updTable), (3, migTable), (4, woTable)]

/-- The table in force for a line. -/
def State.tableFor (s : State) (line : Nat) : PTable :=
  match s.tableIn (s.slotAt line) with
  | some t => t
  | none => ((builtinTables.find? fun t => t.1 == s.slotAt line).map Prod.snd).getD leaseTable
/-- The entry that an event of a line takes (10 R269). -/
def State.entryAt (s : State) (line ev : Nat) : BitVec 64 := smGet (s.tableFor line).entries (16 * (s.homeLine line).st + ev)
/-- The actions of an entry, in order. -/
def entActs (e : BitVec 64) : List Nat := (List.range 4).map fun i => (e.extractLsb' (8 + 4 * i) 4).toNat

/-- WWAIT of an entry, in units of 16 ns (10 R269, R277). -/
def entWait (e : BitVec 64) : Nat := (e.extractLsb' 32 8).toNat
/-- WWAIT of the entry that an event of a line would take (10 R269). -/
def State.wwaitOf (s : State) (line ev : Nat) : Nat := entWait (s.entryAt line ev)
/-- The next state of an entry. -/
def entNext (e : BitVec 64) : Nat := (e.extractLsb' 0 6).toNat

/-- The versioned window that holds an address (10 R273). -/
def State.windowAt (s : State) (pa : Nat) : Option VWindow :=
  match s.rangeAt pa with
  | some r => if r.vwin then s.mem.windows.find? fun w => w.base == r.base && w.ms == s.homeOf pa else none
  | none => none
/-- The line's opening is write-once: slot 4 (10 R267). -/
def State.writeOnce (s : State) (line : Nat) : Bool := s.slotAt line == 4 && !isHostPa line

/-- Logical time of a die (10 R266). -/
def State.ptsOf (s : State) (die : Nat) : Nat := (smGet s.mem.pts die).toNat
def State.setPts (s : State) (die t : Nat) : State :=
  if s.ptsOf die ≤ t then { s with mem := { s.mem with pts := smSet s.mem.pts die (BitVec.ofNat 48 t) } } else s

/-- The lease length of a line's table, 0 where the table has none. -/
def State.leaseOf (s : State) (line : Nat) : Nat := ((s.tableIn (s.slotAt line)).map PTable.leasel).getD 0

/-- A little-endian number from a list of bytes. -/
def leOf : List Byte → Nat
  | [] => 0
  | b :: t => b.toNat + 256 * leOf t

/-- `n` bytes of a list from an offset, as a number. -/
def fieldAt (bs : List Byte) (off n : Nat) : Nat := leOf ((bs.drop off).take n)

/-- The range of a line is host-managed device memory (10 R275). -/
def State.hdmAt (s : State) (pa : Nat) : Bool := ((s.rangeAt pa).map RangeEntry.hdm).getD false

/-- Host mark of a half (11 R281). -/
def HomeLine.mark (h : HomeLine) (half : Nat) : HostMark := if half = 0 then h.host0 else h.host1
def HomeLine.setMark (h : HomeLine) (half : Nat) (m : HostMark) : HomeLine := if half = 0 then { h with host0 := m } else { h with host1 := m }

/-- The host marks that a K4 access must clear before it is served (10 R275, 11 R282): a mark A before a read, any mark before a write or a grant of
write permission. -/
def State.hostHolds (s : State) (line : Nat) (write : Bool) : Bool :=
  let h := s.homeLine line
  s.hdmAt line && (h.host0 == .a || h.host1 == .a || (write && (h.host0 == .s || h.host1 == .s)))

/-- The bounds of a range job. -/
def RangeJob.base (j : RangeJob) : Nat := fieldAt j.bs 0 8
def RangeJob.lim (j : RangeJob) : Nat := fieldAt j.bs 8 8
/-- The range change in progress covers a line (10 R272). -/
def State.rangingAt (s : State) (line : Nat) : Bool := s.mem.ranging.any fun j => j.started && decide (j.base ≤ line ∧ line < j.lim)
/-- Whether a die may answer a read from its copy (10 R264, R266): under a lease, while its logical clock has not passed the copy's rts and the copy
is not older than the lease allows. A copy that a pushed write has reached serves no read until every holder has it and the home has performed the
write (07 R176; log entry 34, DESIGN CHOICE). -/
def State.dieCopy (s : State) (die line : Nat) : Option DieLine :=
  match s.dieLine? die line with
  | none => none
  | some d =>
    let l := s.leaseOf line
    let h := s.homeLine line
    if isHostPa line then some d
    else if h.pushing && !h.acks.contains die then none
    else if l = 0 then some d
    else if s.ptsOf die ≤ d.rts && s.cal die ≤ d.filled + (l + 1) * 64 then some d else none

end Sys2Proof.Machine
end

