-- ==== Sys2Proof/Machine/Translate.lean ====
section
/-!
DEFINITION. Machine/Translate.lean: what holds up an access that an agent makes at once, the module's own tables, and translation (10 R272, R275, R277;
11 R281; 16 R381 to R388).
-/
namespace Sys2Proof.Machine

/-- A die's own copy answers an access: no home is asked (10 R264). -/
def State.ownCopy (s : State) (die line : Nat) (write : Bool) : Bool :=
  (s.windowAt line).isNone && if write then (s.dieLine? die line).any DieLine.writable else (s.dieCopy die line).isSome

/-- The home of a line makes an access to it wait: a back-invalidation is pending or must come first (10 R275, 11 R282), or the entry of READ or WRITE
says WAIT (10 R269). A pushed write does not wait for its acknowledgements (UPD_ALL): an agent's is at every holder at once. An entry with ERROR is
answered at once. -/
def State.homeHolds (s : State) (line : Nat) (write : Bool) : Bool :=
  let acts := entActs (s.entryAt line (if write then evWrite else evRead))
  (s.homeLine line).bi != [] || s.hostHolds line (write || acts.contains 2) || (acts.contains 10 && !acts.contains 5 && !acts.contains 9)

/-- A hold stops an access of a die to a line. -/
def Hold.stops (s : State) (die line : Nat) (write : Bool) : Hold → Bool
  | .link d l slot => s.wakingTo die line == some (d, l) && s.slotAt line == slot
  | .range => s.rangingAt line
  | .line l w => l == line && w == write && s.homeHolds line write

/-- An access of a die to a line that the veil stops; in a state that a step answers no veil is up. -/
def State.veiled (s : State) (die line : Nat) (write : Bool) : Bool :=
  s.mem.veil != [] && !s.ownCopy die line write && s.mem.veil.any fun h => h.stops s die line write

/-- A field of the context, tenant or queue table; an entry at a lost home reads as zero (01 R10; log entry 28, DESIGN CHOICE). -/
def State.tableField (s : State) (pa n : Nat) : Nat := if s.homeLost pa || s.veiled 0 (lineOf pa) false then 0 else s.readPa pa n

/-- A byte as a core's own reads find it: what it has written in its fabric cache, or sent and not yet performed, over what the home serves (07 R172,
R177; 16 R386). -/
def State.byteSeen (s : State) (core pa : Nat) : Byte :=
  match s.mem.fab.find? fun l => l.core == core && l.pline == lineOf pa && l.dirty.getLsbD (pa % 128) with
  | some l => LineData.byte l.data (pa % 128)
  | none =>
    match (s.mem.reqs.filter fun r => r.core == core && r.from_ != .agent && r.line == lineOf pa && r.kind == .write && !r.performed
        && r.mask.getLsbD (pa % 128)).getLast? with
    | some r => LineData.byte r.data (pa % 128)
    | none => s.byteNow pa

/-- Permissions an access needs (16 R385). -/
inductive Need where
  | read | write | both | fetch
  deriving DecidableEq, Repr

def Need.reads : Need → Bool
  | .read | .both | .fetch => true
  | .write => false
def Need.writes : Need → Bool
  | .write | .both => true
  | _ => false

/-- The leaf's own permission check (16 R385). -/
def permOk (need : Need) (sup : Bool) (r w x supPage : Bool) : Bool :=
  (!supPage || sup) &&
    match need with
    | .read => r
    | .write => w
    | .both => r && w
    | .fetch => x

/-- A page-table entry that breaks R384 at a level. -/
def pteBad (level : Nat) (e : DWord) : Bool :=
  let leaf := e.getLsbD 1
  let padOk := match level with
    | 2 => e.extractLsb' 12 18 == 0#18
    | 1 => e.extractLsb' 12 9 == 0#9
    | 0 => !e.getLsbD 5 || e.extractLsb' 12 4 == 0#4
    | _ => true
  e.extractLsb' 7 5 != 0#5 || e.extractLsb' 52 12 != 0#12
    || (level ≥ 3 && leaf) || (level == 0 && !leaf)
    || (!leaf && (e.extractLsb' 2 3 != 0#3 || e.getLsbD 6))
    || (e.getLsbD 5 && !(level == 0 && leaf))
    || (leaf && !padOk)

/-- A page-table entry as a walk of a core reads it (16 R386), or the fault of that read: that of a lost home is LOST_HOME (01 R10; log entry 33, DEDUCED). -/
def State.walkEntry (s : State) (core pa : Nat) : Except Nat DWord :=
  if s.homeLost pa || s.veiled (dieOf core) (lineOf pa) false then .error kLostHome else .ok (BitVec.ofNat 64 (leNat (s.byteSeen core) pa 8))

/-- The walk of 16 R383 by a core from a table at a level: the leaf's entry and its page size, or the fault. -/
def State.walk (s : State) (core va : Nat) : Nat → Nat → Except Nat (DWord × Nat)
  | level, table =>
    let idx := if level = 4 then (va / 2 ^ 48) % 256 else (va / 2 ^ (12 + 9 * level)) % 512
    match s.walkEntry core (table + 8 * idx) with
    | .error k => .error k
    | .ok e =>
      if !e.getLsbD 0 then .error kPage
      else if pteBad level e then .error kPte
      else if e.getLsbD 1 then .ok (e, if level = 0 then (if e.getLsbD 5 then 2 ^ 16 else 2 ^ 12) else 2 ^ (12 + 9 * level))
      else
        match level with
        | 0 => .error kPte
        | l + 1 => State.walk s core va l ((e.extractLsb' 12 40).toNat * 4096)

/-- A translation: physical address, page size, and the entry to hold. -/
structure Xlat where
  pa : Nat
  page : Nat
  entry : Option TlbEntry
  deriving DecidableEq, Repr

/-- Translates an address of a context for a core (16 R383 to R387): a held translation if there is one, else a walk with the first window check.
A failure is its fault kind. -/
def State.translate (s : State) (core : Nat) (ctx : Nat) (sup : Bool) (need : Need) (va : Nat) : Except Nat Xlat :=
  if va ≥ 2 ^ 56 then .error kVaRange
  else
    match s.iso.tlb.find? fun t => t.core == core && t.cell == none && t.ctx == ctx && decide (t.va ≤ va ∧ va < t.va + t.size) with
    | some t =>
      if permOk need sup t.r t.w t.x t.sup then .ok { pa := t.pa + (va - t.va), page := t.size, entry := none } else .error kPerm
    | none =>
      match s.ctx? ctx with
      | none => .error kPage
      | some c =>
        match s.walk core va 4 c.ptroot with
        | .error k => .error k
        | .ok (e, size) =>
          if !permOk need sup (e.getLsbD 2) (e.getLsbD 3) (e.getLsbD 4) (e.getLsbD 6) then .error kPerm
          else
            let base := (e.extractLsb' 12 40).toNat * 4096
            if !s.windowOk ctx base size need.reads need.writes then .error kWindow
            else
              .ok { pa := base + va % size, page := size,
                    entry := some { core := core, ctx := ctx, va := va - va % size, size := size, pa := base,
                                    r := e.getLsbD 2, w := e.getLsbD 3, x := e.getLsbD 4, sup := e.getLsbD 6 } }

/-- A translation kept in its core's TLB. -/
def State.keepXlat (s : State) (x : Xlat) : State :=
  match x.entry with
  | some e => { s with iso := { s.iso with tlb := e :: s.iso.tlb } }
  | none => s

/-- The size of the leaf page that an address names for a core, or 4 KiB where no leaf is found (17 R404). -/
def State.pageSize (s : State) (core ctx va : Nat) : Nat :=
  match s.ctx? ctx with
  | none => 4096
  | some c => match s.walk core va 4 c.ptroot with
    | .ok (_, n) => n
    | .error _ => 4096

end Sys2Proof.Machine
end

