-- ==== Sys2Proof/Machine/Access.lean ====
section
/-!
DEFINITION. Machine/Access.lean: accesses performed at a home in one step: the second window check, versioned words, poison, write-once bytes
(07 R197 to R202, 10 R262 to R267, 16 R387, 17 R419), and the reads and writes of engines, Almanac and the K4's own records.
-/
namespace Sys2Proof.Machine

/-- Who makes an access, for the violation log (16 R388): context, source code, unit; and the tenant that a request carries from its issue, where it is
judged later (16 R387). -/
structure Who where
  ctx : Nat
  src : Nat
  unit : Nat
  die : Nat
  ten : Option Nat := none
  deriving DecidableEq, Repr

/-- A thread or engine of a core. -/
def Who.core (ctx src core : Nat) : Who := { ctx := ctx, src := src, unit := core, die := dieOf core }
/-- The front end of the focused bundle's core, or the grid where a firing is in focus. -/
def Who.front (ctx : Nat) (f : Focus) : Who := Who.core ctx (if f.grid then 2 else 0) f.core
/-- Almanac or a dispatcher of a die. -/
def Who.almanac (ctx die : Nat) : Who := { ctx := ctx, src := 3, unit := 0, die := die }

/-- A request at a home: who sent it, with the tenant that it carries. -/
def Req.who (r : Req) : Who := { Who.core r.ctx 0 r.core with ten := r.ten }
/-- The host's coherent traffic (16 R388). -/
def Who.host : Who := { ctx := 0, src := 5, unit := 0, die := 0 }

/-- The tenant of an access (16 R387). -/
def State.tenantFor (s : State) (w : Who) : Option Tenant := match w.ten with
  | some n => s.tenant? n
  | none => s.tenantOf w.ctx
/-- The tenant whose log a violation at an address is entered in (16 R388): of context 0 and of the host, the lowest-numbered tenant that has a window
there, whose memory was named. -/
def State.whoTenant (s : State) (w : Who) (pa : Nat) : Option Nat :=
  if w.ctx = 0 then ((List.range 64).filterMap s.tenant?).findSome? fun t => if t.wins.any fun v => decide (v.base ≤ pa ∧ pa < v.lim) then some t.id else none
  else (s.tenantFor w).map Tenant.id
/-- The second window check of an access on a line (16 R387). -/
def State.windowAllows (s : State) (w : Who) (line : Nat) (reads writes : Bool) : Bool := windowPass (s.tenantFor w) w.ctx line 128 reads writes

def State.setWindow (s : State) (w : VWindow) : State :=
  { s with mem := { s.mem with windows := upsert (fun x => x.base == w.base && x.ms == w.ms) w s.mem.windows } }

/-- A word of a window; a word nothing has written holds version 0 of value zero (07 R197). -/
def VWindow.word (w : VWindow) (addr : Nat) : VWord := (w.words.find? fun x => x.addr == addr).getD { addr := addr, versions := [(0, 0)] }
/-- A word's latest value. -/
def VWord.latest (w : VWord) : Word × DWord := w.versions.headD (0, 0)

/-- A byte as a plain read at its home returns it: the latest version inside a window (07 R202). -/
def State.plainByte (s : State) (pa : Nat) : Byte :=
  match s.windowAt pa with
  | some w => ((w.word (pa - pa % 8)).latest.2).extractLsb' (8 * (pa % 8)) 8
  | none => s.byteNow pa

/-- The line as a plain read at its home returns it. -/
def State.plainLine (s : State) (line : Nat) : LineData :=
  match s.windowAt line with
  | some _ => BitVec.ofNat 1024 (leNat s.plainByte line 128)
  | none => s.lineNow line

/-- The checks of a read at its home: lost home, tenant window, poison (01 R10, 16 R387, 17 R419). -/
def State.readError (s : State) (w : Who) (line : Nat) (mask : LineMask) : Option Nat :=
  if s.homeLost line then some kLostHome
  else if !s.windowAllows w line true false then some kTenantWindow
  else if s.poisonHit line mask then some kEccUncorr
  else none

/-- The table of a line's opening marks written bytes (10 R269, MARKW). -/
def State.marksAt (s : State) (line : Nat) : Bool :=
  !isHostPa line && (s.writeOnce line
    || (s.tableIn (s.slotAt line)).any fun t => t.entries.any fun e => (List.range 4).any fun i => e.2.extractLsb' (8 + 4 * i) 4 == 14#4)
/-- A write that names a byte already written under such a table: what raises WRITE_AGAIN. -/
def State.writesAgain (s : State) (line : Nat) (mask : LineMask) : Bool := s.marksAt line && ((s.homeLine line).written &&& mask) != 0
/-- The table answers WRITE_AGAIN with an error response in the line's state. -/
def State.againFails (s : State) (line : Nat) : Bool :=
  (s.tableIn (s.slotAt line)).any fun t =>
    let e := smGet t.entries (16 * (s.homeLine line).st + 13)
    (List.range 4).any fun i => e.extractLsb' (8 + 4 * i) 4 == 9#4

/-- The checks of a write or RMW at its home. -/
def State.writeError (s : State) (w : Who) (line : Nat) (mask : LineMask) (rmw : Bool) (reads : Bool := rmw) : Option Nat :=
  if s.homeLost line then some kLostHome
  else if !s.windowAllows w line reads true then some kTenantWindow
  else if (s.windowAt line).isSome then some kVwindow
  else if s.writeOnce line && (rmw || ((s.homeLine line).written &&& mask) != 0) then some kWoViolation
  else if !rmw && s.writesAgain line mask && s.againFails line then some kProtocol
  else if !s.poisonCovered line mask then some kEccUncorr
  else none

/-- The largest timestamp of any write performed so far (10 R266): at a home, in a die's copy, or of a line that has left its slice. -/
def State.lineClock (s : State) : Nat :=
  let a := s.mem.home.foldl (fun m h => max m h.wts) 0
  let b := s.mem.die.foldl (fun m d => max m d.wts) a
  s.mem.aged.foldl (fun m x => max m x.2.toNat) b

/-- A die's clock moved past every write performed so far: what an ordering operation that is no acquire load does with it (07 R176, R180, R187, R189;
10 R266 lets a clock advance by more than 1 for every 64 ns; log entry 34, DESIGN CHOICE). -/
def State.catchUp (s : State) (die : Nat) : State := s.setPts die s.lineClock

/-- The error response that the table of a line gives an agent's access, if any: its entry says ERROR (10 R269). No home is asked where the die's own copy
answers, nor the table of a versioned word or of host memory. -/
def State.tableError (s : State) (die line ev : Nat) (write : Bool) : Option Nat :=
  if isHostPa line || (s.windowAt line).isSome || s.ownCopy die line write || !(entActs (s.entryAt line ev)).contains 9 then none
  else some (if s.writeOnce line then kWoViolation else kProtocol)
/-- The checks of an agent's read at its home, made at once. -/
def State.agentReadError (s : State) (w : Who) (line : Nat) (mask : LineMask) : Option Nat :=
  if s.veiled w.die line false then some kLostHome
  else (s.readError w line mask).or (s.tableError w.die line evRead false)
/-- The checks of an agent's write or RMW at its home, made at once. -/
def State.agentWriteError (s : State) (w : Who) (line : Nat) (mask : LineMask) (ev : Nat) (rmw : Bool) (reads : Bool := rmw) : Option Nat :=
  if s.veiled w.die line true then some kLostHome
  else (s.writeError w line mask rmw reads).or (s.tableError w.die line ev true)

/-- The event of an access that an agent has made at once, which its home takes next: a read's, or a write's with the bytes that it has written (10 R262,
R269; log entry 34, DESIGN CHOICE). -/
def State.oweEvent (s : State) (die line : Nat) (kind : ReqKind) (mask : LineMask) (ev : Nat → Instr) : State :=
  let r : Req :=
    { id := s.nonce, kind := kind, from_ := .agent, core := die * Config.coresPerDie, slot := 0, ctx := 0, line := line, vline := line, mask := mask,
      scope := .dev }
  ({ s with nonce := s.nonce + 1, mem := { s.mem with reqs := s.mem.reqs ++ [r] } }).first [ev r.id]

/-- No answer to the home is outstanding on the line. -/
def HomeLine.settled (h : HomeLine) : Bool := h.acks.isEmpty && h.awaitData.isNone && h.bi.isEmpty
/-- The home record of a line that nothing depends on: it may leave its slice and leave only its timestamp behind. -/
def State.spare (s : State) (h : HomeLine) : Bool :=
  h.settled && h.waiters.isEmpty && h.holders.isEmpty && h.written == 0 && h.host0 == .none && h.host1 == .none && h.backMask == 0
    && h.st == ((s.tableIn (s.slotAt h.line)).map PTable.init).getD 0
/-- The record of a line leaves its home slice, and leaves its timestamp behind (log entry 34, DESIGN CHOICE). -/
def State.dropRecord (s : State) (h : HomeLine) : State :=
  let ms := s.homeOf h.line
  let t := max (smGet s.mem.aged ms).toNat (max h.wts h.rts)
  { s with mem := { s.mem with home := s.mem.home.filter fun x => x.line != h.line, aged := smSet s.mem.aged ms (BitVec.ofNat 48 t) } }
/-- The records of a home slice beside that of a line. -/
def State.sliceOf (s : State) (line : Nat) : List HomeLine :=
  s.mem.home.filter fun h => s.homeOf h.line == s.homeOf line && h.line != line
/-- Bytes of a line that an agent writes at once, for all to read: at the home and in every copy that stands for it; a clean leased copy elsewhere ages out
(10 R264, R266). The event follows at the home, under the line's opening; the writes of Almanac, of the host and of the module itself follow what has been
performed anywhere (log entry 34, DESIGN CHOICE). -/
def State.applyWrite (s : State) (w : Who) (line : Nat) (mask : LineMask) (data : LineData) (ev : Nat → Instr := Instr.write) : State :=
  let s0 := if w.src < 3 then s else s.catchUp w.die
  let fresh (d : DieLine) : DieLine :=
    if d.line == line && (d.dirty != 0 || d.die == w.die || isHostPa line || s0.leaseOf line == 0) then
      { d with data := mergeLine d.data data mask, dirty := d.dirty &&& ~~~mask }
    else d
  let m := s0.mem.poke line data mask
  let s1 := ({ s0 with mem := { m with die := m.die.map fresh } }).clearPoison line mask
  let s2 := if s1.marksAt line then s1.setHomeLine { s1.homeLine line with written := (s1.homeLine line).written ||| mask } else s1
  s2.oweEvent w.die line .write mask ev

/-- A number that the K4 itself writes in `n` bytes at a physical address, relaxed at .sys and without translation (16 R388), in at most two lines:
nothing at a lost home. -/
def State.ownWrite (s : State) (pa n x : Nat) : State :=
  let put (s : State) (line : Nat) : State :=
    let lo := max pa line
    let len := min (pa + n) (line + 128) - lo
    if len = 0 || s.homeLost line || s.veiled 0 line true then s
    else s.applyWrite (Who.almanac 0 0) line (byteMask (lo - line) len) (placeBytes (lo - line) (x / 2 ^ (8 * (lo - pa)) % 2 ^ (8 * len)))
  put (put s (lineOf pa)) (lineOf pa + 128)

/-- One entry of a tenant's violation log (16 R388): VLPOS advances, in the tenant's entry as it was loaded (16 R389), and then VVEC is raised. -/
def State.violation (s : State) (ten : Option Nat) (addr ctx kind src unit : Nat) : State :=
  match ten.bind s.tenant? with
  | none => s
  | some t =>
    let e := s.cal 0 + addr * 2 ^ 64 + ctx * 2 ^ 128 + kind * 2 ^ 136 + src * 2 ^ 144 + unit * 2 ^ 160
    let s1 := s.ownWrite (t.vlbase + 32 * (t.vlpos % 2 ^ t.vllog)) 32 e
    let t' := { t with vlpos := (t.vlpos + 1) % 2 ^ 32 }
    let s2 := { s1 with iso := { s1.iso with tenants := upsert (fun x => x.id == t.id) t' s1.iso.tenants } }
    (s2.ownWrite (t.at_ + 20) 4 t'.vlpos).raiseIrq (some t.id) t.vvec

/-- The violation-log entry that a home makes for an error response, if its kind is logged (16 R388); the address is that of the lowest byte that the
request names, or of its line. -/
def State.logError (s : State) (w : Who) (kind line : Nat) (mask : LineMask) : State :=
  let addr := if mask = 0 then line else line + ctzV mask
  let v := if kind = kTenantWindow then some vTenantWindow else if kind = kWoViolation then some vWoViolation
    else if kind = kVwindow then some vVwindow else if kind = kProtocol then some Config.protocolLogKind.toNat else none
  match v with
  | some k => s.violation (s.whoTenant w addr) addr w.ctx k w.src w.unit
  | none => s

/-- A write of one piece at its home: the error response's kind with its log entry, or the write. -/
def State.writePiece (s : State) (w : Who) (line : Nat) (mask : LineMask) (data : LineData) : Option Nat × State :=
  if mask = 0 then (none, s)
  else match s.agentWriteError w line mask evWrite false with
    | some k => (some k, s.logError w k line mask)
    | none => (none, s.applyWrite w line mask data)

/-- Bytes read through a context's translation, each checked at its home; the first failure's kind and address. `prev` is the physical address of
the byte before, in the same line. -/
def State.vread (s : State) (w : Who) (core : Nat) (sup : Bool) (need : Need) : Option Nat → Nat → Nat → Except (Nat × Nat) (List Byte)
  | _, _, 0 => .ok []
  | prev, va, n + 1 =>
    let pa? : Except (Nat × Nat) Nat :=
      match prev with
      | some p => if va % 128 ≠ 0 then .ok (p + 1) else
          match s.translate core w.ctx sup need va with
          | .ok x => .ok x.pa
          | .error k => .error (k, va)
      | none =>
          match s.translate core w.ctx sup need va with
          | .ok x => .ok x.pa
          | .error k => .error (k, va)
    match pa? with
    | .error e => .error e
    | .ok pa =>
      match s.agentReadError w (lineOf pa) (byteMask (pa % 128) 1) with
      | some k => .error (k, va)
      | none =>
        match State.vread s w core sup need (some pa) (va + 1) n with
        | .ok bs => .ok (s.plainByte pa :: bs)
        | .error e => .error e

/-- A message from the home to the host (11 R281). -/
def State.toHost (s : State) (kind : String) (pa : Nat) (data : BitVec 512) : State := { s with mem := { s.mem with s2m := (kind, pa, data) :: s.mem.s2m } }

/-- A back-invalidation of every marked half (BI_HOST; 10 R275). With no half marked nothing is sent and no BI_DONE comes (log entry 9, DESIGN CHOICE). -/
def State.biHost (s : State) (h : HomeLine) : State × HomeLine :=
  let halves := [0, 1].filter fun i => h.mark i != .none
  let send (s : State) (i : Nat) : State := s.toHost (if h.mark i = .a then "BISnpData" else "BISnpInv") (h.line + 64 * i) 0
  (halves.foldl send s, { h with bi := halves })

/-- A back-invalidation for a K4 access begun, if none is pending; INV's line is in WB until it is answered (11 R282). -/
def State.callHost (s : State) (line : Nat) : State :=
  let h := s.homeLine line
  if h.bi ≠ [] then s
  else
    let (s1, h1) := s.biHost h
    s1.setHomeLine { h1 with st := if s.slotAt line = 1 && h.settled then 5 else h.st }

/-- A wait for a waking link (10 R277): it is reported when WWAIT has run out, and the die is declared lost if it has not answered after 50 µs. -/
def State.awaitLink (s : State) (req : Option Nat) (line : Option Nat) (via : Nat × Nat) (wwait : Nat) (msg : Option Waiter := none) : State :=
  let die := farDie via.1 via.2
  let once := match msg with
    | none | some (.move _) => true
    | _ => false
  if once && (s.links.waits.any fun x => x.req == req && x.line == line && x.die == die && x.msg == msg) then s
  else
    let x : WakeWait := { id := s.nonce, req := req, line := line, die := die, via := via, since := s.now, msg := msg }
    (({ s with nonce := s.nonce + 1, links := { s.links with waits := s.links.waits ++ [x] } }).after (32 * wwait) (.wakeLate x.id)).after 100000
      (.dieLost die)
/-- What waited for a link goes on. -/
def State.stopWait (s : State) (req : Option Nat) (line : Nat) : State :=
  { s with links := { s.links with waits := s.links.waits.filter fun x => !(x.req == req && x.line == some line && x.msg.isNone) } }

/-- The lines that bytes of an address space name, as far as they translate. -/
def State.linesOf (s : State) (w : Who) (core : Nat) (sup : Bool) (need : Need) (va n : Nat) : List Nat :=
  (List.range (n / 128 + 2)).filterMap fun i =>
    let a := if i = 0 then va else lineOf va + 128 * i
    if va + n ≤ a then none
    else match s.translate core w.ctx sup need a with
      | .ok x => some (lineOf x.pa)
      | .error _ => none

/-- What a read of an engine or of the grid does at the homes of the lines that it names: READ, for each that the die's own copy does not answer (10 R262,
R264, R266). -/
def State.tookRead (s : State) (die : Nat) (lines : List Nat) : State :=
  lines.eraseDups.foldl (fun s l => if (s.windowAt l).isSome || s.ownCopy die l false then s else s.oweEvent die l .read 0 Instr.read) s

/-- The violation-log entry for a read that its home refused at an address (16 R388): one for a TENANT_WINDOW, none for another failure. -/
def State.noteRead (s : State) (w : Who) (core : Nat) (sup : Bool) (need : Need) (e : Nat × Nat) : State :=
  if e.1 ≠ kTenantWindow then s
  else match s.translate core w.ctx sup need e.2 with
    | .error _ => s
    | .ok x => s.logError w e.1 (lineOf x.pa) (byteMask (x.pa % 128) 1)

/-- Bits [hi:lo] of a number (00 R6, SliceBits). -/
def bitsAt (x lo len : Nat) : Nat := (x / 2 ^ lo) % 2 ^ len

/-- Translations of the bytes of a write, in order; the first failure. -/
def State.vtargets (s : State) (w : Who) (core : Nat) (sup : Bool) (need : Need) : Option Nat → Nat → Nat → Except (Nat × Nat) (List Nat)
  | _, _, 0 => .ok []
  | prev, va, n + 1 =>
    let pa? : Except (Nat × Nat) Nat :=
      match prev with
      | some p => if va % 128 ≠ 0 then .ok (p + 1) else
          match s.translate core w.ctx sup need va with
          | .ok x => .ok x.pa
          | .error k => .error (k, va)
      | none =>
          match s.translate core w.ctx sup need va with
          | .ok x => .ok x.pa
          | .error k => .error (k, va)
    match pa? with
    | .error e => .error e
    | .ok pa =>
      match State.vtargets s w core sup need (some pa) (va + 1) n with
      | .ok ps => .ok (pa :: ps)
      | .error e => .error e

/-- The bytes of a write in one 128-byte line: the line, the virtual address that its first byte has, the bytes named and their data. -/
structure WPiece where
  line : Nat
  vline : Nat
  mask : LineMask
  data : LineData
  deriving DecidableEq, Repr

/-- Written bytes, each with its physical and virtual address, gathered into one piece for each line that they name; of two writes of one byte the later
stands. -/
def pieces : List (Nat × Nat × Byte) → List WPiece
  | [] => []
  | (pa, va, b) :: t =>
    let one : LineMask := byteMask (pa % 128) 1
    let d : LineData := placeBytes (pa % 128) b.toNat
    let line := lineOf pa
    let vline := va - pa % 128
    let ps := pieces t
    match ps.find? fun p => p.line == line && p.vline == vline with
    | some p => { p with mask := p.mask ||| one, data := mergeLine d p.data p.mask } :: ps.filter fun p => !(p.line == line && p.vline == vline)
    | none => { line := line, vline := vline, mask := one, data := d } :: ps

/-- Pieces written one after another; the first error response, with the virtual address of the lowest byte refused. -/
def State.writePieces (s : State) (w : Who) : List WPiece → Option (Nat × Nat) × State
  | [] => (none, s)
  | p :: t =>
    let (e, s1) := s.writePiece w p.line p.mask p.data
    let (e', s2) := State.writePieces s1 w t
    (match e with
      | some k => some (k, p.vline + ctzV p.mask)
      | none => e', s2)

/-- Bytes at consecutive virtual addresses with the physical addresses that they have. -/
def placed (va : Nat) (pas : List Nat) (bs : List Byte) : List (Nat × Nat × Byte) := (pas.zip bs).zipIdx.map fun x => (x.1.1, va + x.2, x.1.2)

/-- Bytes written through a context's translation; the first failure's kind and address. Nothing is written when a translation fails. -/
def State.vwrite (s : State) (w : Who) (core : Nat) (sup : Bool) (va : Nat) (bs : List Byte) : Option (Nat × Nat) × State :=
  match s.vtargets w core sup .write none va bs.length with
  | .error e => (some e, s)
  | .ok ps => s.writePieces w (pieces (placed va ps bs))

/-- The bytes of a number. -/
def bytesOf (n x : Nat) : List Byte := (List.range n).map (byteOf x)

/-- A context's fault ring: WPOS and LOST as written so far (17 R402). -/
def State.ringOf (s : State) (ctx : Nat) : Nat × Nat :=
  match s.iso.rings.find? fun r => r.1 == ctx with
  | some r => r.2
  | none => (0, 0)

/-- The fields of a fault record (17 R403). -/
structure FaultRec where
  iaddr : DWord := 0
  va : Nat := 0
  lmask : LaneMask := 0
  kind : Nat
  sub : Nat := 0
  slot : Nat := 0
  seq : BitVec 16 := 0
  itag : Option Nat := none
  gcnt : Nat := 0
  flags : BitVec 8 := 0
  ltag : Nat := 0
  portid : Word := 0
  aux : Nat := 0
  iter : Nat := 0
  lmid : BitVec 8 := 0
  die : Nat := 0
  deriving DecidableEq, Repr

/-- The 64 bytes of a record (17 R403). -/
def FaultRec.bytes (r : FaultRec) (stamp ctx : Nat) : List Byte :=
  bytesOf 8 stamp ++ bytesOf 8 r.iaddr.toNat ++ bytesOf 8 r.va ++ bytesOf 4 r.lmask.toNat ++ bytesOf 2 r.kind ++ bytesOf 1 ctx
    ++ bytesOf 1 (r.sub % 16 + 16 * (r.slot % 16)) ++ bytesOf 2 r.seq.toNat
    ++ bytesOf 2 (match r.itag with
        | some t => t % 1024 + 1024
        | none => 0)
    ++ bytesOf 1 r.gcnt ++ bytesOf 1 r.flags.toNat ++ bytesOf 2 r.ltag ++ bytesOf 4 r.portid.toNat ++ bytesOf 4 r.aux ++ bytesOf 4 r.iter
    ++ bytesOf 1 r.lmid.toNat ++ bytesOf 1 r.die ++ bytesOf 10 0

/-- One record appended to a context's ring, written in supervisor mode: the address of the record, or none where there is no ring or the write fails
(17 R402). WPOS is written last. RPOS is read as software left it. -/
def State.record? (s : State) (ctx : Nat) (r : FaultRec) : Option (Nat × State) :=
  match s.ctx? ctx with
  | none => none
  | some c =>
    if c.xsize < 16 then none
    else
      let w := Who.almanac ctx r.die
      let core := r.die * Config.coresPerDie
      let (wpos, lost) := s.ringOf ctx
      let at_ := c.xarea.toNat + 0x40 + 64 * (wpos % 255)
      match s.vwrite w core true at_ (r.bytes (s.cal r.die) ctx) with
      | (some _, _) => none
      | (none, s1) =>
        let rpos := match s1.vread w core true .read none (c.xarea.toNat + 4) 4 with
          | .ok bs => leOf bs
          | .error _ => wpos
        let wpos' := (wpos + 1) % 2 ^ 32
        let overlay := (wpos' + 2 ^ 32 - rpos) % 2 ^ 32 > 255
        let lost' := if overlay then (lost + 1) % 2 ^ 32 else lost
        let s2 := if overlay then (s1.vwrite w core true (c.xarea.toNat + 8) (bytesOf 4 lost')).2 else s1
        let s3 := (s2.vwrite w core true c.xarea.toNat (bytesOf 4 wpos')).2
        some (at_, { s3 with iso := { s3.iso with rings := upsert (fun x => x.1 == ctx) (ctx, wpos', lost') s3.iso.rings } })
/-- Records appended in order; the address of the first. Where one cannot be written none is (17 R402). -/
def State.records? (s : State) (ctx : Nat) : List FaultRec → Option (Nat × State)
  | [] => none
  | [r] => s.record? ctx r
  | r :: t =>
    match s.record? ctx r with
    | none => none
    | some (a, s1) => (State.records? s1 ctx t).map fun x => (a, x.2)
/-- Records of one fault: the address of the first, or 0 and nothing changed. -/
def State.putRecords (s : State) (ctx : Nat) (rs : List FaultRec) : Nat × State := (s.records? ctx rs).getD (0, s)
/-- One record of a fault. -/
def State.putRecord (s : State) (ctx : Nat) (r : FaultRec) : Nat × State := s.putRecords ctx [r]

/-- A failed access of Almanac or the dispatcher, recorded with FLAGS[5] (12 R424). -/
def State.almFault (s : State) (ctx die kind va ltag : Nat) : State :=
  (s.putRecord ctx { kind := kind, va := va, flags := 0x20, ltag := ltag, die := die }).2

/-- A failed read of Almanac: recorded, and logged where its home refused it. -/
def State.almReadFault (s : State) (ctx die : Nat) (e : Nat × Nat) (ltag : Nat) : State :=
  (s.noteRead (Who.almanac ctx die) (die * Config.coresPerDie) true .read e).almFault ctx die e.1 e.2 ltag

/-- A write of Almanac through a context in supervisor mode; a failure is recorded and the write skipped (12 R424). -/
def State.almWrite (s : State) (ctx die va : Nat) (bs : List Byte) (ltag : Nat := 0) : State :=
  match s.vwrite (Who.almanac ctx die) (die * Config.coresPerDie) true va bs with
  | (none, s1) => s1
  | (some (k, a), s1) => s1.almFault ctx die k a ltag

/-- A read of Almanac through a context in supervisor mode. -/
def State.almRead (s : State) (ctx die va n : Nat) : Except (Nat × Nat) (List Byte) :=
  s.vread (Who.almanac ctx die) (die * Config.coresPerDie) true .read none va n

end Sys2Proof.Machine
end

