-- ==== Sys2Proof/Machine/Queues.lean ====
section
/-!
DEFINITION. Machine/Queues.lean: queue table entries, kicks, the kick log, queue slots and the map-wait list, and what a packet's completion does
(12 R287 to R290, R294; 16 R382).
-/
namespace Sys2Proof.Machine

/-- A dispatcher is woken: a round is owed (12 R308). -/
def State.poke (s : State) (die : Nat) : State :=
  if s.agenda.any fun m => m.what == .dispatchRound die then s else s.later (.dispatchRound die)
/-- Every dispatcher is woken. -/
def State.pokeAll (s : State) : State := (List.range Config.nDies).foldl State.poke s

/-- A queue's dynamic state; none before its first accepted kick. -/
def State.queue? (s : State) (q : Nat) : Option Queue := s.alm.queues.find? fun x => x.q == q
/-- Address of a queue's table entry: a mapped queue keeps the table it was mapped from (16 R389). -/
def State.qAddr (s : State) (q : Nat) : Nat :=
  match s.queue? q with
  | some x => (if x.mapped then x.base else s.iso.qtab.toNat) + 64 * q
  | none => s.iso.qtab.toNat + 64 * q
/-- One field of a queue's table entry (12 R287), by offset and size. -/
def State.qField (s : State) (q off n : Nat) : Nat := s.tableField (s.qAddr q + off) n
def State.setQField (s : State) (q off n x : Nat) : State := s.ownWrite (s.qAddr q + off) n x
def State.qCtx (s : State) (q : Nat) : Nat := bitsAt (s.qField q 8 4) 12 8
def State.qTen (s : State) (q : Nat) : Nat := bitsAt (s.qField q 8 4) 20 6
def State.qHome (s : State) (q : Nat) : Nat := bitsAt (s.qField q 8 4) 6 2
def State.qPrio (s : State) (q : Nat) : Nat := bitsAt (s.qField q 8 4) 8 4
def State.qLog (s : State) (q : Nat) : Nat := bitsAt (s.qField q 8 4) 1 5
/-- EN, with a QLOG outside 4 to 16 counting as 0 (12 R287). -/
def State.qEn (s : State) (q : Nat) : Bool := s.qField q 8 4 % 2 == 1 && decide (4 ≤ s.qLog q ∧ s.qLog q ≤ 16)
def State.qRd (s : State) (q : Nat) : Nat := s.qField q 0x10 4
def State.qKi (s : State) (q : Nat) : Nat := s.qField q 0x14 4
/-- VEC of a queue (12 R287). -/
def State.qVec (s : State) (q : Nat) : Nat := bitsAt (s.qField q 0x28 4) 8 8

/-- The context of a queue belongs to another tenant than the queue (16 R382). -/
def State.qForeign (s : State) (q : Nat) : Bool :=
  s.qCtx q != 0 && match s.ctx? (s.qCtx q) with
    | some c => c.ten != s.qTen q
    | none => false

/-- The interrupt of a queue: its tenant's function, or the physical function for an operator queue; a VEC of 64 or more is logged as BADVEC
(16 R382). -/
def State.queueIrq (s : State) (q vec : Nat) : State :=
  let op := s.qCtx q == 0
  if vec < 64 then s.raiseIrq (if op then none else some (s.qTen q)) vec
  else if op then s
  else s.violation (some (s.qTen q)) (vec + q * 2 ^ 32) (s.qCtx q) vBadvec 3 0

/-- A queue's dynamic state changed. -/
def State.updQueue (s : State) (q : Nat) (f : Queue → Queue) : State :=
  { s with alm := { s.alm with queues := mapFirst (fun x => x.q == q) f s.alm.queues } }
/-- A queue that has dynamic state from now on. -/
def State.withQueue (s : State) (q : Nat) : State :=
  if (s.queue? q).isSome then s else { s with alm := { s.alm with queues := s.alm.queues ++ [{ q := q }] } }

/-- A write of Almanac at an aligned address; a misaligned one is recorded and skipped (12 R424). -/
def State.almPut (s : State) (ctx die va align : Nat) (bs : List Byte) (ltag : Nat := 0) : State :=
  if va % align ≠ 0 then s.almFault ctx die kMisalign va ltag else s.almWrite ctx die va bs ltag

/-- A save of the context is in progress (17 R408); it is given up with the workgroup that asked for it (log entry 13, DESIGN CHOICE). -/
def State.isDraining (s : State) (c : Nat) : Bool := s.saved.draining.any fun d => d.1 == c && s.fe.wgs.any fun g => g.id == d.2.2 / 512

/-- The context may run (16 R380, R390, 17 R408): in force, enabled, not saved and not being saved. -/
def State.ctxRuns (s : State) (c : Nat) : Bool := (s.ctx? c).any (fun x => x.en && !x.saved) && !s.isDraining c

/-- One entry of a queue's kick log (12 R289): a relaxed store at .sys; a failed write is recorded and skipped (R424). -/
def State.kickLog (s : State) (q : Nat) (acc map : Bool) (value : Nat) : State :=
  let pos := s.qField q 0x2C 4
  let at_ := s.qField q 0x20 8 + 16 * (pos % 2 ^ bitsAt (s.qField q 0x28 4) 0 5)
  let s1 := s.almPut (s.qCtx q) (s.qHome q) at_ 16
    (bytesOf 8 (s.cal (s.qHome q)) ++ bytesOf 4 (q + acc.toNat * 2 ^ 12 + map.toNat * 2 ^ 13) ++ bytesOf 4 value)
  s1.setQField q 0x2C 4 ((pos + 1) % 2 ^ 32)

/-- The queue holds no packet that is running, waiting or unstarted (12 R290). -/
def State.qEmpty (s : State) (x : Queue) : Bool := x.running.isEmpty && s.qRd x.q == s.qKi x.q

/-- Idle time of a queue in arithmetic clocks (12 R287). -/
def State.qIdle (s : State) (q : Nat) : Nat :=
  let us := s.qField q 0x30 4
  2000 * (if us = 0 then 100 else us)

/-- An unmapping owed when the queue has been idle long enough (12 R290). -/
def State.idleTimer (s : State) (q : Nat) : State :=
  match s.queue? q with
  | some x => if x.mapped && s.qEmpty x then (s.updQueue q fun x => { x with idleSince := s.now }).after (s.qIdle q) (.queueIdleUnmap q) else s
  | none => s

/-- The queue takes a slot. -/
def State.mapQueue (s : State) (q : Nat) : State :=
  (s.updQueue q fun x => { x with mapped := true, waiting := none, base := s.iso.qtab.toNat }).poke (s.qHome q)
/-- The queue holds no slot. -/
def State.unmapQueue (s : State) (q : Nat) : State := s.updQueue q fun x => { x with mapped := false, age := 0 }
/-- The queue joins the tail of the map-wait list. -/
def State.queueWaits (s : State) (q : Nat) : State :=
  { s with nonce := s.nonce + 1 }.updQueue q fun x => { x with waiting := some s.nonce }

/-- The head of the map-wait list; a queue whose context has come to belong to another tenant never maps (16 R382). -/
def State.waitHead (s : State) : Option Nat :=
  (((s.alm.queues.filter fun x => !s.qForeign x.q).filterMap fun x => x.waiting.map fun n => (n, x.q)).foldl (fun b x => match b with
    | none => some x
    | some y => if x.1 < y.1 then some x else b) none).map Prod.snd

/-- The queue signalled least recently of a list. -/
def leastSignalled (qs : List Queue) : Option Queue :=
  qs.foldl (fun b x => match b with
    | none => some x
    | some y => if x.signalled < y.signalled then some x else b) none

/-- A slot handed to the head of the map-wait list, with its log entry (12 R289). -/
def State.grantSlot (s : State) (q : Nat) : State := (s.mapQueue q).kickLog q false true (s.qKi q)

/-- A slot is free (12 R290). -/
def State.slotFree (s : State) : Bool := decide ((s.alm.queues.filter Queue.mapped).length < Config.queueSlots)

/-- Free slots go to the map-wait list, and mapped queues that hold nothing give up theirs to it, the one signalled least recently first (12 R290). -/
def State.giveSlots : Nat → State → State
  | 0, s => s
  | n + 1, s =>
    match s.waitHead with
    | none => s
    | some h =>
      if s.slotFree then State.giveSlots n (s.grantSlot h)
      else match leastSignalled (s.alm.queues.filter fun x => x.mapped && s.qEmpty x) with
        | some v => State.giveSlots n ((s.unmapQueue v.q).grantSlot h)
        | none => s

/-- A packet of any queue has started: the slot of the mapped queue signalled least recently goes to the head of the map-wait list (12 R290). -/
def State.passSlot (s : State) : State :=
  match s.waitHead, leastSignalled (s.alm.queues.filter Queue.mapped) with
  | some h, some v =>
    let s1 := s.unmapQueue v.q
    let s2 := if s1.qRd v.q ≠ s1.qKi v.q then s1.queueWaits v.q else s1
    s2.grantSlot h
  | _, _ => s

/-- A slot requested for a queue (12 R290): taken at once, or the queue joins the map-wait list; whether it was taken. -/
def State.requestSlot (s : State) (q : Nat) : Bool × State :=
  if s.slotFree then (true, s.mapQueue q) else (false, s.queueWaits q)

/-- A write of a kick register by a requester, named by its context, source and unit (16 R388): it is applied or not, and logged (12 R288 to R290). A
queue of a context that may not run takes no slot. -/
def State.applyKick (s : State) (ctx src unit q : Nat) (value : DWord) : State :=
  let w := value.toNat % 2 ^ 32
  let dist := (w + 2 ^ 32 - s.qKi q) % 2 ^ 32
  if s.qForeign q then
    (s.kickLog q false false w).violation (some (s.qTen q)) q ctx vCtxTenant src unit
  else if s.qEn q && decide (value.toNat < 2 ^ 32) && decide (1 ≤ dist ∧ dist ≤ 2 ^ (s.qLog q - 1)) then
    let s1 := ((s.withQueue q).setQField q 0x14 4 w).updQueue q fun x => { x with signalled := s.nonce, idleSince := s.now }
    let s2 := { s1 with nonce := s1.nonce + 1 }
    match s2.queue? q with
    | none => s2
    | some x =>
      if x.mapped then (s2.kickLog q true false w).poke (s2.qHome q)
      else if x.waiting.isSome || !s2.ctxRuns (s2.qCtx q) then s2.kickLog q true false w
      else
        let (got, s3) := s2.requestSlot q
        (s3.kickLog q true got w).giveSlots 1
  else (s.idleTimer q).kickLog q false false w

/-- Tenant n's share (12 R288): every queue whose TEN is n and whose CTX is not 0. -/
def State.share (s : State) (n : Nat) : List Nat := (List.range Config.nQueues).filter fun q => s.qTen q == n && s.qCtx q != 0

/-- KICK_REGISTER_WRITE (12 R288, R289): a host write through the physical function or a virtual function. Before boot firmware has completed no queue
is there for it (01 R22). -/
def execKickRegisterWrite (fn : Option Nat) (offset : Nat) (value : DWord) (s : State) : Out :=
  .next (if !s.boot.released then s else match fn with
    | none => if offset % 8 = 0 && decide (offset / 8 < Config.nQueues) then s.applyKick 0 4 0 (offset / 8) value else s
    | some n =>
      match (s.share n)[offset / 8]? with
      | some q => if offset % 8 = 0 then s.applyKick 0 4 (n + 1) q value else s
      | none => s.violation (some n) (offset + 2 ^ 63) 0 vQueueShare 4 (n + 1))

/-- QUEUE_IDLE_UNMAP (12 R290). -/
def execQueueIdleUnmap (q : Nat) (s : State) : Out :=
  .next (match s.queue? q with
    | some x => if x.mapped && s.qEmpty x && decide (x.idleSince + s.qIdle q ≤ s.now) then s.unmapQueue q else s
    | none => s)

/-- A packet of a queue completes: its signal word, then its interrupt (12 R294); a COPY packet in error sets QSTAT and ERR, writes no signal word and
raises the vector whatever IRQ holds (12 R292). `ltag` is the packet's launch tag. -/
def State.packetComplete (s : State) (q idx ltag : Nat) (err : Option Nat) : State :=
  let bytes := (((s.queue? q).bind fun x => x.running.find? fun p => p.1 == idx).map Prod.snd).getD []
  let hdr := fieldAt bytes 0 4
  let ctx := s.qCtx q
  let die := s.qHome q
  let s1 := match err with
    | some k => s.setQField q 0xC 4 (k % 2 ^ 16 + 2 ^ 16)
    | none => if bitsAt hdr 10 1 = 1 then s.almPut ctx die (fieldAt bytes 0x20 8) 4 (bytesOf 4 (fieldAt bytes 0x28 4)) ltag else s
  let s2 := if err.isSome || bitsAt hdr 9 1 = 1 then s1.queueIrq q (s1.qVec q) else s1
  let s3 := s2.updQueue q fun x => { x with running := x.running.filter (·.1 != idx) }
  ((s3.giveSlots 1).idleTimer q).poke die

end Sys2Proof.Machine
end

