-- ==== Sys2Proof/Machine/Launches.lean ====
section
/-!
DEFINITION. Machine/Launches.lean: warps and workgroups by name, completion objects, the end of a workgroup and of a launch, and the kill of R37
(02 R24, R34 to R37; 12 R294, R296, R298, R305).
-/
namespace Sys2Proof.Machine

/-- A warp by core and slot. -/
def State.warp? (s : State) (core slot : Nat) : Option Warp := s.fe.warps.find? fun w => w.core == core && w.slot == slot
/-- A warp replaced. -/
def State.setWarp (s : State) (w : Warp) : State :=
  { s with fe := { s.fe with warps := mapFirst (fun x => x.core == w.core && x.slot == w.slot) (fun _ => w) s.fe.warps } }
/-- A workgroup by number. -/
def State.wg? (s : State) (id : Nat) : Option Wg := s.fe.wgs.find? fun g => g.id == id
def State.setWg (s : State) (g : Wg) : State :=
  { s with fe := { s.fe with wgs := mapFirst (fun x => x.id == g.id) (fun _ => g) s.fe.wgs } }
/-- A launch by number. -/
def State.launch? (s : State) (id : Nat) : Option Launch := s.alm.launches.find? fun l => l.id == id
def State.setLaunch (s : State) (l : Launch) : State :=
  { s with alm := { s.alm with launches := mapFirst (fun x => x.id == l.id) (fun _ => l) s.alm.launches } }
/-- The launch of a warp. -/
def State.launchOf (s : State) (w : Warp) : Option Launch := (s.wg? w.wg).bind fun g => s.launch? g.launch
/-- The context of a warp; 0 where its launch is gone. -/
def State.ctxOf (s : State) (w : Warp) : Nat := ((s.launchOf w).map Launch.ctx).getD 0
/-- Constant register of a warp's launch (02 R25). -/
def State.kreg (s : State) (w : Warp) (i : Nat) : Word :=
  match s.launchOf w with
  | some l => smGet l.k i
  | none => 0

/-- A region control block as read (02 R34). -/
structure Rcb where
  parent : Nat
  prio : Nat
  fdom : Bool
  inh : Nat
  cores : Nat
  stageb : Nat
  dlslot : Nat
  mxsh : Nat
  cuse : Nat
  suse : Nat
  duse : Nat
  deriving DecidableEq, Repr

/-- An RCB of 64 bytes; none where a reserved field is not zero. -/
def rcbOf (bs : List Byte) : Option Rcb :=
  let x := leOf bs
  if bitsAt x 69 3 ≠ 0 ∨ bitsAt x 78 18 ≠ 0 ∨ bitsAt x 106 22 ≠ 0 ∨ bitsAt x 184 8 ≠ 0 ∨ bitsAt x 202 22 ≠ 0 ∨ bitsAt x 272 240 ≠ 0 then none
  else some { parent := bitsAt x 0 64, prio := bitsAt x 64 4, fdom := bitsAt x 68 1 == 1, inh := bitsAt x 72 6, cores := bitsAt x 96 10,
              stageb := bitsAt x 128 32, dlslot := bitsAt x 160 16, mxsh := bitsAt x 176 8, cuse := bitsAt x 192 10, suse := bitsAt x 224 32,
              duse := bitsAt x 256 16 }

/-- The walk from a named RCB to its root (02 R36): at most 8 reads; none where a check fails. Addresses beside the blocks. -/
def State.rcbWalk (s : State) (ctx die : Nat) : Nat → Nat → Option (List (Nat × Rcb))
  | 0, _ => none
  | n + 1, va =>
    if va % 64 ≠ 0 then none
    else match s.vread (Who.almanac ctx die) (die * Config.coresPerDie) true .read none va 64 with
      | .error _ => none
      | .ok bs => match rcbOf bs with
        | none => none
        | some r =>
          if r.parent = 0 then (if r.inh = 0 then some [(va, r)] else none)
          else match State.rcbWalk s ctx die n r.parent with
            | some t => some ((va, r) :: t)
            | none => none

/-- The effective value of a field: the node's own, or its parent's where the INH bit is set (02 R35). -/
def effective (bit : Nat) (f : Rcb → Nat) : List (Nat × Rcb) → Nat
  | [] => 0
  | (_, r) :: t => if bitsAt r.inh bit 1 = 1 then effective bit f t else f r

/-- The chain of a launch's region. -/
def State.regionOf (s : State) (l : Launch) : Option (List (Nat × Rcb)) := s.rcbWalk l.ctx l.home 8 l.rcb.toNat

/-- The read at which a walk fails, recorded (12 R424): none where a check on what was read fails. -/
def State.rcbFault (s : State) (ctx die ltag : Nat) : Nat → Nat → State
  | 0, _ => s
  | n + 1, va =>
    if va % 64 ≠ 0 then s.almFault ctx die kMisalign va ltag
    else match s.almRead ctx die va 64 with
      | .error e => s.almReadFault ctx die e ltag
      | .ok bs => match rcbOf bs with
        | some r => if r.parent = 0 then s else State.rcbFault s ctx die ltag n r.parent
        | none => s
/-- The same of a launch's region. -/
def State.regionFault (s : State) (l : Launch) : State := s.rcbFault l.ctx l.home l.tag 8 l.rcb.toNat

/-- Another workgroup that runs on a core is charged to a region control block of the context. -/
def State.coreHeld (s : State) (ctx addr core except : Nat) : Bool :=
  s.fe.wgs.any fun g => g.id != except && g.core == core && g.region.contains addr && (s.launch? g.launch).any fun l => l.ctx == ctx

/-- CUSE and SUSE of one region control block changed (02 R35). -/
def State.chargeRcb (s : State) (ctx die ltag addr : Nat) (cores stage : Int) : State :=
  match s.almRead ctx die (addr + 24) 8 with
  | .error e => s.almReadFault ctx die e ltag
  | .ok bs =>
    let cuse : Int := (bitsAt (fieldAt bs 0 4) 0 10 : Nat)
    let suse : Int := (fieldAt bs 4 4 : Nat)
    s.almWrite ctx die (addr + 24) (bytesOf 4 ((cuse + cores).toNat % 1024) ++ bytesOf 4 ((suse + stage).toNat % 2 ^ 32)) ltag

/-- Usage of a region given back when a workgroup ends or parks (02 R35, 12 R306). -/
def State.releaseRegion (s : State) (l : Launch) (g : Wg) : State :=
  g.region.foldl (fun s a => s.chargeRcb l.ctx l.home l.tag a (if s.coreHeld l.ctx a g.core g.id then 0 else -1) (-(g.stageKiB : Int))) s

/-- A completion object's final fields (12 R296): every field before STATE, STATE last. -/
def State.putCompletion (s : State) (ctx die : Nat) (compl : DWord) (st status tag ktag : Nat) (tstart : Nat) (iter : Nat) : State :=
  let body := bytesOf 4 status ++ bytesOf 4 tag ++ bytesOf 4 ktag ++ bytesOf 8 tstart ++ bytesOf 8 (if st = 1 then 0 else s.cal die)
    ++ bytesOf 4 iter ++ bytesOf 28 0
  if compl.toNat % 64 ≠ 0 then s.almFault ctx die kMisalign compl.toNat tag
  else
    match s.vwrite (Who.almanac ctx die) (die * Config.coresPerDie) true (compl.toNat + 4) body with
    | (some (k, a), s1) => s1.almFault ctx die k a tag
    | (none, s1) => s1.almWrite ctx die compl.toNat (bytesOf 4 st) tag

/-- A graph changed. -/
def State.updGraph (s : State) (g : Nat) (f : Graph → Graph) : State :=
  { s with alm := { s.alm with graphs := mapFirst (fun x => x.id == g) f s.alm.graphs } }

/-- A launch completes (12 R298): its completion object, then what its origin asks for. A GRAPH node's launch reports to its graph:
its own fault makes the node fail, another launch's kill ends the graph (12 R302, R303; 15, the verdicts of its last program). -/
def State.launchComplete (s : State) (l : Launch) : State :=
  let st := match l.killed with
    | some (_, _, true) => 3
    | some (_, _, false) => 4
    | none => if (l.stopStatus.or l.engFail).isSome then 3 else 2
  let status := match l.killed with
    | some (k, _, _) => k
    | none => (l.stopStatus.or l.engFail).getD 0
  let ktag := match l.killed with
    | some (_, t, false) => t
    | _ => 0
  let s0 := { s with alm := { s.alm with
    launches := s.alm.launches.filter fun x => x.id != l.id, reserve := s.alm.reserve.filter fun r => r.2 != l.id } }.pokeAll
  let s1 := if status = 0x010A then s0.almFault l.ctx l.home kMisalign l.compl.toNat l.tag
    else s0.putCompletion l.ctx l.home l.compl st status l.tag ktag l.tstart.toNat 1
  match l.origin with
  | .packet q idx => s1.packetComplete q idx l.tag none
  | .node g k =>
    let mark (x : Graph) : Graph :=
      if x.failed.isSome || x.killed.isSome then x
      else if st = 3 then { x with failed := some status }
      else if st = 4 then { x with killed := some (status, ktag) } else x
    (s1.updGraph g mark).later (.graphNodeEnd g k)
  | .child rcb _ =>
    match s1.almRead l.ctx l.home rcb.toNat 64 with
    | .ok bs => s1.almWrite l.ctx l.home (rcb.toNat + 32) (bytesOf 2 (bitsAt (leOf bs) 256 16 - 1)) l.tag
    | .error e => s1.almReadFault l.ctx l.home e l.tag

/-- Workgroups that a launch starts in all, counted in start units of its x order. -/
def Launch.total (l : Launch) : Nat := l.gx * l.gy * l.gz

/-- A workgroup of a launch is running, parked, or waiting after a resume. -/
def State.hasWg (s : State) (launch : Nat) : Bool :=
  (s.fe.wgs.any fun g => g.launch == launch) || (s.saved.parked.any fun p => p.wg.launch == launch)

/-- A launch completes if every workgroup of it has started and ended (12 R298). -/
def State.launchCheck (s : State) (id : Nat) : State :=
  match s.launch? id with
  | none => s
  | some l => if (l.next ≥ l.total || l.stopStatus.isSome || l.killed.isSome) && !s.hasWg id then s.launchComplete l else s

/-- A workgroup's warps removed with their clauses, outstanding instructions and waiting reads. -/
def FrontEnd.dropWg (fe : FrontEnd) (id : Nat) : FrontEnd :=
  let gone := fe.warps.filter fun w => w.wg == id
  { fe with
    warps := fe.warps.filter fun w => w.wg != id, wgs := fe.wgs.filter fun g => g.id != id,
    issues := fe.issues.filter fun i => !(gone.any fun w => w.core == i.core && w.slot == i.slot),
    llops := fe.llops.filter fun o => o.wg != id }

/-- Streams and windows of a workgroup stopped (09 R251, R256): the grid ingress ports that they feed are unbound, its queued commands go, and the others
stay queued. -/
def Eng.dropStreams (e : Eng) (id : Nat) : Eng :=
  let left := e.strms.filter fun x => x.wg != id
  let queued (port : Nat) : Nat := (left.filter fun x => x.port == port && !x.started).length
  { e with
    strms := left, wins := e.wins.filter fun x => x.wg != id,
    gports := e.gports.map fun p =>
      (p.1, if p.2.bound && p.2.wg == id then { queued := queued p.1 } else { p.2 with queued := queued p.1 }) }

/-- Engine operations, streams and windows of a workgroup stopped (09 R44, R251, R256). -/
def Eng.dropWg (e : Eng) (id : Nat) : Eng :=
  let mine (o : EngOp) : Bool := match o.owner with
    | .handle g _ => g == id
    | _ => false
  { e with ops := e.ops.filter fun o => !mine o }.dropStreams id

/-- Matrix entries and block frames of a workgroup removed (06 R147, R160). -/
def Mx.dropWg (m : Mx) (id : Nat) : Mx :=
  { m with entries := m.entries.filter fun e => e.wg != id, frames := m.frames.filter fun x => x.wg != id }

/-- Iterations of warps removed from the grid with their tokens. -/
def Grid.dropWarps (g : Grid) (gone : List Warp) : Grid :=
  let mine (i : GIter) : Bool := gone.any fun w => w.core == i.core && w.slot == i.slot
  let ids := (g.iters.filter mine).map GIter.id
  { g with
    iters := g.iters.filter fun i => !mine i, waiting := g.waiting.filter fun t => !ids.contains t.iter,
    runs := g.runs.filter fun r => !(gone.any fun w => w.core == r.core && w.slot == r.slot),
    chans := (g.chans.map fun c => { c with toks := c.toks.filter fun t => !ids.contains t.iter }) }

/-- A workgroup removed from every part of the module that holds something of it; the matrix engines that held entries of it look again (06 R157). -/
def State.removeWg (s : State) (id : Nat) : State :=
  let gone := s.fe.warps.filter fun w => w.wg == id
  let lost := (s.mem.reqs.filter fun r => r.kind.readsOnly && gone.any fun w => w.core == r.core && w.slot == r.slot).map Req.id
  let engines := ((s.mx.entries.filter fun e => e.wg == id).map MxEntry.cluster).eraseDups
  let ports := (s.eng.gports.filter fun p => p.2.queued != 0).map Prod.fst
  ports.foldl (fun s p => s.later (.streamStart p)) <| engines.foldl (fun s cl => s.later (.mxGrant cl)) { s with
    fe := s.fe.dropWg id, eng := s.eng.dropWg id, mx := s.mx.dropWg id,
    grid := s.grid.dropWarps gone,
    mem := { s.mem with
      fab := s.mem.fab.map fun f => { f with locks := f.locks.filter (·.1 != id) },
      reqs := s.mem.reqs.filter fun r => !lost.contains r.id,
      windows := s.mem.windows.map fun w => { w with waiting := w.waiting.filter fun n => !lost.contains n } } }

/-- The end of a workgroup (02 R24): its resources go, its region's usage falls, its private index is free, and its launch may complete. -/
def State.wgEnd (s : State) (g : Wg) : State :=
  let s1 := s.removeWg g.id
  match s1.launch? g.launch with
  | none => s1
  | some l =>
    let s2 := s1.setLaunch { l with privUsed := l.privUsed.filter (· != g.privIdx) }
    ((s2.releaseRegion l g).launchCheck l.id).pokeAll

/-- Launches that a killing fault of launch `l` ends (02 R37). Where the chain of the node cannot be read at the kill, its fault domain counts as 1 (log entry
27, DESIGN CHOICE). -/
def State.killSet (s : State) (l : Launch) : List Nat :=
  let fdom := match s.regionOf l with
    | some chain => effective 5 (fun r => r.fdom.toNat) chain == 1
    | none => true
  (s.alm.launches.filter fun x =>
    x.ctx == l.ctx && (x.rcb == l.rcb || x.id == l.id ||
      (!fdom && match s.regionOf x with
        | some c => c.any fun n => n.1 == l.rcb.toNat
        | none => false))).map Launch.id

/-- One launch ended by a kill: its workgroups, running or parked, go, and it completes. -/
def State.killOne (s : State) (id kind tag : Nat) (own : Bool) : State :=
  match s.launch? id with
  | none => s
  | some l =>
    let s1 := s.setLaunch { l with killed := some (kind, tag, own) }
    let wgs := s1.fe.wgs.filter fun g => g.launch == id
    let s2 := wgs.foldl (fun s g => (s.removeWg g.id).releaseRegion l g) s1
    let s3 := { s2 with saved := { s2.saved with parked := s2.saved.parked.filter fun p => p.wg.launch != id } }
    s3.launchCheck id

/-- The reads at which the walks of a kill fail, recorded (12 R424): of the faulting launch's chain, and of the others' where they decide. -/
def State.killFaults (s : State) (l : Launch) : State :=
  match s.regionOf l with
  | none => s.regionFault l
  | some chain =>
    if effective 5 (fun r => r.fdom.toNat) chain == 1 then s
    else (s.alm.launches.filter fun x => x.ctx == l.ctx && x.rcb != l.rcb && (s.regionOf x).isNone).foldl State.regionFault s

/-- A COPY ended from outside (02 R37; 17 R401): its packet completes in error with the kind, or its node's graph is killed. -/
def State.endCopy (s : State) (o : EngOp) (kind tag : Nat) : State :=
  let s1 := { s with eng := { s.eng with ops := s.eng.ops.filter fun x => x.id != o.id } }
  match o.owner with
  | .packet q idx => s1.packetComplete q idx o.ltag (some kind)
  | .node g k => (s1.updGraph g fun x => if x.failed.isSome || x.killed.isSome then x else { x with killed := some (kind, tag) }).later (.graphNodeEnd g k)
  | .handle _ _ => s
/-- The COPY operations of a context that run under a region control block (12 R292). -/
def State.copiesUnder (s : State) (ctx rcb : Nat) : List EngOp :=
  s.eng.ops.filter fun o => rcb != 0 && o.ctx == ctx && o.region == rcb && match o.owner with
    | .handle _ _ => false
    | _ => true

/-- The COPY operations that run on a die that is lost (17 R401). -/
def State.loseCopies (s : State) (die : Nat) : State :=
  (s.eng.ops.filter fun o => dieOf o.core == die && match o.owner with
    | .handle _ _ => false
    | _ => true).foldl (fun s o => s.endCopy o kLostUnit o.ltag) s

/-- The kill of 02 R37 by a fault of launch `id`: the launches of its set, and what else runs under the region that it names. -/
def State.killLaunch (s : State) (id kind : Nat) : State :=
  match s.launch? id with
  | none => s
  | some l =>
    let s1 := (id :: (s.killSet l).filter (· != id)).foldl (fun s x => s.killOne x kind l.tag (x == id)) (s.killFaults l)
    (s1.copiesUnder l.ctx l.rcb.toNat).foldl (fun s o => s.endCopy o kind l.tag) s1

end Sys2Proof.Machine
end

