-- ==== Sys2Proof/Machine/Ops.lean ====
section
/-!
DEFINITION. Machine/Ops.lean: the named operations over registers, flags, waits and long-latency instructions, and taking an exception and returning
from one as one shared operation each (02 R26, R29; 03 R54, R61 to R64; 16 R378, R389, R394; 17 R400 to R404).
-/
namespace Sys2Proof.Machine

/-- The lanes of a mask in ascending order. -/
def lanesOf (m : LaneMask) : List Nat := (List.range 32).filter fun l => m.getLsbD l
/-- The mask of a list of lanes. -/
def maskOf (ls : List Nat) : LaneMask := ls.foldl (fun m l => m ||| ((1#32) <<< l)) 0

/-- Register r of a lane. -/
def Warp.reg (w : Warp) (lane r : Nat) : Word := smGet w.regs (32 * r + lane)
/-- An even/odd pair of a lane, low word in the even register (05 R105). -/
def Warp.pair (w : Warp) (lane r : Nat) : DWord := w.reg lane (r + 1) ++ w.reg lane r
/-- A predicate of a lane; pt is true (03 R54). -/
def Warp.pred (w : Warp) (lane : Nat) (p : Nat) : Bool := p == 7 || (smGet w.preds p).getLsbD lane

/-- A register written in the lanes of a mask. -/
def Warp.setReg (w : Warp) (m : LaneMask) (r : Nat) (v : Nat → Word) : Warp :=
  { w with regs := (lanesOf m).foldl (fun rs l => smSet rs (32 * r + l) (v l)) w.regs }
/-- A pair written in the lanes of a mask. -/
def Warp.setPair (w : Warp) (m : LaneMask) (r : Nat) (v : Nat → DWord) : Warp :=
  (w.setReg m r fun l => (v l).extractLsb' 0 32).setReg m (r + 1) fun l => (v l).extractLsb' 32 32
/-- A predicate written in the lanes of a mask; pt discards the result (03 R50). -/
def Warp.setPred (w : Warp) (m : LaneMask) (p : Nat) (v : Nat → Bool) : Warp :=
  if p = 7 then w
  else { w with preds := smSet w.preds p ((smGet w.preds p &&& ~~~m) ||| maskOf ((lanesOf m).filter v)) }

/-- The guard of a lane (03 R54). -/
def guardHolds (w : Warp) (g : Guard) (lane : Nat) : Bool := w.pred lane g.p.val != g.neg
/-- Active(): the lanes of the bundle whose guard is true (00 R6, 03 R54). -/
def activeLanes (f : Focus) (w : Warp) (g : Guard) : LaneMask := maskOf ((lanesOf f.lanes).filter (guardHolds w g))

/-- The focused bundle and its warp; without one, nothing happens. -/
def withFocus (s : State) (k : Focus → Warp → State) : State :=
  match s.focus with
  | none => s
  | some f =>
    match s.warp? f.core f.slot with
    | none => s
    | some w => k f w

/-- A thread of a warp. -/
def Warp.thread (w : Warp) (lane : Nat) : Thread := (w.threads[lane]?).getD { exited := true }
/-- Threads of a mask changed. -/
def Warp.mapThreads (w : Warp) (m : LaneMask) (g : Nat → Thread → Thread) : Warp :=
  { w with threads := w.threads.mapIdx fun i t => if m.getLsbD i then g i t else t }

/-- Lanes taken out of the clause that a warp is issuing, and out of its bundles; without a lane the clause is no longer issued. -/
def State.dropLanes (s : State) (core slot : Nat) (m : LaneMask) : State :=
  let cut (i : Issue) : Issue := if i.core == core && i.slot == slot then { i with lanes := i.lanes &&& ~~~m } else i
  let free (w : Warp) : Warp :=
    if w.core == core && w.slot == slot then { w with bundles := (w.bundles.map fun b => b &&& ~~~m).filter fun b => b != 0 } else w
  { s with fe := { s.fe with issues := (s.fe.issues.map cut).filter (fun i => i.lanes != 0), warps := s.fe.warps.map free } }

/-- The address after the focused instruction, and the clause it stands in: the successor clause after the last instruction (03 R60). -/
def Focus.next (f : Focus) : DWord × Option DWord :=
  let a := f.pc + 8
  if f.pc = f.hdr + BitVec.ofNat 64 (8 * f.cnt) then (a, none) else (a, some f.hdr)

/-- Address of the successor clause (03 R60). -/
def Focus.successor (f : Focus) : DWord := f.hdr + BitVec.ofNat 64 (8 * (f.cnt + 1))

/-- A change of one warp. -/
def State.updWarp (s : State) (core slot : Nat) (g : Warp → Warp) : State :=
  match s.warp? core slot with
  | some w => s.setWarp (g w)
  | none => s

/-- What a thread that issues the focused instruction again keeps of the element that it has read from a port register (03 R53). -/
def Focus.keeps (f : Focus) : Option Popped := f.popped.map fun e => { pc := f.pc, port := f.port, serial := f.serial, elem := e }

/-- The element that the focused instruction has read, given back where the instruction has no effect and traps or is issued again (03 R53, 17 R399): to
the head of its port, or, where other lanes have completed the instruction with it, to the threads that had kept it. -/
def Warp.unpop (w : Warp) (f : Focus) : Warp :=
  match f.popped, w.ports[f.port]? with
  | some e, some p =>
    if f.again then w.mapThreads f.lanes fun _ t => { t with popped := f.keeps }
    else { w with ports := w.ports.set f.port { p with queue := e :: p.queue, popped := p.popped - 1 } }
  | _, _ => w

/-- Lanes of a grid firing that cannot be served yet. -/
def State.gridWait (s : State) (m : LaneMask) : State := { s with focus := s.focus.map fun f => { f with gwait := f.gwait ||| m } }

/-- The whole bundle waits at the focused instruction, which it issues again when the wait is over. -/
def State.retry (s : State) (f : Focus) (w : Warp) (wait : Wait) : State :=
  if f.grid then s.gridWait f.lanes
  else (s.setWarp ((w.unpop f).mapThreads f.lanes fun _ t => { t with pc := f.pc, clh := some f.hdr, wait := wait })).dropLanes f.core f.slot f.lanes

/-- Some lanes of Active() stay at the focused instruction, each with its own wait, and issue it again when that is over; where others have completed it,
they keep the element that the bundle has read. -/
def State.retryEach (s : State) (f : Focus) (w : Warp) (m : LaneMask) (wait : Nat → Wait) : State :=
  if m = 0 then s
  else if f.grid then s.gridWait m
  else (s.setWarp (w.mapThreads m fun l t => { t with pc := f.pc, clh := some f.hdr, wait := wait l, popped := f.keeps })).dropLanes f.core f.slot m

/-- The whole bundle stays at the focused instruction, each lane with its own wait. -/
def State.retryAll (s : State) (f : Focus) (w : Warp) (wait : Nat → Wait) : State :=
  if f.grid then s.gridWait f.lanes
  else (s.setWarp ((w.unpop f).mapThreads f.lanes fun l t => { t with pc := f.pc, clh := some f.hdr, wait := wait l })).dropLanes f.core f.slot f.lanes

/-- Lanes wait after the focused instruction: when their wait is over they stand at the next one. -/
def State.hold (s : State) (f : Focus) (w : Warp) (m : LaneMask) (wait : Nat → Wait) : State :=
  if f.grid then s
  else (s.setWarp (w.mapThreads m fun l t => { t with pc := f.next.1, clh := f.next.2, wait := wait l })).dropLanes f.core f.slot m

/-- The bundle is in supervisor mode. -/
def Warp.supIn (w : Warp) (f : Focus) : Bool := (lanesOf f.lanes).any fun l => (w.thread l).sup

-- Taking an exception ---------------------------------------------------------------------------------------------------------------------

/-- A trap or fault to be raised: its kind, the code of `trap`, the lanes that raised it, and where the failing accesses lie. -/
structure Exc where
  kind : Nat
  code : Nat := 0
  errs : List LaneErr := []
  flags : BitVec 8 := 0
  aux : Nat := 0
  lmask : LaneMask := 0
  seq : BitVec 16 := 0
  itag : Option Nat := none
  iter : Nat := 0
  iaddr : DWord := 0
  portid : Word := 0
  deriving DecidableEq, Repr

/-- The page of a failing access, at its leaf's size (17 R404). -/
def LaneErr.pageOf (e : LaneErr) : Nat × Nat := (e.va - e.va % e.page, e.page)

/-- The failing accesses of one instruction grouped by page, ordered by lowest lane (17 R404): lanes, address and kind of the lowest. -/
def groupByPage : List LaneErr → List (LaneMask × LaneErr)
  | [] => []
  | e :: t =>
    let rest := groupByPage t
    match rest.find? fun g => g.2.pageOf == e.pageOf with
    | some g => (g.1 ||| maskOf [e.lane], e) :: rest.filter fun x => x.2.pageOf != e.pageOf
    | none => (maskOf [e.lane], e) :: rest

/-- The fault records of an exception (17 R402 to R404): one, or a header and one for each page. -/
def excRecords (x : Exc) (base : FaultRec) : List FaultRec :=
  match groupByPage x.errs with
  | [] => [base]
  | [(m, e)] => [{ base with lmask := m, va := e.va, kind := e.kind }]
  | (m, e) :: t =>
    let all := (m, e) :: t
    { base with lmask := maskOf (x.errs.map LaneErr.lane), va := e.va, kind := e.kind, gcnt := all.length, flags := base.flags ||| 1 }
      :: all.map fun g => { base with lmask := g.1, va := g.2.va, kind := g.2.kind }

/-- Failing accesses in ascending order of their lanes (17 R404). -/
def byLane (errs : List LaneErr) : List LaneErr := (List.range 32).flatMap fun l => errs.filter fun e => e.lane == l

/-- TAKING AN EXCEPTION (16 R378, R389; 17 R401), once its records are written: in supervisor mode, or with no handler, the launch is killed; otherwise
each thread of `lanes` saves its state in its trap CSRs and stands in supervisor mode at its context's TVEC, where it enters once the warp's earlier
long-latency instructions have completed (03 R64). -/
def State.enterTrap (s : State) (w : Warp) (lanes elanes : LaneMask) (epc eclh : DWord) (kind code va erec : Nat) : State :=
  let launch := ((s.wg? w.wg).map Wg.launch).getD 0
  let tvec := ((s.ctx? (s.ctxOf w)).map Ctx.tvec).getD 0
  let nested := (lanesOf lanes).filter fun l => (w.thread l).sup
  match nested with
  | l :: _ => s.killLaunch launch (((w.thread l).csr.ecause.toNat) % 2 ^ 16)
  | [] =>
    if tvec = 0 then s.killLaunch launch kind
    else
      let enter (t : Thread) : Thread :=
        { t with
          sup := true, pc := tvec, clh := none, wait := .handler, mark := none, waddrDeadline := none, waddrDone := none, laneDone := none,
          csr := { t.csr with
            estat := 0, ecause := BitVec.ofNat 32 (kind + code * 2 ^ 16), epc := epc, eclh := eclh, eva := BitVec.ofNat 64 va,
            elanes := elanes, erec := BitVec.ofNat 64 erec } }
      (s.setWarp (w.mapThreads lanes fun _ t => if t.exited then t else enter t)).dropLanes w.core w.slot lanes

/-- The records of an exception, and then the exception taken (17 R402 to R404); a trap of a thread in supervisor mode is recorded as NESTED (17 R399,
R401). -/
def State.takeTrap (s : State) (w : Warp) (lanes elanes : LaneMask) (epc eclh : DWord) (lmid : BitVec 8) (x : Exc) : State :=
  let ctx := s.ctxOf w
  let tag := ((s.launchOf w).map Launch.tag).getD 0
  let nested := (lanesOf lanes).any fun l => (w.thread l).sup
  let errs := (byLane x.errs).map fun e => if nested then { e with kind := kNested } else e
  let va := ((errs.head?).map LaneErr.va).getD 0
  let base : FaultRec :=
    { iaddr := if x.iaddr = 0 then epc else x.iaddr, va := va, lmask := if x.lmask = 0 then elanes else x.lmask,
      kind := if nested then kNested else x.kind, sub := w.sub,
      slot := w.slot, ltag := tag, aux := x.aux, lmid := lmid, die := dieOf w.core, flags := x.flags, seq := x.seq, itag := x.itag, iter := x.iter,
      portid := x.portid }
  let (erec, s1) := s.putRecords ctx (excRecords { x with errs := errs } base)
  s1.enterTrap w lanes elanes epc eclh x.kind x.code va erec

/-- A trap, fault or error response that a grid firing met, kept for the cell (17 R405, R426). -/
def State.gridFail (s : State) (kind : Nat) (errs : List LaneErr) : State :=
  { s with focus := s.focus.map fun f => { f with gtrap := some (match f.gtrap with
      | some (k, es) => (k, es ++ errs)
      | none => (kind, errs)) } }

/-- An exception at the focused instruction: every thread of the bundle takes it (16 R378), and an element that it has read is given back. -/
def State.trapHere (s : State) (f : Focus) (w : Warp) (act : LaneMask) (x : Exc) : State :=
  if f.grid then s.gridFail x.kind x.errs else s.takeTrap (w.unpop f) f.lanes act f.pc f.hdr f.lmid x

/-- RETURNING FROM AN EXCEPTION (16 R394) for one thread: the mode that ESTAT holds; at EPC's clause header if EPC is ECLH, inside the clause at ECLH
if EPC lies in it, else at the header at EPC. `cnt` is the count in the header at ECLH. -/
def Thread.trapReturn (t : Thread) (cnt : Nat) : Thread :=
  let inside := t.csr.eclh < t.csr.epc && t.csr.epc ≤ t.csr.eclh + BitVec.ofNat 64 (8 * cnt)
  { t with
    sup := t.csr.estat.getLsbD 0, pc := t.csr.epc, clh := if t.csr.epc = t.csr.eclh then none else if inside then some t.csr.eclh else none,
    wait := .none, popped := t.popped.filter fun x => x.pc == t.csr.epc }

/-- A form of group 0xD in user mode traps (16 R378). -/
def privileged (f : Focus) (w : Warp) (act : LaneMask) (s : State) (k : State) : State :=
  if w.supIn f then k else s.trapHere f w act { kind := kPrivilege }

-- Long-latency instructions -----------------------------------------------------------------------------------------------------------------

/-- The flag that an instruction counts on: X or Y by FSEL, none for 0xF (03 R58, R62). -/
def Focus.flag (f : Focus) (fsel : Bool) : Option Nat :=
  let v := if fsel then f.fy else f.fx
  if v = 15#4 then none else some v.toNat

/-- Count of a flag (03 R62). -/
def Warp.flagCount (w : Warp) (fl : Nat) : Nat := (smGet w.flags fl).toNat
def Warp.addFlag (w : Warp) (fl : Option Nat) : Warp :=
  match fl with
  | some n => { w with flags := smSet w.flags n (smGet w.flags n + 1) }
  | none => w
def Warp.subFlag (w : Warp) (fl : Option Nat) : Warp :=
  match fl with
  | some n => { w with flags := smSet w.flags n (smGet w.flags n - 1) }
  | none => w

/-- Issue of a long-latency instruction (03 R62): its flag rises by 1 and the operation stands among those outstanding. -/
def State.beginLL (s : State) (_ : Focus) (w : Warp) (op : LLOp) : State :=
  let s1 := s.setWarp (w.addFlag op.flag)
  { s1 with fe := { s1.fe with llops := op :: s1.fe.llops } }

/-- The record of a long-latency instruction of the focused bundle. -/
def llopOf (f : Focus) (w : Warp) (id : Nat) (act : LaneMask) (fsel : Bool) (dests : List Nat) : LLOp :=
  { id := id, core := f.core, slot := f.slot, wg := w.wg, lanes := act, flag := f.flag fsel, dests := dests, iaddr := f.pc,
    hdr := f.hdr, lmid := f.lmid }

/-- Register writes of a long-latency instruction applied. -/
def Warp.applyWrites (w : Warp) (ws : List RegWrite) : Warp :=
  { w with regs := ws.foldl (fun rs x => smSet rs (32 * x.reg + x.lane) x.val) w.regs }

/-- An outstanding instruction by number, and a change of it. -/
def State.llop? (s : State) (id : Nat) : Option LLOp := s.fe.llops.find? fun o => o.id == id
def State.updLL (s : State) (id : Nat) (g : LLOp → LLOp) : State :=
  { s with fe := { s.fe with llops := mapFirst (fun o => o.id == id) g s.fe.llops } }

/-- Issue of a long-latency instruction with what it will write and the engine commands that still wait (03 R62): it completes later, at a time the
manual does not state. -/
def State.llStart (s : State) (f : Focus) (w : Warp) (act : LaneMask) (fsel : Bool) (dests : List Nat) (ws : List RegWrite)
    (queue : Option (Issuer × List (Nat × EngCmd))) : State :=
  let id := s.nonce
  let s1 := { s with nonce := s.nonce + 1 }
  (s1.beginLL f w { llopOf f w id act fsel dests with writes := ws, queue := queue }).later (.longLatencyComplete id)

/-- A long-latency instruction whose result is known. -/
def State.llResult (s : State) (f : Focus) (w : Warp) (act : LaneMask) (fsel : Bool) (dests : List Nat) (ws : List RegWrite) : State :=
  if f.grid then { s with nonce := s.nonce + 1 }.setWarp (w.applyWrites ws) else s.llStart f w act fsel dests ws none

/-- The registers that the focused thread's instruction may not use yet (03 R61): outstanding instructions of the warp whose destinations meet the
spans that a word names. -/
def State.llConflicts (s : State) (core slot : Nat) (lanes : LaneMask) (spans : List (Nat × Nat)) : List Nat :=
  (s.fe.llops.filter fun o =>
    o.core == core && o.slot == slot && (o.lanes &&& lanes) != 0
      && o.dests.any fun d => spans.any fun p => decide (p.1 ≤ d ∧ d < p.1 + p.2)).map LLOp.id

end Sys2Proof.Machine
end

