-- ==== Sys2Proof/Machine/SpecialFn.lean ====
section
/-!
DEFINITION. Machine/SpecialFn.lean: the special functions 0x40 to 0x47 (05 R134, R135). Each function is evaluated in fixed point with 320 fraction
bits; frcp and fsqrt are rounded once, exactly; the others return the K4's own choice (Config.sfChoice, log entry 6, DESIGN CHOICE) where that choice lies within
the bound of R134, and otherwise the nearest value, which always does.
-/
namespace Sys2Proof

/-- The special functions in OP order (05 R134). -/
inductive SfOp where
  | rcp | rsq | sqrt | exp2 | log2 | sin | cos | tanh
  deriving DecidableEq, Repr

/-- Number of a special function, its OP minus 0x40. -/
def SfOp.index : SfOp → Nat
  | .rcp => 0 | .rsq => 1 | .sqrt => 2 | .exp2 => 3 | .log2 => 4 | .sin => 5 | .cos => 6 | .tanh => 7

/-- Fraction bits of the fixed-point values below. -/
def fixBits : Nat := 320
def fixOne : Int := 2 ^ fixBits
/-- The constant pi with 320 fraction bits. -/
def fixPi : Int := 0x3243f6a8885a308d313198a2e03707344a4093822299f31d0082efa98ec4e6c89452821e638d01377
/-- The natural logarithm of 2 with 320 fraction bits. -/
def fixLn2 : Int := 0xb17217f7d1cf79abc9e3b39803f2f6af40f343267298b62d8a0d175b8baafa2be7b876206debac98

/-- Integer square root, bit by bit from bit `k - 1` down. -/
def isqrtFrom : Nat → Nat → Nat → Nat
  | 0, _, r => r
  | k + 1, n, r => if (r + 2 ^ k) * (r + 2 ^ k) ≤ n then isqrtFrom k n (r + 2 ^ k) else isqrtFrom k n r

/-- Fixed-point product and quotient, rounded down. -/
def fixMul (a b : Int) : Int := (a * b).fdiv fixOne
def fixDiv (a b : Int) : Int := (a * fixOne).fdiv b

/-- The sum of r^k / k! for k from 0 to n. -/
def fixExp (r : Int) : Int :=
  ((List.range 80).foldl (fun (p : Int × Int) (k : Nat) =>
    let t := (fixMul p.1 r).fdiv ((k : Int) + 1)
    (t, p.2 + t)) (fixOne, fixOne)).2

/-- The alternating series of sine (odd) or cosine (even). -/
def fixSinCos (isCos : Bool) (r : Int) : Int :=
  let r2 := fixMul r r
  let first := if isCos then fixOne else r
  let base : Int := if isCos then 1 else 2
  ((List.range 64).foldl (fun (p : Int × Int) (k : Nat) =>
    let j : Int := 2 * (k : Int) + base
    let t := -((fixMul p.1 r2).fdiv (j * (j + 1)))
    (t, p.2 + t)) (first, first)).2

/-- The natural logarithm of t in [1, 2), by 2 artanh((t - 1) / (t + 1)). -/
def fixLn (t : Int) : Int :=
  let z := fixDiv (t - fixOne) (t + fixOne)
  let z2 := fixMul z z
  2 * ((List.range 110).foldl (fun (p : Int × Int) (k : Nat) =>
    let t := fixMul p.1 z2
    (t, p.2 + t.fdiv (2 * (k : Int) + 3))) (z, z)).2

/-- m * 2^e in fixed point, rounded down. -/
def toFix (neg : Bool) (m : Nat) (e : Int) : Int :=
  let k := e + fixBits
  let u : Int := match k with
    | .ofNat n => ((m <<< n : Nat) : Int)
    | .negSucc n => ((m >>> (n + 1) : Nat) : Int)
  if neg then -u else u

/-- A fixed-point value as an exact value. -/
def ofFix (x : Int) (e : Int) : FVal := .num (decide (x < 0)) x.natAbs (e - fixBits)

/-- The function's value for a non-zero finite input, to at least 2^-190 of a result's last place for rsq, exp2, log2, sin, cos and tanh; for rcp
and sqrt with a sticky last bit, so that one rounding of it is the correct rounding. tanh lies below 1 everywhere, so beyond 32 a value just below 1
stands for it (its distance from 1 is then less than 2^-90). -/
def sfExact (op : SfOp) (neg : Bool) (m : Nat) (e : Int) : FVal :=
  match op with
  | .rcp =>
    let q := 2 ^ 80 / m
    .num neg (2 * q + (if 2 ^ 80 % m = 0 then 0 else 1)) (-81 - e)
  | .sqrt =>
    let odd := e % 2 ≠ 0
    let n := (if odd then 2 * m else m) * 2 ^ 80
    let r := isqrtFrom 64 n 0
    .num false (2 * r + (if r * r = n then 0 else 1)) ((if odd then e - 1 else e) / 2 - 41)
  | .rsq =>
    let odd := e % 2 ≠ 0
    let n := 2 ^ 700 / (if odd then 2 * m else m)
    .num false (isqrtFrom 352 n 0) (-350 - (if odd then e - 1 else e) / 2)
  | .exp2 =>
    let x := toFix neg m e
    let n := x.fdiv fixOne
    let r := x - n * fixOne
    ofFix (fixExp (fixMul r fixLn2)) n
  | .log2 =>
    let l := m.log2
    let t := toFix false m (-(l : Int))
    ofFix (((l : Int) + e) * fixOne + fixDiv (fixLn t) fixLn2) 0
  | .sin | .cos =>
    let x := toFix neg m e
    let r0 := x - (x.fdiv (2 * fixPi)) * (2 * fixPi)
    let r := if r0 > fixPi then r0 - 2 * fixPi else r0
    ofFix (fixSinCos (op == .cos) r) 0
  | .tanh =>
    let x := 2 * toFix false m e
    if x > 64 * fixOne then .num neg (2 ^ 120 - 1) (-120)
    else
      let n := x.fdiv fixLn2
      let y := fixExp (x - n * fixLn2) * 2 ^ n.toNat
      (ofFix (fixDiv (y - fixOne) (y + fixOne)) 0).scale 0 |> fun v => if neg then v.neg else v

/-- The results R135 fixes for special inputs; none where the function is evaluated. -/
def sfSpecial (op : SfOp) (x : FVal) : Option Nat :=
  let pinf := fmt32.infMag
  let ninf := fmt32.signed true pinf
  let one := fmt32.bias * 2 ^ 23
  match x with
  | .nan => some fmt32.nan
  | .inf true =>
    some (match op with
      | .rcp => fmt32.signed true 0 | .exp2 => 0 | .tanh => fmt32.signed true one | _ => fmt32.nan)
  | .inf false =>
    some (match op with
      | .rcp => 0 | .rsq => 0 | .sqrt => pinf | .exp2 => pinf | .log2 => pinf | .tanh => one | _ => fmt32.nan)
  | .num neg 0 _ =>
    some (match op with
      | .rcp => if neg then ninf else pinf
      | .rsq => if neg then ninf else pinf
      | .sqrt => fmt32.signed neg 0
      | .exp2 => one
      | .log2 => ninf
      | .sin => fmt32.signed neg 0
      | .cos => one
      | .tanh => fmt32.signed neg 0)
  | .num true _ _ => if op == .rsq || op == .sqrt || op == .log2 then some fmt32.nan else none
  | .num false _ _ => none

/-- Whether an input is one of the exact cases of R134. For fexp2 these end at -149 and 127; R135 fixes the results above 128 and below -150, so at
exactly 128 and exactly -150 the result is the K4's own choice within the bound (log entry 6, DESIGN CHOICE). -/
def sfExactCase (op : SfOp) (neg : Bool) (m : Nat) (e : Int) : Bool :=
  let pow2 := m == 2 ^ m.log2
  match op with
  | .rsq => pow2 && ((m.log2 : Int) + e) % 2 == 0
  | .log2 => pow2
  | .exp2 =>
    let x := if neg then -(m : Int) else (m : Int)
    match e with
    | .ofNat n => decide (-149 ≤ x * 2 ^ n ∧ x * 2 ^ n ≤ 127)
    | .negSucc n => m % 2 ^ (n + 1) == 0 && decide (-149 ≤ x / 2 ^ (n + 1) ∧ x / 2 ^ (n + 1) ≤ 127)
  | _ => false

/-- |c - v| in units of 2^-400. -/
def farApart (c v : FVal) : Nat :=
  match c, v with
  | .num s m e, .num s' m' e' =>
    let fx (s : Bool) (m : Nat) (e : Int) : Int :=
      let u : Int := match e + 400 with
        | .ofNat n => ((m <<< n : Nat) : Int)
        | .negSucc n => ((m >>> (n + 1) : Nat) : Int)
      if s then -u else u
    (fx s m e - fx s' m' e').natAbs
  | _, _ => 0

/-- The bound of R134 at an exact value `v`, in units of 2^-400. -/
def sfBound (op : SfOp) (xm : Nat) (xe : Int) (v : FVal) : Nat :=
  match v with
  | .num _ m e =>
    let ulp := 2 ^ (fmt32.quantum m e + 400).toNat
    match op with
    | .rcp | .sqrt => 0
    | .rsq => ulp
    | .exp2 => if (m.log2 : Int) + e < -126 then 2 ^ 252 else 2 * ulp
    | .log2 =>
      let ex := (xm.log2 : Int) + xe
      if ex = -1 ∨ ex = 0 ∨ (ex = 1 ∧ xm = 2 ^ xm.log2) then 2 ^ 378 else 2 * ulp
    | .sin | .cos => 2 ^ 378
    | .tanh => 2 * ulp
  | _ => 0

/-- m * 2^e > b (R135: fexp2 above 128 and below -150). -/
def exceeds (b m : Nat) (e : Int) : Bool :=
  match e with
  | .ofNat n => decide (m <<< n > b)
  | .negSucc n => decide (m > b <<< (n + 1))

/-- A special function of a binary32 encoding (05 R134, R135). -/
def sfValue (op : SfOp) (x : Word) : Word :=
  let xv := fmt32.decode x.toNat
  match sfSpecial op xv with
  | some r => BitVec.ofNat 32 r
  | none =>
    match xv with
    | .num neg m e =>
      if op == .exp2 && ((m.log2 : Int) + e ≥ 8) then (if neg then 0 else BitVec.ofNat 32 fmt32.infMag)
      else if op == .exp2 && neg && exceeds 150 m e then 0
      else if op == .exp2 && !neg && exceeds 128 m e then BitVec.ofNat 32 fmt32.infMag
      else
        let v := sfExact op neg m e
        let near := BitVec.ofNat 32 (fmt32.round .rn false v)
        if op == .rcp || op == .sqrt || sfExactCase op neg m e then near
        else
          let c := Config.sfChoice op.index x
          match fmt32.decode c.toNat with
          | .num s cm ce => if farApart (.num s cm ce) v ≤ sfBound op m e v then c else near
          | _ => near
    | _ => 0

end Sys2Proof
end

