-- ==== Sys2Proof/Machine/Operands.lean ====
section
/-!
DEFINITION. Machine/Operands.lean: every operand form (03 R50 to R53), reading a port register (03 R53, 09 R250), and the drivers by which the
lane-wise instructions read every source before they write any destination (05 R105).
-/
namespace Sys2Proof.Machine

/-- The imm8 of B widened to the operand's type (03 R52). -/
def immWide (ty : Ty) (v : Field) : DWord :=
  match ty with
  | .s8 | .s16 | .s32 | .s64 => v.signExtend 64
  | .f32 => BitVec.ofNat 64 (fmt32.ofImm v.toNat)
  | .f16 => let h := fmt16.ofImm v.toNat
            BitVec.ofNat 64 (h + h * 2 ^ 16)
  | .bf16 => let h := fmtB16.ofImm v.toNat
             BitVec.ofNat 64 (h + h * 2 ^ 16)
  | _ => v.setWidth 64

/-- Number of a q port of a warp, among the ports of the module; grid ingress ports are numbered from 2^20 (log entry 15, DESIGN CHOICE). -/
def qPort (core slot q : Nat) : Nat := (core * 16 + slot) * 8 + q
def gridPort (core p : Nat) : Nat := 2 ^ 20 + core * 16 + p

/-- A source A of 32 bits: the popped word where A names a port register, else the register. -/
def srcA32 (f : Focus) (w : Warp) (o : Operands) (l : Nat) : Word :=
  match f.popped with
  | some e => (e.words[l]?).getD 0
  | none => w.reg l o.a.toNat
/-- A source A that is a pair. -/
def srcA64 (w : Warp) (o : Operands) (l : Nat) : DWord := w.pair l o.a.toNat
/-- B as a 32-bit value of a type (03 R51, R52); in a handler entry SB 0b11 names CONST (13 R331). -/
def srcB32As (ty : Ty) (s : State) (f : Focus) (w : Warp) (o : Operands) (l : Nat) : Word :=
  match o.b with
  | .reg r => w.reg l r.toNat
  | .imm v => (immWide ty v).setWidth 32
  | .k i => s.kreg w i.toNat
  | .const _ => f.const
def srcB32 (s : State) (f : Focus) (w : Warp) (o : Operands) (l : Nat) : Word := srcB32As o.ty s f w o l
/-- B as an unsigned 32-bit number, an imm8 zero-extended. -/
def srcBn (s : State) (f : Focus) (w : Warp) (o : Operands) (l : Nat) : Word := srcB32As .n32 s f w o l
/-- B as a 64-bit value of the form's type. -/
def srcB64 (s : State) (f : Focus) (w : Warp) (o : Operands) (l : Nat) : DWord :=
  match o.b with
  | .reg r => w.pair l r.toNat
  | .imm v => immWide o.ty v
  | .k i => s.kreg w (i.toNat + 1) ++ s.kreg w i.toNat
  | .const _ => f.const.setWidth 64
/-- C and D as 32-bit sources. -/
def srcC32 (w : Warp) (o : Operands) (l : Nat) : Word := w.reg l o.c.toNat
def srcD32 (w : Warp) (o : Operands) (l : Nat) : Word := w.reg l o.d.toNat

/-- A byte offset of a memory form: signed from a register or a k register, unsigned as an imm8 (03 R74, 08 R206). -/
def srcOffset (s : State) (f : Focus) (w : Warp) (o : Operands) (l : Nat) : Int :=
  match o.b with
  | .imm v => (v.toNat : Int)
  | _ => (srcBn s f w o l).toInt

/-- The form's type has 64 bits. -/
def is64 (o : Operands) : Bool := o.ty.bits == 64

/-- What a read of a port register comes to (09 R250): the element in the bundle's focus, with its warp and the state after the read; a wait; or an
orphan read. -/
inductive PortRead where
  | go (f : Focus) (w : Warp) (s : State)
  | wait
  | orphan
  deriving DecidableEq, Repr

/-- The state once an element has been popped from port q of a warp: the stream delivers its next element, or the next stream starts (09 R250). -/
def State.afterPop (s : State) (f : Focus) (w : Warp) (q : Nat) : State :=
  let s1 := s.setWarp w
  match w.ports[q]? with
  | some p =>
    if p.ended then (if p.queue.isEmpty && p.queued != 0 then s1.later (.streamStart (qPort f.core f.slot q)) else s1)
    else if p.bound then s1.later (.streamElementDelivery (qPort f.core f.slot q)) else s1
  | none => s1

/-- The element that the threads of the bundle read from port q when they first issued the focused instruction. -/
def Warp.heldElem (w : Warp) (f : Focus) (q : Nat) : Option Popped := (w.thread (ctzV f.lanes)).popped.filter fun x => x.pc == f.pc && x.port == q

/-- The read of a port register by a bundle (03 R53): one element popped for the whole bundle, once for each execution of the instruction however often
its lanes issue it again. -/
def State.readPort (s : State) (f : Focus) (w : Warp) (q : Nat) : PortRead :=
  match w.heldElem f q with
  | some x =>
    let w1 := w.mapThreads f.lanes fun _ t => { t with popped := none }
    .go { f with popped := some x.elem, port := q, serial := x.serial, again := true } w1 (s.setWarp w1)
  | none =>
    match w.ports[q]? with
    | none => .orphan
    | some p =>
      match p.queue with
      | e :: t =>
        let w1 := { w with ports := w.ports.set q { p with queue := t, popped := p.popped + 1 } }
        .go { f with popped := some e, port := q, serial := 8 * p.popped + q } w1 (s.afterPop f w1 q)
      | [] => if (p.bound && !p.ended) || p.queued ≠ 0 then .wait else .orphan

/-- The failing words of a popped element in the lanes of a mask (09 R250). -/
def Focus.portErrs (f : Focus) (act : LaneMask) : List LaneErr :=
  ((f.popped.map PortElem.errs).getD []).filter fun e => act.getLsbD e.lane

/-- The fault that the failing words of a popped element raise after the instruction (09 R250), in the lanes in which it has completed: not in those that
wait to issue it again, nor where it has trapped. -/
def State.portFault (s : State) (f : Focus) (errs : List LaneErr) : State :=
  match errs, s.warp? f.core f.slot with
  | e :: es, some w =>
    let done (l : Nat) : Bool := (w.thread l).popped.isNone && ((w.thread l).wait == .none || ((w.thread l).pc == f.next.1 && (w.thread l).wait != .handler))
    let late := (e :: es).filter fun x => done x.lane
    if late.isEmpty then s
    else s.trapHere { f with lanes := maskOf ((lanesOf f.lanes).filter done) } w (maskOf (late.map LaneErr.lane))
      { kind := ((late.head?).map LaneErr.kind).getD 0, errs := late }
  | _, _ => s

/-- The instruction's effect in the bundle, once its guard leaves a lane and its port register, if A names one, has an element: an instruction with no
lane in Active() reads and pops nothing (03 R54); an empty live port holds the bundle; an orphan read traps (03 R53). An element with words that got
an error response faults after the instruction, as a load does (09 R250). -/
def withSources (o : Operands) (k : Focus → Warp → LaneMask → State → State) (s : State) : State :=
  withFocus s fun f w =>
    let act := activeLanes f w o.guard
    if act = 0 then s
    else if o.qa && !f.grid then
      let q := (o.a.extractLsb' 0 3).toNat
      match s.readPort f w q with
      | .wait => s.retry f w (.port q)
      | .orphan => s.trapHere f w act { kind := kOrphanRead }
      | .go f' w' s' => (k f' w' act s').portFault f (f'.portErrs act)
    else k f w act s

/-- A form that writes one 32-bit register from each lane's own sources. -/
def lane32 (o : Operands) (v : State → Focus → Warp → Nat → Word) (s : State) : State :=
  withSources o (fun f w act s => s.setWarp (w.setReg act o.d.toNat (v s f w))) s
/-- A form that writes one pair from each lane's own sources. -/
def lane64 (o : Operands) (v : State → Focus → Warp → Nat → DWord) (s : State) : State :=
  withSources o (fun f w act s => s.setWarp (w.setPair act o.d.toNat (v s f w))) s
/-- A form that writes a predicate named by D. -/
def laneP (o : Operands) (v : State → Focus → Warp → Nat → Bool) (s : State) : State :=
  withSources o (fun f w act s => s.setWarp (w.setPred act o.d.toNat (v s f w))) s

/-- A two-source form of 32 or 64 bits by its type (05 R105). -/
def binary (o : Operands) (g : {n : Nat} → BitVec n → BitVec n → BitVec n) (s : State) : State :=
  if is64 o then lane64 o (fun s f w l => g (srcA64 w o l) (srcB64 s f w o l)) s
  else lane32 o (fun s f w l => g (srcA32 f w o l) (srcB32 s f w o l)) s
/-- A one-source form of 32 or 64 bits by its type. -/
def unary (o : Operands) (g : {n : Nat} → BitVec n → BitVec n) (s : State) : State :=
  if is64 o then lane64 o (fun _ _ w l => g (srcA64 w o l)) s
  else lane32 o (fun _ f w l => g (srcA32 f w o l)) s
/-- A shift: a of 32 or 64 bits, the count always 32 bits (05 R112). -/
def shifted (o : Operands) (g : {n : Nat} → BitVec n → Nat → BitVec n) (s : State) : State :=
  if is64 o then lane64 o (fun s f w l => g (srcA64 w o l) (srcBn s f w o l).toNat) s
  else lane32 o (fun s f w l => g (srcA32 f w o l) (srcBn s f w o l).toNat) s

/-- A format slot of the warp's launch (03 R56); none where FS names no slot of the record. -/
def State.slotOf (s : State) (w : Warp) (n : Nat) : Slot :=
  (((s.launchOf w).map Launch.slots).bind fun l => l[n]?).getD Slot.none

end Sys2Proof.Machine
end

