-- ==== Sys2Proof/Machine/Flags.lean ====
section
/-!
DEFINITION. Machine/Flags.lean: the completion flags f0 to f11 of a warp (03 R59, R62; 14 R363).
-/
namespace Sys2Proof.Machine

/-- The instruction's flag already counts 63, so that its issue waits (03 R62). -/
def flagFull (f : Focus) (w : Warp) (o : Operands) : Option Nat :=
  match f.flag o.fsel with
  | some n => if !f.grid && activeLanes f w o.guard != 0 && w.flagCount n == 63 then some n else none
  | none => none

/-- The effect of a long-latency instruction: its issue waits for a full flag, then goes on as any instruction. -/
def withLL (o : Operands) (k : Focus → Warp → LaneMask → State → State) (s : State) : State :=
  withFocus s fun f w =>
    match flagFull f w o with
    | some n => s.retry f w (.flagFull n)
    | none => withSources o k s

/-- Every flag that a mask names is clear (03 R59, R62). -/
def Warp.flagsClear (w : Warp) (mask : BitVec 12) : Bool := (List.range 12).all fun i => !mask.getLsbD i || w.flagCount i == 0

end Sys2Proof.Machine
end

