-- ==== Sys2Proof/Machine/Cache.lean ====
section
/-!
DEFINITION. Machine/Cache.lean: the fabric cache of a core, the copies that dies hold, requests to homes, and what an ordering operation waits for
(07 R166, R172, R176; 08 R227 to R231; 10 R262, R264, R266).
-/
namespace Sys2Proof.Machine

/-- A core's copy of a line of a context's virtual memory (07 R166: virtually tagged). -/
def State.fab? (s : State) (core ctx vline : Nat) : Option FabLine :=
  s.mem.fab.find? fun l => l.core == core && l.ctx == ctx && l.vline == vline
/-- A fabric-cache line replaced or added. -/
def State.setFab (s : State) (l : FabLine) : State :=
  { s with mem := { s.mem with fab := upsert (fun x => x.core == l.core && x.ctx == l.ctx && x.vline == l.vline) l s.mem.fab } }
/-- A fabric-cache line dropped. -/
def State.dropFab (s : State) (core ctx vline : Nat) : State :=
  { s with mem := { s.mem with fab := s.mem.fab.filter fun x => !(x.core == core && x.ctx == ctx && x.vline == vline) } }

/-- A request sent to a home, with its context's tenant (16 R387); it arrives at a time that the manual does not state. -/
def State.send (s : State) (r : Req) : State :=
  let i : Instr := match r.kind with
    | .read => .read r.id
    | .write => .write r.id
    | .rmw _ => .rmw r.id
    | .ldv _ | .stv _ | .reclaim _ => .versionedAccessAtHome r.id
  ({ s with mem := { s.mem with reqs := s.mem.reqs ++ [{ r with ten := (s.tenantOf r.ctx).map Tenant.id }] } }).later i

/-- A request of a number, and a change of it. -/
def State.req? (s : State) (id : Nat) : Option Req := s.mem.reqs.find? fun r => r.id == id
def State.updReq (s : State) (id : Nat) (g : Req → Req) : State :=
  { s with mem := { s.mem with reqs := mapFirst (fun r => r.id == id) g s.mem.reqs } }
def State.dropReq (s : State) (id : Nat) : State :=
  { s with mem := { s.mem with reqs := s.mem.reqs.filter fun r => r.id != id } }

/-- The write of the dirty bytes of a fabric-cache line, with what it owes to the threads that stored them. -/
def FabLine.req (l : FabLine) (id : Nat) (flush : Option Bool) : Req :=
  { id := id, kind := .write, from_ := .writeback, core := l.core, slot := ((l.writers.head?).map Writer.slot).getD 0, ctx := l.ctx, line := l.pline,
    vline := l.vline, mask := l.dirty, data := l.data, page := l.page, writers := l.writers, flush := flush }

/-- The dirty bytes of a fabric-cache line sent to their home (08 R229, R231); the line stays, clean. -/
def State.writeBack (s : State) (l : FabLine) (flush : Option Bool := none) : State :=
  if l.dirty = 0 then s
  else ({ s with nonce := s.nonce + 1 }.setFab { l with dirty := 0, writers := [] }).send (l.req s.nonce flush)

/-- The dirty bytes of a line sent home under the number of a request that is done: what waits for that request waits for them. -/
def State.writeBackAs (s : State) (l : FabLine) (id : Nat) : State :=
  if l.dirty = 0 then s else (s.setFab { l with dirty := 0, writers := [] }).send (l.req id none)

/-- Every dirty line of a context in a core's fabric cache written back. -/
def State.writeBackAll (s : State) (core ctx : Nat) : State :=
  (s.mem.fab.filter fun l => l.core == core && l.ctx == ctx && l.dirty != 0).foldl State.writeBack s

/-- The bank ranges of a placement record: base and limit of each bank (13 R334, R336). -/
def bankRanges (record : List Byte) : List (Nat × Nat) := (List.range 8).map fun k => (fieldAt record (0x60 + 16 * k) 8, fieldAt record (0x68 + 16 * k) 8)

/-- The bank binding in force in a core: that of the configuration armed most recently whose ranges are not all zero (13 R334). -/
def State.binding (s : State) (core : Nat) : List (Nat × Nat) :=
  let with_ := (s.grid.cfgs.filter fun c => c.core == core && (bankRanges c.bytes).any fun x => x.2 != 0)
  match with_.foldl (fun b c => match b with
    | none => some c
    | some x => if x.armed < c.armed then some c else b) (none : Option GCfg) with
  | some c => bankRanges c.bytes
  | none => []

/-- The bank of a virtual line: that of the range that holds it, else of the front end's 256-byte interleave (13 R334). -/
def bankIn (ranges : List (Nat × Nat)) (vline : Nat) : Nat :=
  match ranges.findIdx? fun x => decide (x.1 ≤ vline ∧ vline < x.2) with
  | some k => k
  | none => vline / 256 % 8

/-- Lines of a core that share a bank and a set with a line (08 R228). -/
def State.sameSet (s : State) (core vline : Nat) : List FabLine :=
  let ranges := s.binding core
  s.mem.fab.filter fun l =>
    l.core == core && bankIn ranges l.vline == bankIn ranges vline && Config.fabricSet l.vline % 16 == Config.fabricSet vline % 16

/-- The least recently used line of a list that no workgroup locks. -/
def leastUsed (ls : List FabLine) : Option FabLine :=
  ls.foldl (fun b l => if l.locks ≠ [] then b else match b with
    | none => some l
    | some x => if l.stamp < x.stamp then some l else b) none

/-- Room for a line in its set of 12 ways: the least recently used unlocked line goes, its dirty bytes home first (08 R228, R229). -/
def State.makeRoom (s : State) (core ctx vline : Nat) : State :=
  if (s.fab? core ctx vline).isSome || (s.sameSet core vline).length < 12 then s
  else match leastUsed (s.sameSet core vline) with
    | none => s
    | some l => (s.writeBack l).dropFab l.core l.ctx l.vline

/-- Lines that a change of binding has moved: a lock that finds 11 in its new set is dropped, and a set of more than 12 lines gives up its least
recently used unlocked one (08 R229, 13 R334). -/
def State.rebank (s old : State) (core : Nat) : State :=
  let moved := s.mem.fab.filter fun l => l.core == core && bankIn (s.binding core) l.vline != bankIn (old.binding core) l.vline
  let unlock (s : State) (l : FabLine) : State :=
    if l.locks != [] && decide (11 < ((s.sameSet core l.vline).filter fun x => x.locks != []).length) then s.setFab { l with locks := [] } else s
  let trim (s : State) (l : FabLine) : State :=
    if (s.sameSet core l.vline).length ≤ 12 then s
    else match leastUsed (s.sameSet core l.vline) with
      | none => s
      | some x => (s.writeBack x).dropFab x.core x.ctx x.vline
  moved.foldl trim (moved.foldl unlock s)

/-- Bytes of a line that the core's requests are about to write at its home. -/
def State.inFlight (s : State) (core line : Nat) : LineMask :=
  (s.mem.reqs.filter fun r => r.core == core && r.from_ != .agent && r.line == line && r.kind == .write && !r.performed).foldl (fun m r => m ||| r.mask) 0

/-- The bytes of a line that stand in no poisoned sector (17 R419). -/
def State.cleanBytes (s : State) (line : Nat) : LineMask :=
  (List.range 4).foldl (fun m i => if s.mem.poisoned.contains (line / 32 + i) then m &&& ~~~(byteMask (32 * i) 32) else m) (BitVec.allOnes 128)

/-- Bytes of a line brought into a fabric cache, but for those of a poisoned sector (17 R419); bytes that the core has written stay as they are. -/
def State.fillFab (s : State) (core ctx vline pline page : Nat) (data : LineData) : State :=
  let s1 := s.makeRoom core ctx vline
  let there := s1.cleanBytes pline
  match s1.fab? core ctx vline with
  | some l =>
    let own := l.dirty ||| (s1.inFlight core pline &&& l.valid)
    s1.setFab { l with data := mergeLine data l.data own, valid := there ||| own, stamp := s1.now }
  | none => s1.setFab { core := core, ctx := ctx, vline := vline, pline := pline, data := data, valid := there, stamp := s1.now, page := page }

/-- Whose stores a bundle's are (08 R212, 17 R426). -/
def Focus.writer (f : Focus) (lanes : LaneMask) : Writer :=
  { slot := f.slot, lanes := lanes, iaddr := f.pc, lmid := f.lmid, seq := f.seq, itag := f.itag, iter := f.iter }

/-- Faults due in lanes of a warp for stores that its core has sent home (08 R212): each failing access of each lane. -/
def State.addDue (s : State) (core : Nat) (x : Writer) (errs : List LaneErr) : State :=
  match s.warp? core x.slot with
  | none => s
  | some w =>
    let due (l : Nat) (t : Thread) : Thread :=
      { t with deferred := t.deferred ++ (errs.filter fun e => e.lane == l).map fun e =>
          { kind := e.kind, va := e.va, iaddr := x.iaddr, page := e.page, seq := x.seq, itag := x.itag, iter := x.iter, lmid := x.lmid } }
    s.setWarp (w.mapThreads (maskOf (errs.map LaneErr.lane)) due)

/-- An error response to a write-back is due in every thread that has stored into the line since the last one (08 R212). -/
def State.writersDue (s : State) (core : Nat) (ws : List Writer) (kind va page : Nat) : State :=
  ws.foldl (fun s x => s.addDue core x ((lanesOf x.lanes).map fun l => { lane := l, kind := kind, va := va, page := page })) s

/-- A store into a fabric cache (07 R166: write-back). -/
def State.storeFab (s : State) (core ctx : Nat) (w : Writer) (vline pline page : Nat) (mask : LineMask) (data : LineData) : State :=
  let s1 := s.makeRoom core ctx vline
  let l : FabLine := (s1.fab? core ctx vline).getD { core := core, ctx := ctx, vline := vline, pline := pline }
  let older := l.writers.map fun x => if x.slot = w.slot then { x with lanes := x.lanes &&& ~~~w.lanes } else x
  s1.setFab
    { l with data := mergeLine l.data data mask, valid := l.valid ||| mask, dirty := l.dirty ||| mask, stamp := s1.now,
             writers := w :: older.filter (fun x => x.lanes != 0), page := page }

/-- An acquire wider than .wg (07 R166, 08 R227): clean lines of the core go, locked ones are read again when next used. -/
def State.acquireFab (s : State) (core ctx : Nat) : State :=
  let keep (l : FabLine) : Bool := l.core != core || l.ctx != ctx || l.dirty != 0 || l.locks != []
  let clean (l : FabLine) : FabLine := if l.core == core && l.ctx == ctx then { l with valid := l.dirty } else l
  { s with mem := { s.mem with fab := (s.mem.fab.filter keep).map clean } }

/-- What was performed anywhere before now is seen by what the core does from now on: the effect of a join, of a resume, of a workgroup's start and of an
acquire from an agent that is no load (07 R169, R175, R187, R189; 12 R302). -/
def State.joinAll (s : State) (core ctx : Nat) : State := (s.acquireFab core ctx).catchUp (dieOf core)

/-- A request of the core to the line that is on its way; accesses of a core to one line keep their order (07 R172). -/
def State.onItsWay (s : State) (core line : Nat) : Bool := s.mem.reqs.any fun r => r.core == core && r.from_ != .agent && r.line == line && !r.performed

/-- What an ordering operation of a core waits for (10 R266): the core's older accesses, its own and those that it follows in its core's stage memory and
barriers (07 R176, 14 R357), not yet performed. A versioned load may wait for what comes later (07 R199), and holds its own threads alone. -/
def State.olderThan (s : State) (core _slot n : Nat) : Bool :=
  s.mem.reqs.any fun r => r.core == core && r.from_ != .agent && decide (r.id < n) && (match r.kind with
    | .ldv _ => false
    | _ => true)

/-- A workgroup's count of fabric-cache misses (14 R369): accesses at .thr or .wg that its core's fabric cache cannot answer. -/
def State.missed (s : State) (core slot : Nat) : State :=
  let count (g : Wg) : Wg := if (s.warp? core slot).any fun w => w.wg == g.id then { g with fcmiss := g.fcmiss + 1 } else g
  { s with fe := { s.fe with wgs := s.fe.wgs.map count } }

/-- A line that the constant path of a core's cluster holds (08 R215). -/
def State.const? (s : State) (core ctx vline : Nat) : Option ConstLine :=
  s.mem.consts.find? fun l => l.cluster == clusterOf core && l.ctx == ctx && l.vline == vline
/-- A line brought into the constant path of a core's cluster. It stays until an invalidate covers it or a workgroup starts or resumes on a core of the
cluster (log entry 40, DESIGN CHOICE). -/
def State.fillConst (s : State) (core ctx vline pline : Nat) (data : LineData) : State :=
  let l : ConstLine := { cluster := clusterOf core, ctx := ctx, vline := vline, pline := pline, data := data, valid := s.cleanBytes pline }
  { s with mem := { s.mem with consts := upsert (fun x => x.cluster == l.cluster && x.ctx == ctx && x.vline == vline) l s.mem.consts } }
/-- Lines of the constant paths dropped. -/
def State.dropConsts (s : State) (p : ConstLine → Bool) : State := { s with mem := { s.mem with consts := s.mem.consts.filter fun l => !p l } }

/-- Something waits for a request of a core: an ordering operation (07 R176), or an invalidate (07 R203). -/
def State.pressed (s : State) (core id : Nat) : Bool :=
  (s.fe.warps.any fun w => w.core == core && w.threads.any fun t => t.mark.any fun n => decide (id < n)) || s.iso.invs.any fun x => x.reqs.contains id
/-- A line that its core has written in its fabric cache for a request that something waits for goes home under that request's number; what an invalidate
covers goes (07 R176, R203). -/
def State.press (s : State) (core ctx vline id : Nat) : State :=
  match s.fab? core ctx vline with
  | none => s
  | some l =>
    if !s.pressed core id then s
    else
      let s1 := s.writeBackAs l id
      if s.iso.invs.any fun x => x.reqs.contains id then s1.dropFab core ctx vline else s1

/-- Outstanding acquires of a warp's lanes, which later accesses of those lanes wait for (07 R175). -/
def State.acquiring (s : State) (f : Focus) : List Nat :=
  (s.fe.llops.filter fun o => o.core == f.core && o.slot == f.slot && o.acquire.isSome && (o.lanes &&& f.lanes) != 0).map LLOp.id

/-- A release of scope wider than .wg (07 R176, 08 R227, 10 R266): dirty lines go home, and the effect comes once every older write of the core has
been performed; what it then writes is stamped after all that has been performed (07 R177). -/
def State.afterWrites (s : State) (f : Focus) (w : Warp) (k : State → Warp → State) : State :=
  let mark := (lanesOf f.lanes).findSome? fun l => (w.thread l).mark
  let clear (w : Warp) : Warp := w.mapThreads f.lanes fun _ t => { t with mark := none }
  match mark with
  | some n =>
    if s.olderThan f.core f.slot n then s.retry f w (.writes n)
    else let w' := clear w
         k ((s.catchUp (dieOf f.core)).setWarp w') w'
  | none =>
    let s1 := s.writeBackAll f.core (s.ctxOf w)
    if f.grid || !s1.olderThan f.core f.slot s1.nonce then k (s1.catchUp (dieOf f.core)) w
    else s1.retry f (w.mapThreads f.lanes fun _ t => { t with mark := some s1.nonce }) (.writes s1.nonce)

/-- An instruction that forks an agent, posts to one or has its block read at once (07 R187): later than outstanding acquires, and after every older write of the core. -/
def forked (f : Focus) (w : Warp) (s : State) (k : State → Warp → State) : State :=
  match (if f.grid then [] else s.acquiring f) with
  | i :: t => s.retry f w (.llRegs (i :: t))
  | [] => s.afterWrites f w k

/-- A fault that threads of the bundle must raise now: an error response delivered to them (08 R212), in lane order. -/
def dueFault (w : Warp) (m : LaneMask) : Option (Nat × Deferred) :=
  (lanesOf m).findSome? fun l => ((w.thread l).deferred.head?).map fun d => (l, d)

/-- The due faults of one instruction in the lanes of a mask, in lane order (08 R212, 17 R404). -/
def dueOf (w : Warp) (m : LaneMask) (d : Deferred) : List LaneErr :=
  (lanesOf m).flatMap fun l => ((w.thread l).deferred.filter d.sameInstr).map fun x => { lane := l, kind := x.kind, va := x.va, page := x.page }
/-- They are no longer due. -/
def Warp.raised (w : Warp) (m : LaneMask) (d : Deferred) : Warp := w.mapThreads m fun _ t => { t with deferred := t.deferred.filter fun x => !d.sameInstr x }
/-- The exception that due faults of one instruction raise (17 R403): the record names that instruction, and is marked as the grid's where it was placed
(17 R426). -/
def Deferred.exc (d : Deferred) (errs : List LaneErr) : Exc :=
  { kind := ((errs.head?).map LaneErr.kind).getD d.kind, errs := errs, lmask := maskOf (errs.map LaneErr.lane),
    flags := if d.trap then 0 else if d.itag.isSome then 6 else 4, seq := d.seq, itag := d.itag, iter := d.iter, iaddr := d.iaddr }

/-- The due faults of an instruction of the lanes raised together at the focused one; at an `exit` the record names the exit (14 R349). -/
def State.raiseDue (s : State) (f : Focus) (w : Warp) (m : LaneMask) (d : Deferred) (exits : Bool) : State :=
  let x := d.exc (dueOf w m d)
  if exits then s.trapHere f (w.raised m d) m { x with iaddr := 0 } else s.trapHere { f with lmid := d.lmid } (w.raised m d) m x

/-- A strong release, a fence or an exit (08 R212): the answers to the older writes are in, and a fault due in the threads is raised first. -/
def State.released (s : State) (f : Focus) (w : Warp) (act : LaneMask) (k : State → Warp → State) (exits : Bool := false) : State :=
  s.afterWrites f w fun s w => match (if f.grid then none else dueFault w act) with
    | some (_, d) => s.raiseDue f w act d exits
    | none => k s w

end Sys2Proof.Machine
end

