-- ==== Sys2Proof/Machine/EngBase.lean ====
section
/-!
DEFINITION. Machine/EngBase.lean: handles of engine operations (09 R235, R236), the faults that operations leave to be raised (R243, R254), and the end
and the parking of workgroups (02 R24, 12 R306).
-/
namespace Sys2Proof.Machine

/-- An engine operation by number, and a change of it. -/
def State.op? (s : State) (id : Nat) : Option EngOp := s.eng.ops.find? fun o => o.id == id
def State.updOp (s : State) (id : Nat) (g : EngOp → EngOp) : State :=
  { s with eng := { s.eng with ops := mapFirst (fun o => o.id == id) g s.eng.ops } }

/-- Handle h of a workgroup holds nothing (09 R236). -/
def State.freeHandle (s : State) (wg h : Nat) : State :=
  match s.wg? wg with
  | none => s
  | some g => s.setWg { g with handles := g.handles.set h { (g.handles[h]?).getD {} with op := none } }

/-- An operation removed and its handle freed. -/
def State.dropOp (s : State) (o : EngOp) : State :=
  let s1 := { s with eng := { s.eng with ops := s.eng.ops.filter fun x => x.id != o.id } }
  match o.owner with
  | .handle g h => s1.freeHandle g h
  | _ => s1

/-- The operation that an identifier names for a workgroup; none for a stale one (09 R236). -/
def State.opNamed (s : State) (wg : Nat) (a : Word) : Option EngOp :=
  if a.getLsbD 31 then none
  else match s.wg? wg with
    | none => none
    | some g =>
      match g.handles[(a.extractLsb' 0 5).toNat]? with
      | none => none
      | some h =>
        match h.op.bind s.op? with
        | some o => if o.ident == a then some o else none
        | none => none

/-- Engine threads of a workgroup that have not ended (02 R24). -/
def State.wgBusy (s : State) (id : Nat) : Bool :=
  (s.eng.ops.any fun o => match o.owner with
    | .handle g _ => g == id && o.failed.isNone
    | _ => false) || (s.fe.llops.any fun x => x.wg == id && x.queue.isSome) || (s.mx.entries.any fun e => e.wg == id) || s.mx.frames.any fun x => x.wg == id && !x.loaded

/-- A workgroup whose warps have all exited ends once its engine threads have (02 R24). -/
def State.wgTry (s : State) (id : Nat) : State :=
  match s.wg? id with
  | none => s
  | some g => if (s.fe.warps.any fun w => w.wg == id) || s.wgBusy id then s else s.wgEnd g

/-- The child that an identifier names has completed, or the identifier is stale (14 R365). -/
def State.childDone (s : State) (ctx : Nat) (ident : Word) : Bool :=
  ident.getLsbD 31 || !(s.alm.launches.any fun l =>
    l.ctx == ctx && l.tag == (ident.extractLsb' 0 13).toNat && l.gen == (ident.extractLsb' 13 18).toNat)

/-- Every thread of a warp has exited or waits for a child (12 R306). -/
def Warp.atDwait (w : Warp) : Bool :=
  (w.threads.any fun t => !t.exited) && w.threads.all fun t => t.exited || match t.wait with
    | .child _ => true
    | _ => false

/-- An engine operation of a warp that has ended in error with nothing raised yet (09 R243): the oldest. -/
def State.failedOp (s : State) (core slot wg : Nat) : Option EngOp :=
  s.eng.ops.find? fun o => o.core == core && o.slot == slot && o.failed.isSome && match o.owner with
    | .handle g _ => g == wg
    | _ => false

/-- A window stream that a warp configured and that ended in an unserviceable fault (09 R254). -/
def State.failedWin (s : State) (core slot : Nat) : Option WinUnit :=
  s.eng.wins.find? fun u => u.core == core && u.slot == slot && u.failed.isSome

/-- A stream that a warp bound and that ended in error (09 R243, R423). -/
def State.failedStrm (s : State) (core slot : Nat) : Option Strm :=
  s.eng.strms.find? fun x => x.core == core && x.slot == slot && x.failed.isSome

/-- The port of a stream in the dI form of strm.bind (09 R249). -/
def portField (port : Nat) : Nat := if port < 2 ^ 20 then port % 8 else 16 + port % 16

/-- The fault of an engine operation raised at the focused instruction, in the lanes that name it (09 R243): its handle is freed. -/
def State.raiseOp (s : State) (f : Focus) (w : Warp) (act names : LaneMask) (o : EngOp) : State :=
  let (k, va) := o.failed.getD (0, 0)
  (s.dropOp o).trapHere f w act { kind := k, errs := [{ lane := ctzV names, kind := k, va := va, page := 4096 }], flags := 8, aux := o.ident.toNat, lmask := names }

/-- The fault of a window stream raised at the focused instruction (09 R254). -/
def State.raiseWin (s : State) (f : Focus) (w : Warp) (act : LaneMask) (u : WinUnit) : State :=
  let (k, va) := u.failed.getD (0, 0)
  { s with eng := { s.eng with wins := s.eng.wins.filter fun x => x.id != u.id } }.trapHere f w act
    { kind := k, errs := [{ lane := ctzV act, kind := k, va := va, page := 4096 }], flags := 8, aux := 0x20, lmask := act }

/-- The fault of a stream raised at the focused instruction, as an operation's is (09 R243, R423). -/
def State.raiseStrm (s : State) (f : Focus) (w : Warp) (act : LaneMask) (x : Strm) : State :=
  let (k, va) := x.failed.getD (0, 0)
  { s with eng := { s.eng with strms := s.eng.strms.filter fun y => y.id != x.id } }.trapHere f w act
    { kind := k, errs := [{ lane := ctzV act, kind := k, va := va, page := 4096 }], flags := 8, aux := portField x.port, lmask := act }

/-- The ports of a warp unbound: its streams and queued commands go (09 R251). -/
def State.endPorts (s : State) (core slot : Nat) : State :=
  { s with eng := { s.eng with strms := s.eng.strms.filter fun x => !(x.port < 2 ^ 20 && x.port / 128 == core && x.port / 8 % 16 == slot) } }

/-- The streams that a workgroup bound to grid ingress ports, and its window stream, end with its last warp (09 R251, R256): queued commands of other
workgroups for those ports may start. -/
def State.endStreams (s : State) (id : Nat) : State :=
  let ports := (s.eng.gports.filter fun p => p.2.queued != 0).map Prod.fst
  ports.foldl (fun s p => s.later (.streamStart p)) { s with eng := s.eng.dropStreams id }

/-- A warp whose threads have all exited frees its slot (02 R24). -/
def State.warpGone (s : State) (core slot : Nat) : State :=
  match s.warp? core slot with
  | none => s
  | some w =>
    if w.threads.all Thread.exited then
      let s1 := s.endPorts core slot
      let s2 := { s1 with
        fe := { s1.fe with
          warps := s1.fe.warps.filter fun x => !(x.core == core && x.slot == slot),
          issues := s1.fe.issues.filter fun i => !(i.core == core && i.slot == slot) } }
      let s3 := if s2.fe.warps.any fun x => x.wg == w.wg then s2 else s2.endStreams w.wg
      (s3.wgTry w.wg).poke (dieOf core)
    else s

/-- Number under which a thread waits for a block load: above every entry's number. -/
def loadWait (cluster frame : Nat) : Nat := 2 ^ 40 + 8 * cluster + frame

/-- The engine operation has ended, or every named chunk is set (09 R242). -/
def State.chunksSet (s : State) (op : Nat) (js : List Nat) : Bool :=
  match s.op? op with
  | none => true
  | some o => o.failed.isSome || js.all fun j => decide (o.total ≤ j) || o.done.contains j

/-- The request or block load that a thread waits for has completed (06 R164). -/
def State.matrixDone (s : State) (id : Nat) : Bool :=
  !(s.mx.entries.any fun e => e.id == id) && !(s.mx.frames.any fun x => loadWait x.cluster x.frame == id && !x.loaded && !x.again)

end Sys2Proof.Machine
end

