-- ==== Sys2Proof/Machine/Integer.lean ====
section
/-!
DEFINITION. Machine/Integer.lean: integer arithmetic, group 0x0 (05 R107 to R109).
-/
namespace Sys2Proof.Machine

/-- iadd (R107). -/
def execIadd (o : Operands) (s : State) : Out := .next (binary o (fun a b => a + b) s)
/-- isub (R107). -/
def execIsub (o : Operands) (s : State) : Out := .next (binary o (fun a b => a - b) s)
/-- iadd3 (R107). -/
def execIadd3 (o : Operands) (s : State) : Out :=
  .next (lane32 o (fun s f w l => srcA32 f w o l + srcB32 s f w o l + srcC32 w o l) s)
/-- imul (R107): the low half. -/
def execImul (o : Operands) (s : State) : Out := .next (binary o (fun a b => a * b) s)
/-- imulhi (R107): the high half of the exact product. -/
def execImulhi (o : Operands) (s : State) : Out :=
  .next (lane32 o (fun s f w l => imulhiV o.ty.signed (srcA32 f w o l) (srcB32 s f w o l)) s)
/-- imad (R107). -/
def execImad (o : Operands) (s : State) : Out :=
  .next (lane32 o (fun s f w l => srcA32 f w o l * srcB32 s f w o l + srcC32 w o l) s)
/-- iabs (R107): the most negative value gives itself. -/
def execIabs (o : Operands) (s : State) : Out := .next (unary o (fun a => BitVec.ofNat _ (extend true a).natAbs) s)
/-- ineg (R107). -/
def execIneg (o : Operands) (s : State) : Out := .next (unary o (fun a => -a) s)
/-- imin (R107). -/
def execImin (o : Operands) (s : State) : Out := .next (binary o (iminmax o.ty.signed false) s)
/-- imax (R107). -/
def execImax (o : Operands) (s : State) : Out := .next (binary o (iminmax o.ty.signed true) s)
/-- isad (R107): .n8 sums four byte differences. -/
def execIsad (o : Operands) (s : State) : Out :=
  .next (lane32 o (fun s f w l =>
    if o.ty == .n8 then isad8V (srcA32 f w o l) (srcB32 s f w o l) (srcC32 w o l)
    else isadV o.ty.signed (srcA32 f w o l) (srcB32 s f w o l) (srcC32 w o l)) s)

/-- A carry-chain form (R108): result to D, carry or borrow out to the predicate named by C, which also gives the carry in. -/
def carryForm (o : Operands) (g : Word → Word → Bool → Word × Bool) (s : State) : State :=
  withSources o (fun f w act s =>
    let r (l : Nat) := g (srcA32 f w o l) (srcB32 s f w o l) (w.pred l o.c.toNat)
    s.setWarp ((w.setReg act o.d.toNat fun l => (r l).1).setPred act o.c.toNat fun l => (r l).2)) s
/-- iaddc (R108). -/
def execIaddc (o : Operands) (s : State) : Out := .next (carryForm o addCarry s)
/-- isubb (R108). -/
def execIsubb (o : Operands) (s : State) : Out := .next (carryForm o subBorrow s)

/-- lea (R109): the low word of index shifted plus base. -/
def execLea (o : Operands) (s : State) : Out :=
  .next (lane32 o (fun s f w l => (leaSum o.ty.signed (srcA32 f w o l) (srcB32 s f w o l) 0 o.c.toNat).extractLsb' 0 32) s)
/-- lea.hi (R109): the high word, with the base's low word in the odd register of A. -/
def execLeaHi (o : Operands) (s : State) : Out :=
  .next (lane32 o (fun s f w l =>
    (leaSum o.ty.signed (w.reg l o.a.toNat) (w.reg l (o.a.toNat + 1)) (srcB32 s f w o l) o.c.toNat).extractLsb' 32 32) s)

end Sys2Proof.Machine
end

