-- ==== Sys2Proof/Machine/Barriers.lean ====
section
/-!
DEFINITION. Machine/Barriers.lean: named barriers, register donation, tags, sleep and flag waits, group 0xB (14 R354 to R363).
-/
namespace Sys2Proof.Machine

/-- One arrival (R355): the barrier, and the phase that the arriving lane records. -/
def Barrier.arrive (b : Barrier) : Barrier × Nat :=
  if b.a + 1 = b.e then ({ b with a := 0, p := (b.p + 1) % 2 ^ 16 }, b.p) else ({ b with a := b.a + 1 }, b.p)

/-- Arrivals of lanes in ascending order (R355): the barrier and each lane's record. -/
def Barrier.arriveAll (b : Barrier) : List Nat → Barrier × List (Nat × Nat)
  | [] => (b, [])
  | l :: t =>
    let (b1, p) := b.arrive
    let (b2, rs) := Barrier.arriveAll b1 t
    (b2, (l, p) :: rs)

/-- Barrier `n` of a workgroup. -/
def Wg.bar (g : Wg) (n : Nat) : Barrier := (g.barriers[n]?).getD {}

/-- A thread's arrival record of a barrier written or cleared (R354). -/
def Thread.setArrival (t : Thread) (n : Nat) (p : Option Nat) : Thread :=
  { t with arrivals := (t.arrivals.filter fun r => r.1 != n) ++ (match p with
    | some x => [(n, x)]
    | none => []) }

/-- Threads of a workgroup that wait for a phase of a barrier released (R355). -/
def State.releaseBar (s : State) (wg n : Nat) (phases : List Nat) : State :=
  let free (t : Thread) : Thread := match t.wait with
    | .bar b p => if b == n && phases.contains p then { t with wait := .none } else t
    | _ => t
  { s with fe := { s.fe with warps := s.fe.warps.map fun w => if w.wg == wg then { w with threads := w.threads.map free } else w } }

/-- A barrier form in its workgroup, with the check that the barrier is initialised (R356). -/
def barForm (o : Operands) (k : Focus → Warp → LaneMask → Wg → Nat → State → State) (s : State) : State :=
  withSources o (fun f w act s =>
    let n := o.d.toNat
    match s.wg? w.wg with
    | none => s
    | some g => if (g.bar n).e = 0 then s.trapHere f w act { kind := kBarState } else k f w act g n s) s

/-- The arrivals of an instruction (R355): the barrier's new state, the records, the phases completed and their waiters released. -/
def State.doArrive (s : State) (w : Warp) (act : LaneMask) (g : Wg) (n : Nat) : State × Warp × List (Nat × Nat) × Nat :=
  let (b, recs) := (g.bar n).arriveAll (lanesOf act)
  let w1 := w.mapThreads act fun l t => t.setArrival n ((recs.find? fun r => r.1 == l).map Prod.snd)
  let s1 := (s.setWg { g with barriers := g.barriers.set n b }).setWarp w1
  let done := (recs.map Prod.snd).filter fun p => p != b.p
  let s2 := s1.releaseBar g.id n done
  (s2, (s2.warp? w.core w.slot).getD w1, recs, b.p)

/-- An arrival waits for the acquires of its bundle that are outstanding (R357; 07 R175). -/
def arriving (f : Focus) (w : Warp) (s : State) (k : State) : State :=
  match s.acquiring f with
  | i :: t => s.retry f w (.llRegs (i :: t))
  | [] => k

/-- bar.init (R356): E from the lowest lane of Active(). -/
def execBarInit (o : Operands) (s : State) : Out :=
  .next (withSources o (fun f w act s =>
    let n := o.d.toNat
    let b := (srcBn s f w o (ctzV act)).toNat
    match s.wg? w.wg with
    | none => s
    | some g =>
      if b < 1 || 512 < b then s.trapHere f w act { kind := kBarCount }
      else if (g.bar n).a ≠ 0 then s.trapHere f w act { kind := kBarState }
      else s.setWg { g with barriers := g.barriers.set n { g.bar n with e := b } }) s)

/-- bar.arrive (R356). -/
def execBarArrive (o : Operands) (s : State) : Out :=
  .next (barForm o (fun f w act g n s => arriving f w s (s.doArrive w act g n).1) s)

/-- bar.wait (R356): the phase current at issue, which is that of a record not completed; then no record stands. -/
def execBarWait (o : Operands) (s : State) : Out :=
  .next (barForm o (fun f w act g n s =>
    s.hold f (w.mapThreads act fun _ t => t.setArrival n none) act fun _ => .bar n (g.bar n).p) s)

/-- bar.sync (R356): arrives, then waits for the phase recorded unless it has completed. -/
def execBarSync (o : Operands) (s : State) : Out :=
  .next (barForm o (fun f w act g n s => arriving f w s <|
    let (s1, w1, recs, p) := s.doArrive w act g n
    let w2 := w1.mapThreads act fun _ t => t.setArrival n none
    let waiting := (recs.filter fun r => r.2 == p).map Prod.fst
    (s1.setWarp w2).hold f w2 (maskOf waiting) fun _ => .bar n p) s)

-- Register donation ---------------------------------------------------------------------------------------------------------------------------

/-- Subgroups that a mask names. -/
def subsOf (m : BitVec 16) : List Nat := (List.range 16).filter fun i => m.getLsbD i

/-- A warp is at its castle (R360). -/
def Warp.atCastle (w : Warp) : Bool := w.threads.all fun t => t.exited || t.wait == .castle

/-- The set S of a warp: what its bundles name, and itself (R359). -/
def Warp.castleSet (w : Warp) : List Nat := subsOf (w.castles.foldl (fun m c => m ||| c.partners) ((1#16) <<< w.sub))

/-- A warp of a workgroup by subgroup. -/
def State.subWarp (s : State) (wg sub : Nat) : Option Warp := s.fe.warps.find? fun w => w.wg == wg && w.sub == sub

/-- CASTLE_RANGE in every thread of a warp (R360): each at its castle, or where it stands. Threads that are in the grid drain first (17 R407) and take it
before any other instruction. -/
def State.castleFail (s : State) (wg sub : Nat) : State :=
  match s.subWarp wg sub with
  | none => s
  | some w =>
    let at_ (l : Nat) : DWord × DWord :=
      match w.castles.find? fun c => c.lanes.getLsbD l with
      | some c => (c.pc, c.clh)
      | none => ((w.thread l).pc, ((w.thread l).clh).getD (w.thread l).pc)
    let placed := maskOf ((List.range 32).filter fun l => (w.thread l).inGrid && !(w.thread l).sup && !(w.thread l).exited)
    let due : Deferred := { kind := kCastleRange, va := 0, iaddr := 0, now := true, trap := true }
    let alive := (List.range 32).filter fun l => !(w.thread l).exited && !placed.getLsbD l
    let places := (alive.map at_).eraseDups
    let s0 := s.setWarp { w.mapThreads placed fun _ t => { t with deferred := t.deferred ++ [due] } with castles := [] }
    places.foldl (fun s p =>
      match s.subWarp wg sub with
      | none => s
      | some w1 =>
        let m := maskOf (alive.filter fun l => at_ l == p)
        let acts := (w.castles.filter fun c => (c.pc, c.clh) == p).foldl (fun (x : LaneMask) c => x ||| c.lanes) 0
        let lmid := ((w.castles.find? fun c => (c.pc, c.clh) == p).map CastleReq.lmid).getD 0
        s.takeTrap w1 m (if acts = 0 then m else acts) p.1 p.2 lmid { kind := kCastleRange })
      (if placed = 0 then s0 else s0.later (.warpDrain w.core w.slot))

/-- Signed change of a warp's budget by the request of its bundles. -/
def CastleReq.change (c : CastleReq) : Int := if c.take then 8 * (c.amount : Int) else -8 * (c.amount : Int)

/-- The budget change of a warp at its castle, if its bundles agree (R360). -/
def Warp.castleChange (w : Warp) : Option (Int × BitVec 16) :=
  match w.castles with
  | [] => none
  | c :: t => if t.all fun x => x.partners == c.partners && x.take == c.take && x.amount == c.amount then some (c.change, c.partners) else none

/-- A warp's budget changed (02 R32): a recipient's new registers read zero. -/
def Warp.rebudget (w : Warp) (d : Int) : Warp :=
  let b := ((w.budget : Int) + d).toNat
  { w with
    budget := b, castles := [], regs := w.regs.filter fun x => !(decide (w.budget ≤ x.1 / 32) && decide (x.1 / 32 < b)),
    threads := w.threads.map fun t => if t.wait == .castle then { t with wait := .none } else t }

/-- Resolution of the rendezvous that a warp awaits (R360 rules 2 to 4). -/
def State.castleResolve (s : State) (wg sub : Nat) : State :=
  match s.subWarp wg sub with
  | none => s
  | some w =>
    if w.castles.isEmpty || !w.atCastle then s
    else
      let set := w.castleSet
      let ws := set.filterMap (s.subWarp wg)
      if ws.length ≠ set.length then
        -- a named warp has exited in full
        ((ws.flatMap Warp.castleSet ++ set).eraseDups).foldl (fun s x => s.castleFail wg x) s
      else if !ws.all fun x => x.atCastle && !x.castles.isEmpty then s
      else
        let changes := ws.map fun x => x.castleChange
        let agree := changes.all Option.isSome && ws.all fun x => x.castleSet == set
        let sum : Int := (changes.map fun c => (c.map Prod.fst).getD 0).foldl (· + ·) 0
        let fits := ws.all fun x =>
          let b : Int := (x.budget : Int) + ((x.castleChange.map Prod.fst).getD 0)
          decide (16 ≤ b ∧ b ≤ 256)
        if agree && sum == 0 && fits then
          ws.foldl (fun s x => s.setWarp (x.rebudget ((x.castleChange.map Prod.fst).getD 0))) s
        else ((ws.flatMap Warp.castleSet ++ set).eraseDups).foldl (fun s x => s.castleFail wg x) s

/-- Every rendezvous of a workgroup looked at again, after a castle or an exit. -/
def State.castleCheck (s : State) (wg : Nat) : State := (List.range 16).foldl (fun s x => s.castleResolve wg x) s

/-- castle (R359, R360). -/
def execCastle (o : Operands) (s : State) : Out :=
  .next (withSources o (fun f w act s =>
    let b := (srcBn s f w o (ctzV act)).extractLsb' 0 16
    let req : CastleReq := { lanes := act, partners := b, take := o.mod == 1#2, amount := o.c.toNat, pc := f.pc, clh := f.hdr, lmid := f.lmid }
    let n := ((s.wg? w.wg).map Wg.warps).getD 1
    let bad := (subsOf b).any fun x => x == w.sub || n ≤ x || (s.subWarp w.wg x).isNone
    if bad then
      let m := w.mapThreads f.lanes fun _ t => { t with pc := f.pc, clh := some f.hdr }
      (((s.setWarp { m with castles := w.castles ++ [{ req with lanes := act }] }).dropLanes f.core f.slot f.lanes).castleFail w.wg w.sub).castleCheck w.wg
    else (s.hold f { w with castles := w.castles ++ [req] } act fun _ => .castle).castleCheck w.wg) s)

-- Tags, sleep, flags ---------------------------------------------------------------------------------------------------------------------------

/-- tag.open on the front end (R361): writes 0. -/
def execTagOpen (o : Operands) (s : State) : Out := .next (lane32 o (fun _ _ _ _ => 0) s)
/-- tag.close on the front end (R361): no effect. -/
def execTagClose (o : Operands) (s : State) : Out := .next (withSources o (fun _ _ _ s => s) s)

/-- sleep (R362): lanes with a time above 0 stand until the last of their times has passed. -/
def execSleep (o : Operands) (s : State) : Out :=
  .next (withSources o (fun f w act s =>
    let b (l : Nat) : Nat := (srcBn s f w o l).toNat
    let lanes := (lanesOf act).filter fun l => b l ≠ 0
    let last := lanes.foldl (fun m l => max m (b l)) 0
    let s1 := s.hold f w (maskOf lanes) fun _ => .sleep (s.now + 2 * last)
    if f.grid then s else lanes.foldl (fun s l => s.after (2 * last) (.sleepExpiry f.core f.slot l)) s1) s)

/-- SLEEP_EXPIRY (R362). -/
def execSleepExpiry (core slot lane : Nat) (s : State) : Out :=
  .next (match s.warp? core slot with
    | none => s
    | some w =>
      match (w.thread lane).wait with
      | .sleep t => if t ≤ s.now then s.setWarp (w.mapThreads (maskOf [lane]) fun _ t => { t with wait := .none }) else s
      | _ => s)

/-- flag.wait (R363): the flags that imm8 and C name. -/
def execFlagWait (o : Operands) (s : State) : Out :=
  .next (withSources o (fun f w act s =>
    let mask : BitVec 12 := o.c.extractLsb' 0 4 ++ o.b.field
    if w.flagsClear mask then s else s.hold f w act fun _ => .flags mask) s)

end Sys2Proof.Machine
end

