-- ==== Sys2Proof/Machine/Capture.lean ====
section
/-!
DEFINITION. Machine/Capture.lean: the registers that an instruction reads and writes, what its form may be in the grid (13 R314), and the criteria of
capture that a loop's body decides (13 R312, R313).
-/
namespace Sys2Proof.Machine

-- Roles of fields ------------------------------------------------------------------------------------------------------------------------------

/-- Forms that read D: stores, tern, bfi, movi and loop. -/
def readsD (op : Nat) : Bool := [0x61, 0x63, 0x65, 0x75, 0x11, 0x18, 0x23, 0xA5].contains op
/-- Forms that do not write D where it is a register: stores. -/
def keepsD (op : Nat) : Bool := [0x61, 0x63, 0x65, 0x75].contains op
/-- Forms whose C is written and not read: cvt.blk.to, ldv, stv. -/
def writesC (op fn : Nat) : Bool := (op == 0x49 && fn == 0) || op == 0x74 || op == 0x75

/-- A register operand of an instruction: its field (0 to 3 for A, B, C, D), first register, count, whether it is read, whether written. -/
structure RegUse where
  field : Nat
  first : Nat
  count : Nat
  reads : Bool
  writes : Bool
  deriving DecidableEq, Repr

/-- The register operands of an instruction in the order A, B, C, D (R374). -/
def regUses (i : Instr) : List RegUse :=
  match i.form, i.operands, i.opcode with
  | some f, some o, some (op, fn) =>
    let use (field : Nat) (c : Cls) (v : Field) (r w : Bool) : List RegUse :=
      if c.regs o = 0 then [] else [{ field := field, first := v.toNat, count := c.regs o, reads := r, writes := w }]
    (if o.qa then [] else use 0 f.a o.a true false)
      ++ (match o.b with
          | .reg r => use 1 f.b r true false
          | _ => [])
      ++ use 2 f.c o.c (!writesC op fn) (writesC op fn)
      ++ use 3 f.d o.d (readsD op) (!keepsD op)
  | _, _, _ => []

/-- Predicates that an instruction names: its guard and its fields of class P; v2p names those its mask sets. -/
def predUses (i : Instr) : List Nat :=
  match i.form, i.operands with
  | some f, some o =>
    let use (c : Cls) (v : Field) : List Nat := if c = .p then [v.toNat] else []
    o.guard.p.val :: (use f.d o.d ++ use f.a o.a ++ (match o.b with
      | .reg r => use f.b r
      | _ => []) ++ use f.c o.c
      ++ (match i with
          | .v2p _ => (List.range 7).filter fun n => o.b.field.getLsbD n
          | _ => []))
  | _, _ => []

/-- Predicates that an instruction writes, but for v2p's. -/
def predWrites (i : Instr) : List Nat :=
  match i.form, i.operands with
  | some f, some o =>
    (if f.d = .p then [o.d.toNat] else []) ++ (match i with
      | .iaddc _ | .isubb _ => [o.c.toNat]
      | _ => [])
  | _, _ => []

/-- Registers that an instruction reads and writes. -/
def readRegs (i : Instr) : List Nat := ((regUses i).filter RegUse.reads).flatMap fun u => (List.range u.count).map (u.first + ·)
def writeRegs (i : Instr) : List Nat := ((regUses i).filter RegUse.writes).flatMap fun u => (List.range u.count).map (u.first + ·)

/-- What a form in a loop body may be in the grid (13 R314). -/
inductive Fate where
  | arith | special | constant | drain | memory | engine | fileA | steer | dropped | refuse
  deriving DecidableEq, Repr

/-- The table of 13 R314, by OP and FN, for forms that read no port; a bra is a steer where it is mapped. -/
def formFate (op fn : Nat) (o : Operands) : Fate :=
  if op = 0x28 then (if o.a.toNat = 0x0F || (0x10 ≤ o.a.toNat && o.a.toNat ≤ 0x13) then .drain else .constant)
  else if op < 0x40 then .arith
  else if op ≤ 0x47 then .special
  else if op = 0x48 then (if fn = 0 then .arith else .special)
  else if op < 0x50 then .special
  else if op < 0x60 then .arith
  else if op < 0x78 then .memory
  else if op < 0x80 then .refuse
  else if op ≤ 0x82 || op = 0x84 || op = 0x87 then .engine
  else if op < 0xA0 then .refuse
  else if op = 0xA0 || op = 0xA5 then .steer
  else if op = 0xA1 || op = 0xA3 || op = 0xA4 || op = 0xA8 || op = 0xAB then .drain
  else if op = 0xA6 || op = 0xA7 then .dropped
  else if op = 0xB5 || op = 0xB6 || op = 0xC4 then .fileA
  else .refuse

/-- The fate of a form in a loop body (13 R314). A read of a port goes to file a: a form that computes becomes a file-a handler, a memory or engine form
keeps its own effect and its place in the order of writes there, and a form that is refused stays refused. -/
def fateOf (op fn : Nat) (o : Operands) : Fate :=
  let x := formFate op fn o
  if op ≠ 0x28 && o.qa then
    match x with
    | .arith | .special | .constant | .fileA => .fileA
    | .memory | .engine => .engine
    | y => y
  else x

-- The criteria of capture (R312, R313) ------------------------------------------------------------------------------------------------------------

/-- An instruction of a loop body, with its address and that of its clause's header. -/
structure BodyWord where
  va : Nat
  hdr : Nat
  instr : Instr
  deriving DecidableEq, Repr

/-- OP of an instruction; 0 for an event. -/
def BodyWord.op (b : BodyWord) : Nat := (b.instr.opcode.map Prod.fst).getD 0
def BodyWord.fate (b : BodyWord) : Fate :=
  match b.instr.opcode, b.instr.operands with
  | some (op, fn), some o => fateOf op fn o
  | _, _ => .refuse
/-- Memory operations: memory forms and engine issues. -/
def BodyWord.isMem (b : BodyWord) : Bool := b.fate == .memory || b.fate == .engine

/-- Forms whose result R313 bars from addresses and drain points: atomics that return a value, stv, reclaim, and what R314 issues at retirement. -/
def barredForm (i : Instr) : Bool :=
  match i with
  | .atom _ _ | .atomCas _ | .atomFadd _ | .stv _ | .reclaim _ | .btCopy _ | .btGather _ | .btScatter _ | .btTest _ | .lay _ => true
  | _ => false

/-- Where a `bra` or `loop` goes; none for another form, or where a register holds the displacement. -/
def BodyWord.branchTo (b : BodyWord) (k : SMap 32) : Option Nat :=
  if b.op ≠ 0xA0 && b.op ≠ 0xA5 then none
  else match b.instr.operands with
    | some o => (match o.b with
      | .imm v => some ((b.hdr : Int) + 8 * v.toInt).toNat
      | .k i => some ((b.hdr : Int) + (smGet k i.toNat).toInt).toNat
      | _ => none)
    | none => none

/-- The levels of a body from `head` up to `hi`: its own range, and that of every loop whose head it holds; of one head, the longest. -/
def bodyLevels (k : SMap 32) (head hi : Nat) (bs : List BodyWord) : List (Nat × Nat) :=
  let stop (b : BodyWord) : Nat := ((bs.map BodyWord.hdr).filter fun h => decide (b.hdr < h)).foldl min hi
  bs.foldl (fun ls b => match b.branchTo k with
    | some t =>
      if head < t ∧ t ≤ b.hdr then upsert (fun l => l.1 == t) (t, max (stop b) (((ls.find? fun l => l.1 == t).map Prod.snd).getD 0)) ls else ls
    | none => ls) [(head, hi)]

def levelHolds (l : Nat × Nat) (a : Nat) : Bool := decide (l.1 ≤ a ∧ a < l.2)
def levelIn (a b : Nat × Nat) : Bool := decide (b.1 ≤ a.1 ∧ a.2 ≤ b.2)

/-- Shape: every inner level lies inside its enclosing body, and there are at most four. -/
def shapeOk (ls : List (Nat × Nat)) : Bool :=
  ls.all fun a => (ls.all fun b => levelIn a b || levelIn b a || decide (a.2 ≤ b.1 ∨ b.2 ≤ a.1)) && decide ((ls.filter (levelIn a)).length ≤ 4)

/-- At most 128 memory operations in each level's own body. -/
def levelMemOk (ls : List (Nat × Nat)) (bs : List BodyWord) : Bool :=
  ls.all fun l => decide ((bs.filter fun b =>
    b.isMem && levelHolds l b.va && !(ls.any fun x => x != l && levelIn x l && levelHolds x b.va)).length ≤ 128)

/-- Size: at most 2,048 handlers, and no more of a kind than its cells hold on four dies (R317, R332). -/
def sizeOk (bs : List BodyWord) : Bool :=
  let count (p : Fate → Bool) : Nat := (bs.filter fun b => p b.fate).length
  decide (count (fun x => x != .dropped) ≤ 2048)
    && decide (count (fun x => x == .special) ≤ 4 * 2 * 32)
    && decide (count (fun x => x == .engine || x == .fileA || x == .steer) ≤ 4 * 8 * 32)

/-- What an instruction reads and writes: register n as n, predicate p as 256 + p. -/
def BodyWord.writes (b : BodyWord) : List Nat := writeRegs b.instr ++ (predWrites b.instr ++ match b.instr with
  | .v2p o => (List.range 7).filter fun n => o.b.field.getLsbD n
  | _ => []).map (256 + ·)
def BodyWord.guards (b : BodyWord) : List Nat := ((b.instr.operands.map fun o => [256 + o.guard.p.val]).getD []).filter (· ≠ 263)
def BodyWord.reads (b : BodyWord) : List Nat :=
  readRegs b.instr ++ b.guards ++ match b.instr, b.instr.form, b.instr.operands with
    | .p2v _, _, _ => (List.range 7).map (256 + ·)
    | _, some f, some o =>
      let use (c : Cls) (v : Field) : List Nat := if c = .p then [256 + v.toNat] else []
      use f.a o.a ++ (match o.b with
        | .reg r => use f.b r
        | _ => []) ++ (if (predWrites b.instr).contains o.c.toNat then [] else use f.c o.c)
    | _, _, _ => []
/-- What decides a memory operation's address, guard or lanes. -/
def BodyWord.decides (b : BodyWord) : List Nat :=
  b.guards ++ ((regUses b.instr).filter fun u => u.field == 0 || (u.field == 1 && decide (0x60 ≤ b.op ∧ b.op ≤ 0x67))).flatMap fun u =>
    (List.range u.count).map (u.first + ·)

/-- Instructions of a list that read a register before an unguarded one, outside what a forward branch skips, writes it. -/
def readersOf (fixed : BodyWord → Bool) (r : Nat) : List BodyWord → List BodyWord
  | [] => []
  | b :: t => (if b.reads.contains r then [b] else []) ++ (if b.writes.contains r && fixed b then [] else readersOf fixed r t)

/-- Instructions that a value of `b` reaches within the iteration, with the register: after it, and from the heads of the inner loops that hold it. -/
def BodyWord.reaches (fixed : BodyWord → Bool) (ls : List (Nat × Nat)) (bs : List BodyWord) (b : BodyWord) : List (Nat × BodyWord) :=
  let after := bs.filter fun x => decide (b.va < x.va)
  b.writes.flatMap fun r =>
    let round (l : Nat × Nat) : List BodyWord :=
      if levelHolds l b.va && !(after.any fun x => levelHolds l x.va && x.writes.contains r && fixed x) then
        readersOf fixed r (bs.filter fun x => levelHolds l x.va)
      else []
    (readersOf fixed r after ++ ls.tail.flatMap round).map fun x => (r, x)

/-- The addresses whose lanes a branch decides: what a forward branch skips, the inner loop that a backward one repeats, and all that follows a branch
out of the body or by a register. -/
def BodyWord.steers (b : BodyWord) (k : SMap 32) (head hi : Nat) : Nat × Nat :=
  match b.branchTo k with
  | some t => if b.hdr < t ∧ t < hi then (b.va + 8, t) else if head < t ∧ t ≤ b.hdr then (t, b.va) else if t = head then (0, 0) else (b.va + 8, hi)
  | none => (b.va + 8, hi)

/-- Addresses of the instructions that depend on those listed. -/
def dependents (step : BodyWord → List BodyWord) (bs : List BodyWord) : Nat → List Nat → List Nat
  | 0, xs => xs
  | n + 1, xs =>
    let all := (xs ++ ((bs.filter fun b => xs.contains b.va).flatMap step).map BodyWord.va).eraseDups
    if all.length = xs.length then xs else dependents step bs n all

/-- A branch whose target is not the head, a clause header of the body, or the exit (R312): a drain point (R314). -/
def BodyWord.unmapped (b : BodyWord) (k : SMap 32) (head hi : Nat) (bs : List BodyWord) : Bool :=
  (b.op == 0xA0 || b.op == 0xA5) && match b.branchTo k with
    | some t => t != head && t != hi && !(bs.any fun x => x.hdr == t)
    | none => true

/-- Results within an iteration: no drain point depends on the result of a barred form, and no memory operation's address, guard or lanes do. -/
def resultsOk (k : SMap 32) (head hi : Nat) (ls : List (Nat × Nat)) (bs : List BodyWord) : Bool :=
  let branch (b : BodyWord) : Bool := b.op == 0xA0 || b.op == 0xA5
  let skips := (bs.filter branch).map fun b => b.steers k head hi
  let fixed (b : BodyWord) : Bool := b.guards.isEmpty && !(skips.any fun x => levelHolds x b.va && decide (b.va < x.2))
  let steered (b : BodyWord) : List BodyWord := if branch b then bs.filter fun x => levelHolds (b.steers k head hi) x.va else []
  let next (b : BodyWord) : List BodyWord := (b.reaches fixed ls bs).map Prod.snd ++ steered b
  let barred := bs.filter fun b => barredForm b.instr
  let tainted := (dependents next bs bs.length ((barred.flatMap fun b => (b.reaches fixed ls bs).map fun x => x.2.va).eraseDups))
  let later := bs.filter fun b => tainted.contains b.va
  !(later.any fun b => b.fate == .drain || b.unmapped k head hi bs || (steered b).any BodyWord.isMem)
    && !((barred ++ later).any fun b => (b.reaches fixed ls bs).any fun x => x.2.isMem && x.2.decides.contains x.1)

/-- The criteria of R313 that a body decides: its shape, forms, size, memory operations, and results within an iteration. -/
def bodyPlaceable (k : SMap 32) (head hi : Nat) (bs : List BodyWord) : Bool :=
  let ls := bodyLevels k head hi bs
  shapeOk ls && bs.all (fun b => b.fate != .refuse) && sizeOk bs && levelMemOk ls bs && resultsOk k head hi ls bs

end Sys2Proof.Machine
end

