-- ==== Sys2Proof/Machine/Loops.lean ====
section
/-!
DEFINITION. Machine/Loops.lean: fetching instruction words, and the loop monitor with the criteria of capture that it checks (02 R45; 03 R78;
13 R312 to R315).
-/
namespace Sys2Proof.Machine

/-- The instruction word at an address, through the context's translation (03 R78, 16 R385); a failure is its kind. After a store that is not one atomic store
of 128 bytes R78 allows any mix of old and new words: the fetch gives the bytes that stand at their homes at that moment (log entry 24, DESIGN CHOICE). -/
def State.fetchWord (s : State) (core ctx : Nat) (sup : Bool) (va : Nat) : Except Nat DWord :=
  match s.translate core ctx sup .fetch va with
  | .error k => .error k
  | .ok x =>
    match s.agentReadError (Who.core ctx 0 core) (lineOf x.pa) (byteMask (x.pa % 128) 8) with
    | some k => .error k
    | none => .ok (BitVec.ofNat 64 (leNat s.byteNow x.pa 8))

/-- The instructions of the clauses from an address up to another; none where a word cannot be fetched or is no instruction of user mode (R313). -/
def State.bodyWords (s : State) (core ctx : Nat) (hi : Nat) : Nat → Nat → Nat → Option (List BodyWord)
  | 0, _, va => if hi ≤ va then some [] else none
  | fuel + 1, hdr, va =>
    if hi ≤ va then some []
    else match s.fetchWord core ctx false va with
      | .error _ => none
      | .ok w =>
        if wordOp w = 0xFF then State.bodyWords s core ctx hi fuel va (va + 8)
        else match decodeWord { user := true } w with
          | .ok i => (State.bodyWords s core ctx hi fuel hdr (va + 8)).map fun t => { va := va, hdr := hdr, instr := i } :: t
          | .error _ => none
/-- Offsets from a loop's head of the clause headers up to its exit (R312). -/
def State.clauseHeads (s : State) (core ctx head hi : Nat) : Nat → Nat → List Nat
  | 0, _ => []
  | fuel + 1, va =>
    if hi ≤ va then []
    else match s.fetchWord core ctx false va with
      | .error _ => []
      | .ok w => match decodeHeader (BitVec.ofNat 64 va) w with
        | .ok h => (va - head) :: State.clauseHeads s core ctx head hi fuel (va + 8 * (h.cnt.toNat + 1))
        | .error _ => []

/-- The leaf pages that addresses of a context lie on (02 R48): base and size, up to a number of them; 4 KiB where none is mapped. -/
def State.leafPages (s : State) (core ctx hi : Nat) : Nat → Nat → List (Nat × Nat)
  | 0, _ => []
  | n + 1, va =>
    if hi ≤ va then []
    else
      let size := s.pageSize core ctx va
      (va - va % size, size) :: State.leafPages s core ctx hi n (va - va % size + size)
/-- A kernel's code pages for a loop: from the lower of its entry and the loop's head to the loop's exit (log entry 33, DESIGN CHOICE for where a
kernel's code ends). -/
def State.codePages (s : State) (core ctx entry head stop : Nat) : List (Nat × Nat) := s.leafPages core ctx stop 1024 (min entry head)

/-- A placement-cache entry of a context for a head (02 R45). -/
def State.placeRec (s : State) (ctx : Nat) (head : DWord) : Option PlaceRec := s.grid.recs.find? fun r => r.ctx == ctx && r.head == head
def State.setPlaceRec (s : State) (r : PlaceRec) : State :=
  { s with grid := { s.grid with recs := upsert (fun x => x.ctx == r.ctx && x.head == r.head) r s.grid.recs } }

/-- A loop refused for one workgroup, with its status (02 R45): 0 for a criterion of R313, else a code of R337. -/
def State.refuseFor (s : State) (wg : Nat) (head : DWord) (status : Nat) : State :=
  match s.wg? wg with
  | some g => s.setWg { g with refused := upsert (fun r => r.1 == head) (head, status) g.refused }
  | none => s

/-- A loop is in PLACE for a workgroup (02 R45). -/
def State.inPlace (s : State) (wg : Nat) (head : DWord) : Bool := s.grid.placing.any fun p => p.wg == wg && p.head == head

/-- A count reached 64 (13 R313, R315): the criteria are checked, and the loop goes to PLACE or REFUSED. The placer's record comes with
PLACEMENT_RECORD_READY; without one it declines (R316; log entry 8, DESIGN CHOICE). -/
def State.requestPlacement (s : State) (f : Focus) (w : Warp) (head : DWord) (hi : Nat) : State :=
  let ctx := s.ctxOf w
  let entry := ((s.launchOf w).map Launch.entry).getD 0
  if s.fe.warps.any fun x => x.wg == w.wg && x.capd then s.refuseFor w.wg head 0
  else if (s.bodyWords f.core ctx hi (hi - head.toNat) head.toNat head.toNat).any (bodyPlaceable (((s.launchOf w).map Launch.k).getD []) head.toNat hi) then
    if s.inPlace w.wg head then s
    else
      let l := s.launchOf w
      let p : GPlacing := { wg := w.wg, head := head, ctx := ctx, entry := entry, k := (l.map Launch.k).getD [], tagh := (l.map Launch.tagh).getD [] }
      ({ s with grid := { s.grid with placing := p :: s.grid.placing } }).after 40000 (.placerDecline w.wg head)
  else s.setPlaceRec { ctx := ctx, head := head, pages := s.codePages f.core ctx entry.toNat head.toNat hi, entry := entry, status := some 0 }

/-- One taken back edge counted (13 R315): 16 entries of a core, the least recently incremented replaced. -/
def State.countEdge (s : State) (f : Focus) (w : Warp) (head : DWord) : State :=
  let known := (s.placeRec (s.ctxOf w) head).isSome || (((s.wg? w.wg).map fun g => g.refused.any fun r => r.1 == head).getD false)
    || s.inPlace w.wg head
  if w.capd || known || f.grid then s
  else
    let mine := s.fe.monitors.filter fun m => m.core == f.core
    let old := mine.find? fun m => m.head == head
    let e : MonEntry := old.getD { core := f.core, head := head }
    let n := ((e.counts.find? fun c => c.1 == f.slot).map Prod.snd).getD 0 + 1
    let others := s.fe.monitors.filter fun m => !(m.core == f.core && m.head == head)
    if n ≥ 64 then
      ({ s with fe := { s.fe with monitors := others } }).requestPlacement f w head (f.hdr.toNat + 8 * (f.cnt + 1))
    else
      let least := (mine.map MonEntry.stamp).foldl min s.nonce
      let kept := if old.isNone && mine.length ≥ 16 then others.filter fun m => !(m.core == f.core && m.stamp == least) else others
      let e' : MonEntry := { e with counts := upsert (fun c => c.1 == f.slot) (f.slot, n) e.counts, stamp := s.nonce }
      { s with fe := { s.fe with monitors := e' :: kept }, nonce := s.nonce + 1 }

end Sys2Proof.Machine
end

