-- ==== Sys2Proof/Machine/Control.lean ====
section
/-!
DEFINITION. Machine/Control.lean: control flow, group 0xA (14 R347 to R352).
-/
namespace Sys2Proof.Machine

/-- A displacement (03 R76): an imm8 counts signed 8-byte words, a register or k register signed bytes. -/
def displacement (s : State) (f : Focus) (w : Warp) (o : Operands) (l : Nat) : DWord :=
  match o.b with
  | .imm v => BitVec.ofInt 64 (8 * v.toInt)
  | _ => (srcBn s f w o l).signExtend 64

/-- Lanes of a mask sent to their targets (R347): a target above 56 bits faults, precise, at the transfer; any other target is met at its fetch. -/
def State.transfer (s : State) (f : Focus) (w : Warp) (act m : LaneMask) (target : Nat → DWord) : State :=
  let bad := (lanesOf m).filter fun l => (target l).extractLsb' 56 8 != 0
  if bad = [] then s.setWarp (w.mapThreads m fun l t => { t with pc := target l, clh := none })
  else s.trapHere f w act
    { kind := kVaRange, errs := bad.map fun l => { lane := l, kind := kVaRange, va := (target l).toNat, page := 4096 } }

/-- Taken backward branches reported to the loop monitor (13 R312, R315): one for the bundle at each target. -/
def State.monitor (s : State) (f : Focus) (act : LaneMask) (target : Nat → DWord) : State :=
  let heads := (((lanesOf act).map target).filter fun t => t ≤ f.hdr).eraseDups
  heads.foldl (fun s h => match s.warp? f.core f.slot with
    | some w => s.countEdge f w h
    | none => s) s

/-- bra (R347). -/
def execBra (o : Operands) (s : State) : Out :=
  .next (withSources o (fun f w act s =>
    let t (l : Nat) : DWord := f.hdr + displacement s f w o l
    if (lanesOf act).any fun l => (t l).extractLsb' 56 8 != 0 then s.transfer f w act act t
    else (s.transfer f w act act t).monitor f act t) s)
/-- brx (R347). -/
def execBrx (o : Operands) (s : State) : Out :=
  .next (withSources o (fun f w act s => s.transfer f w act act fun l => srcA64 w o l) s)

/-- A call (R347): the return address is the successor clause's; the target is read before it is written, and a faulting target leaves it
unwritten. -/
def callTo (o : Operands) (target : State → Focus → Warp → Nat → DWord) (s : State) : State :=
  withSources o (fun f w act s =>
    let t := target s f w
    if (lanesOf act).any fun l => (t l).extractLsb' 56 8 != 0 then s.transfer f w act act t
    else s.transfer f (w.setPair act o.d.toNat fun _ => f.successor) act act t) s
/-- jcall (R347). -/
def execJcall (o : Operands) (s : State) : Out := .next (callTo o (fun s f w l => f.hdr + displacement s f w o l) s)
/-- jcall.ind (R347). -/
def execJcallInd (o : Operands) (s : State) : Out := .next (callTo o (fun _ _ w l => srcA64 w o l) s)
/-- ret (R347): behaves as brx. -/
def execRet (o : Operands) (s : State) : Out :=
  .next (withSources o (fun f w act s => s.transfer f w act act fun l => srcA64 w o l) s)

/-- loop (R348). -/
def execLoop (o : Operands) (s : State) : Out :=
  .next (withSources o (fun f w act s =>
    let d (l : Nat) : Word := srcD32 w o l - 1
    let t (l : Nat) : DWord := f.hdr + displacement s f w o l
    let taken := maskOf ((lanesOf act).filter fun l => d l != 0)
    if (lanesOf taken).any fun l => (t l).extractLsb' 56 8 != 0 then s.transfer f w act taken t
    else (s.transfer f (w.setReg act o.d.toNat d) act taken t).monitor f taken t) s)

/-- The lanes of a bundle end (02 R24). -/
def State.endLanes (s : State) (f : Focus) (w : Warp) (act : LaneMask) : State :=
  let s1 := (s.setWarp (w.mapThreads act fun _ t => { t with exited := true, wait := .none, clh := none })).dropLanes f.core f.slot act
  (s1.warpGone f.core f.slot).castleCheck w.wg

/-- exit (R349): a due fault is raised, the thread's dirty lines are written back, and then each lane ends. -/
def execExit (o : Operands) (s : State) : Out :=
  .next (withSources o (fun f w act s =>
    s.released f w act (fun s w =>
      match s.failedOp f.core f.slot w.wg with
      | some op => s.raiseOp f w act act op
      | none =>
        match s.failedWin f.core f.slot with
        | some u => s.raiseWin f w act u
        | none =>
          match s.failedStrm f.core f.slot with
          | some x => s.raiseStrm f w act x
          | none => s.endLanes f w act) true) s)

/-- yield (R350): the effect of YLD for the next issue after its clause. -/
def execYield (o : Operands) (s : State) : Out := .next (withSources o (fun _ w _ s => s.setWarp { w with yielded := true }) s)
/-- nop (R350). -/
def execNop (_ : Operands) (s : State) : Out := .next s
/-- trap (R351). -/
def execTrap (o : Operands) (s : State) : Out :=
  .next (withSources o (fun f w act s => s.trapHere f w act { kind := kTrap, code := o.b.field.toNat, aux := o.b.field.toNat }) s)
/-- cap.off (R352). -/
def execCapOff (o : Operands) (s : State) : Out := .next (withSources o (fun _ w _ s => s.setWarp { w with capd := true }) s)
/-- cap.on (R352). -/
def execCapOn (o : Operands) (s : State) : Out := .next (withSources o (fun _ w _ s => s.setWarp { w with capd := false }) s)
/-- brk (R351). -/
def execBrk (o : Operands) (s : State) : Out :=
  .next (withSources o (fun f w act s => s.trapHere f w act { kind := kBreakpoint }) s)

end Sys2Proof.Machine
end

