-- ==== Sys2Proof/Machine/Select.lean ====
section
/-!
DEFINITION. Machine/Select.lean: compare, select, move, predicate and special reads, group 0x2 (05 R117 to R127).
-/
namespace Sys2Proof.Machine

/-- icmp (R117). -/
def execIcmp (op : CmpOp) (o : Operands) (s : State) : Out :=
  .next (laneP o (fun s f w l =>
    if is64 o then icmpTrue op o.ty.signed (srcA64 w o l) (srcB64 s f w o l)
    else icmpTrue op o.ty.signed (srcA32 f w o l) (srcB32 s f w o l)) s)

/-- sel (R118). -/
def execSel (o : Operands) (s : State) : Out :=
  .next (if is64 o then lane64 o (fun s f w l => if w.pred l o.c.toNat then srcA64 w o l else srcB64 s f w o l) s
    else lane32 o (fun s f w l => if w.pred l o.c.toNat then srcA32 f w o l else srcB32 s f w o l) s)

/-- mov (R119): A may name a port register. -/
def execMov (o : Operands) (s : State) : Out := .next (unary o (fun a => a) s)

/-- movi (R120): byte C of D. -/
def execMovi (o : Operands) (s : State) : Out :=
  .next (lane32 o (fun _ _ w l => moviV (srcD32 w o l) o.b.field o.c.toNat) s)

/-- movk (R121): a named constant register, or one chosen by each lane's register. -/
def execMovk (o : Operands) (s : State) : Out :=
  .next (lane32 o (fun s f w l =>
    match o.b with
    | .reg r => s.kreg w ((w.reg l r.toNat).toNat % 64)
    | .k i => s.kreg w i.toNat
    | _ => srcB32 s f w o l) s)

/-- psetp (R122). -/
def execPsetp (op : PsetOp) (o : Operands) (s : State) : Out :=
  .next (laneP o (fun _ _ w l =>
    let a := w.pred l o.a.toNat
    let b := w.pred l o.b.field.toNat
    match op with
    | .and => a && b
    | .or => a || b
    | .xor => a != b
    | .andn => a && !b) s)

/-- p2v (R123). -/
def execP2v (o : Operands) (s : State) : Out :=
  .next (lane32 o (fun _ _ w l => bitsOf 32 fun i => decide (i < 7) && w.pred l i) s)

/-- v2p (R123): the predicates whose mask bit is set. -/
def execV2p (o : Operands) (s : State) : Out :=
  .next (withSources o (fun f w act s =>
    s.setWarp ((List.range 7).foldl (fun w' i =>
      if o.b.field.getLsbD i then w'.setPred act i (fun l => (srcA32 f w o l).getLsbD i) else w') w)) s)

/-- Address of a thread's private area; 0 without one (02 R40, 05 R124). -/
def State.privBase (s : State) (w : Warp) (l : Nat) : DWord :=
  match s.wg? w.wg, s.launchOf w with
  | some g, some la =>
    if la.privs = 0 then 0
    else BitVec.ofNat 64 (la.privb.toNat + (512 * g.privIdx + 32 * w.sub + l) * la.privs * 16)
  | _, _ => 0

/-- The bits of every lane below, or above, a lane (R124). -/
def lanesUnder (l : Nat) : LaneMask := bitsOf 32 fun i => decide (i < l)
def lanesOver (l : Nat) : LaneMask := bitsOf 32 fun i => decide (l < i)

/-- The special values (R124). -/
def specialValue (s : State) (f : Focus) (w : Warp) (idx l : Nat) : DWord :=
  let n (x : Nat) : DWord := BitVec.ofNat 64 x
  let g := s.wg? w.wg
  let la := s.launchOf w
  let one : LaneMask := maskOf [l]
  match idx with
  | 0x00 => n l
  | 0x01 => n w.sub
  | 0x02 => n ((g.map Wg.warps).getD 1)
  | 0x03 => n ((g.map Wg.x).getD 0)
  | 0x04 => n ((g.map Wg.y).getD 0)
  | 0x05 => n ((g.map Wg.z).getD 0)
  | 0x06 => n ((la.map Launch.gx).getD 1)
  | 0x07 => n ((la.map Launch.gy).getD 1)
  | 0x08 => n ((la.map Launch.gz).getD 1)
  | 0x09 => n ((g.map Wg.clrank).getD 0)
  | 0x0A => n ((g.map Wg.clsize).getD 1)
  | 0x0B => n w.budget
  | 0x0C => n ((g.map Wg.privIdx).getD 0)
  | 0x0D => n ((la.map Launch.tag).getD 0)
  | 0x0E => n (s.ctxOf w)
  | 0x0F => n w.slot
  | 0x10 => n w.core
  | 0x11 => n (clusterOf w.core)
  | 0x12 => n (dieOf w.core)
  | 0x13 => f.lanes.setWidth 64
  | 0x14 => (lanesUnder l).setWidth 64
  | 0x15 => (lanesUnder l ||| one).setWidth 64
  | 0x16 => (lanesOver l).setWidth 64
  | 0x17 => (lanesOver l ||| one).setWidth 64
  | 0x20 => (la.map Launch.compl).getD 0
  | 0x21 => (la.map Launch.rcb).getD 0
  | 0x22 => s.privBase w l
  | _ => 0

/-- srd (R124): a 64-bit value read with .b32 gives its low word. -/
def execSrd (o : Operands) (s : State) : Out :=
  .next (if is64 o then lane64 o (fun s f w l => specialValue s f w o.a.toNat l) s
    else lane32 o (fun s f w l => (specialValue s f w o.a.toNat l).setWidth 32) s)

/-- A source of the width of a type, in one register or a pair. -/
def srcWide (t : Ty) (f : Focus) (w : Warp) (o : Operands) (l : Nat) : DWord :=
  if t.bits = 64 then srcA64 w o l else (srcA32 f w o l).setWidth 64

/-- A result of the form's type, in one register or a pair. -/
def laneWide (o : Operands) (v : State → Focus → Warp → Nat → DWord) (s : State) : State :=
  if is64 o then lane64 o v s else lane32 o (fun s f w l => (v s f w l).setWidth 32) s

/-- cvti (R126): MOD 00 wraps, 01 saturates. -/
def execCvti (o : Operands) (s : State) : Out :=
  .next (laneWide o (fun _ f w l =>
    let src := (o.srcTy).getD .n32
    cvtiV o.ty src (o.mod == 1) (srcWide src f w o l)) s)

/-- pack (R127): .b16 two halves into a register, .b32 two words into a pair. -/
def execPack (o : Operands) (s : State) : Out :=
  .next (if o.ty.bits = 32 then lane64 o (fun s f w l => srcB32 s f w o l ++ srcA32 f w o l) s
    else lane32 o (fun s f w l => ((srcB32 s f w o l).setWidth 16 ++ (srcA32 f w o l).setWidth 16 : BitVec 32)) s)

/-- unpack (R127): zero- or sign-extended halves into a pair. -/
def execUnpack (o : Operands) (s : State) : Out :=
  .next (lane64 o (fun _ f w l =>
    let a := srcA32 f w o l
    let half (i : Nat) : Word := if o.ty.signed then (a.extractLsb' i 16).signExtend 32 else (a.extractLsb' i 16).setWidth 32
    half 16 ++ half 0) s)

end Sys2Proof.Machine
end

