-- ==== Sys2Proof/Machine/MemBase.lean ====
section
/-!
DEFINITION. Machine/MemBase.lean: addresses of the memory forms and their checks, the pieces of an instruction, stage memory, and read-modify-writes
(07 R182 to R185; 08 R206 to R212, R217 to R219).
-/
namespace Sys2Proof.Machine

/-- A lane's address: where it is, the operand trap it raises, or the translation fault it meets. -/
inductive LaneAddr where
  | at_ (a : Nat)
  | trap (kind : Nat)
  | fault (kind va : Nat)
  deriving DecidableEq, Repr

/-- A global address with its offset (R206); `size` is the element size, checked for alignment (R209) where it is not 0. -/
def globalAddr (a : DWord) (off : Int) (size : Nat) : LaneAddr :=
  let va := (a + BitVec.ofInt 64 off).toNat
  if size ≠ 0 && va % size ≠ 0 then .trap kMisalign else if va ≥ 2 ^ 56 then .fault kVaRange va else .at_ va

/-- A private address (R208): `bytes` in all from an unsigned register and an offset. -/
def State.privAddr (s : State) (w : Warp) (l : Nat) (a : Word) (off : Int) (size bytes : Nat) : LaneAddr :=
  let area : Nat := ((s.launchOf w).map fun x => x.privs * 16).getD 0
  let o : Int := (a.toNat : Int) + off
  if o % (size : Int) ≠ 0 then .trap kMisalign
  else if o < 0 || o + (bytes : Int) > (area : Int) then .trap kPrivRange
  else .at_ ((s.privBase w l).toNat + o.toNat)

/-- The member of a workgroup's cluster group with a rank (02 R42). -/
def State.member (s : State) (g : Wg) (rank : Nat) : Option Wg :=
  match g.group with
  | none => none
  | some n => s.fe.wgs.find? fun x => x.launch == g.launch && x.group == some n && x.clrank == rank

/-- The same member, running or without a core (12 R306, 17 R412). -/
def State.memberAny (s : State) (g : Wg) (rank : Nat) : Option Wg :=
  (s.member g rank).or (if g.group.isNone then none
    else ((s.saved.parked.map Parked.wg).find? fun x => x.launch == g.launch && x.group == g.group && x.clrank == rank))

/-- A stage address (R207): the workgroup that it names and the offset there. -/
def State.stageAddr (s : State) (g : Wg) (a : Word) (off : Int) (size bytes : Nat) (peerOk : Bool) : Except Nat (Nat × Nat) :=
  let sum : Int := ((a.extractLsb' 0 18).toNat : Int) + off
  let mem := (a.extractLsb' 18 2).toNat
  let peer := a.getLsbD 20
  let target := if peer then s.member g mem else some g
  if size ≠ 0 && sum % (size : Int) ≠ 0 then .error kMisalign
  else if a.extractLsb' 21 11 != 0 || (!peer && mem ≠ 0) || (peer && (!peerOk || g.clsize ≤ mem)) then .error kStageRange
  else match target with
    | none => .error kStageRange
    | some t => if sum < 0 || sum + (bytes : Int) > ((t.stageKiB * 1024 : Nat) : Int) then .error kStageRange else .ok (t.id, sum.toNat)

/-- A byte of a workgroup's stage memory (log entry 5, DESIGN CHOICE for a byte that nothing has written). -/
def Wg.stageByte (g : Wg) (off : Nat) : Byte := (pmGet g.stage off).getD (Config.freeByte g.serial off)
/-- A little-endian number in stage memory. -/
def State.stageRead (s : State) (wg off n : Nat) : Nat :=
  match s.wg? wg with
  | some g => leNat g.stageByte off n
  | none => 0
/-- Bytes of stage memory. -/
def State.stageBytes (s : State) (wg off n : Nat) : List Byte :=
  match s.wg? wg with
  | some g => (List.range n).map fun i => g.stageByte (off + i)
  | none => []
/-- Lanes asleep in waddr on words of a workgroup that match now (08 R232). -/
def State.matches (s : State) (wg : Nat) : List (Nat × Nat × Nat) :=
  (s.fe.warps.filter fun w => w.wg == wg).flatMap fun w => (List.range 32).filterMap fun l => match (w.thread l).wait with
    | .word _ off ne b => if (BitVec.ofNat 32 (s.stageRead wg off 4) == b) != ne then some (w.core, w.slot, l) else none
    | _ => none
/-- Bytes placed in stage memory. -/
def State.stagePut (s : State) (wg off : Nat) (bs : List Byte) : State :=
  match s.wg? wg with
  | some g => s.setWg { g with stage := (bs.zipIdx).foldl (fun m x => pmSet m (off + x.2) x.1) g.stage }
  | none => s
/-- The waddr lanes of a workgroup tested after a write of its stage memory (08 R232). -/
def State.noteMatches (s : State) (wg : Nat) : State := { s with fe := { s.fe with matched := s.fe.matched ++ s.matches wg } }
/-- Bytes written in stage memory; waddr tests its words after each write (08 R232). -/
def State.stageWrite (s : State) (wg off : Nat) (bs : List Byte) : State := (s.stagePut wg off bs).noteMatches wg

/-- The operand traps of an instruction's lanes (17 R400): the kind of the lowest-numbered lane that raises one, and the lanes that raise it. -/
def operandTrap (xs : List (Nat × LaneAddr)) : Option (Nat × LaneMask) :=
  match xs.findSome? fun x => match x.2 with
    | .trap k => some k
    | _ => none with
  | none => none
  | some k => some (k, maskOf ((xs.filter fun x => x.2 == .trap k).map Prod.fst))

/-- Elements of a group at ascending addresses (R210), with their destination registers. -/
def groupAccs (o : Operands) (lane va n size : Nat) (signed : Bool) : List Acc :=
  (List.range n).map fun e =>
    { lane := lane, off := (va + e * size) % 128, size := size, va := va + e * size, signed := signed,
      reg := o.d.toNat + (if size = 8 then 2 * e else e) }

/-- The bytes of one line that an instruction names (07 R184). -/
structure Piece where
  line : Nat
  vline : Nat
  page : Nat
  accs : List Acc
  deriving DecidableEq, Repr

/-- Bytes that a piece names. -/
def Piece.mask (p : Piece) : LineMask := p.accs.foldl (fun m a => m ||| byteMask a.off a.size) 0

/-- An access joined to the piece of its line, before the accesses of higher lanes. -/
def addAcc (line vline page : Nat) (a : Acc) : List Piece → List Piece
  | [] => [{ line := line, vline := vline, page := page, accs := [a] }]
  | p :: t => if p.line == line && p.vline == vline then { p with accs := a :: p.accs } :: t else p :: addAcc line vline page a t

/-- Every access translated (16 R385): the pieces, with the translations kept, or the faults of the lanes, each lane's first. -/
def State.resolve (s : State) (core ctx : Nat) (sup : Bool) (need : Need) : List Acc → Except (List LaneErr) (List Piece × State)
  | [] => .ok ([], s)
  | a :: t =>
    match s.translate core ctx sup need a.va with
    | .error k =>
      let e : LaneErr := { lane := a.lane, kind := k, va := a.va, page := s.pageSize core ctx a.va }
      match State.resolve s core ctx sup need t with
      | .error es => .error (e :: es.filter fun x => x.lane != a.lane)
      | .ok _ => .error [e]
    | .ok x =>
      match State.resolve (s.keepXlat x) core ctx sup need t with
      | .error es => .error es
      | .ok (ps, s1) => .ok (addAcc (lineOf x.pa) (lineOf a.va) x.page a ps, s1)

/-- The register writes of a read element (R210): a value of 32 bits or fewer in one register, of 64 bits in a pair; an access of no bytes, one that
only makes a line resident, writes none. -/
def accWrites (d : LineData) (a : Acc) : List RegWrite :=
  let v := takeBytes d a.off a.size
  if a.size = 0 then []
  else if a.size = 8 then
    [{ lane := a.lane, reg := a.reg, val := BitVec.ofNat 32 v }, { lane := a.lane, reg := a.reg + 1, val := BitVec.ofNat 32 (v / 2 ^ 32) }]
  else
    let x : Word := if a.signed then BitVec.ofInt 32 (Int.bmod (v : Int) (2 ^ (8 * a.size))) else BitVec.ofNat 32 v
    [{ lane := a.lane, reg := a.reg, val := x }]
/-- The poison of an element that got an error response (R212). -/
def accPoison (a : Acc) : List RegWrite :=
  if a.size = 0 then []
  else { lane := a.lane, reg := a.reg, val := Config.poison } ::
    (if a.size = 8 then [{ lane := a.lane, reg := a.reg + 1, val := Config.poison }] else [])

/-- Data of a store's accesses placed in their line, higher lanes over lower (R214). -/
def storeData (accs : List Acc) : LineData :=
  accs.foldl (fun d a => mergeLine d (placeBytes a.off (a.b.toNat % 2 ^ (8 * a.size))) (byteMask a.off a.size)) 0
/-- The data of a piece of a store among the pieces of its instruction: where lanes reach one line by two virtual addresses, the byte of the highest lane
stands in both (R214). -/
def Piece.dataIn (p : Piece) (ps : List Piece) : LineData :=
  match ps.filter fun q => q.line == p.line with
  | _ :: _ :: _ => storeData ((List.range 32).flatMap fun l => (ps.filter fun q => q.line == p.line).flatMap fun q => q.accs.filter fun a => a.lane == l)
  | _ => storeData p.accs

/-- The bytes of poisoned sectors that a mask names (17 R419); of a write, those that it does not clear. -/
def State.poisonOf (s : State) (line : Nat) (mask : LineMask) (write : Bool) : LineMask :=
  (List.range 4).foldl (fun m i =>
    let sector := byteMask (32 * i) 32
    if s.mem.poisoned.contains (line / 32 + i) && !(write && (mask &&& sector) == sector) then m ||| (mask &&& sector) else m) 0
/-- Accesses that name bytes of a mask, and those that do not: each lane fails on its own (R212). -/
def splitAccs (accs : List Acc) (bad : LineMask) : List Acc × List Acc := accs.partition fun a => (byteMask a.off a.size &&& bad) != 0
/-- A piece in the parts that poisoned sectors make of it. -/
def State.splitPiece (s : State) (write : Bool) (p : Piece) : List Piece :=
  let bad := s.poisonOf p.line p.mask write
  if bad = 0 then [p]
  else
    let (b, g) := splitAccs p.accs bad
    ([{ p with accs := b }] ++ [{ p with accs := g }]).filter fun q => q.accs != []

/-- The new value of a read-modify-write (R217 to R219). -/
def RmwKind.eval (k : RmwKind) (old b c : DWord) : DWord :=
  let lo (x : DWord) : Word := x.extractLsb' 0 32
  match k with
  | .int op signed wide =>
    let g {n : Nat} (x y : BitVec n) : BitVec n := match op with
      | .add => x + y
      | .min => iminmax signed false x y
      | .max => iminmax signed true x y
      | .and => x &&& y
      | .or => x ||| y
      | .xor => x ^^^ y
      | .exch => y
    if wide then g old b else (g (lo old) (lo b)).setWidth 64
  | .cas wide => if wide then (if old = b then c else old) else if lo old = lo b then c else old
  | .fadd32 => BitVec.ofNat 64 (fmt32.add .rn (lo old).toNat (lo b).toNat)
  | .fadd16 bf =>
    let f := if bf then fmtB16 else fmt16
    let half (i : Nat) : Nat := f.add .rn (old.extractLsb' (16 * i) 16).toNat (b.extractLsb' (16 * i) 16).toNat
    BitVec.ofNat 64 (half 0 + half 1 * 2 ^ 16)

/-- The read-modify-writes of a piece in ascending lane order (R221): the line after them, and the old values. -/
def rmwAll (k : RmwKind) (d : LineData) : List Acc → LineData × List (Acc × Nat)
  | [] => (d, [])
  | a :: t =>
    let old := takeBytes d a.off a.size
    let new := (k.eval (BitVec.ofNat 64 old) a.b a.c).toNat % 2 ^ (8 * a.size)
    let (d1, r) := rmwAll k (mergeLine d (placeBytes a.off new) (byteMask a.off a.size)) t
    (d1, (a, old) :: r)

/-- The register writes of a returned old value. -/
def oldWrites (x : Acc × Nat) : List RegWrite := accWrites (placeBytes x.1.off x.2) x.1

/-- Source of a store or RMW: D for stores, B for RMWs; a pair for 64 bits. -/
def groupSource (w : Warp) (o : Operands) (l e size : Nat) : DWord :=
  if size = 8 then w.pair l (o.d.toNat + 2 * e) else (w.reg l (o.d.toNat + e)).setWidth 64

/-- Size of a form's element in bytes. -/
def elemSize (o : Operands) : Nat := o.ty.bits / 8

end Sys2Proof.Machine
end

