-- ==== Sys2Proof/Machine/Memory.lean ====
section
/-!
DEFINITION. Machine/Memory.lean: loads, stores, atomics, fences, cache control and wait-on-address, groups 0x6 and 0x7 (08 R206 to R232).
-/
namespace Sys2Proof.Machine

/-- A scope wider than .wg: the fabric cache is not its point of coherence (07 R166). -/
def Scope.wide : Scope → Bool
  | .thr | .wg => false
  | _ => true

/-- The orders of MOD (03 R58). -/
def isAcq (o : Operands) : Bool := o.mod == 1#2 || o.mod == 3#2
def isRel (o : Operands) : Bool := o.mod == 2#2 || o.mod == 3#2

/-- The line as a core sees it now: what it has written over its die's copy, or over what the home would serve. -/
def State.viewNow (s : State) (core ctx vline line : Nat) : LineData :=
  let base := match s.dieCopy (dieOf core) line with
    | some d => if (s.windowAt line).isSome then s.plainLine line else d.data
    | none => s.plainLine line
  match (if (s.windowAt line).isSome then none else s.fab? core ctx vline) with
  | some l => mergeLine base l.data (l.dirty ||| (s.inFlight core line &&& l.valid))
  | none => base

/-- The checks of a memory instruction's lanes in the order of 17 R400, its translations (16 R385), and then its effect on its pieces. -/
def withPieces (s : State) (f : Focus) (w : Warp) (act : LaneMask) (need : Need) (xs : List (Nat × LaneAddr)) (accs : Nat → Nat → List Acc)
    (k : List Piece → State → State) : State :=
  match operandTrap xs with
  | some (kind, m) => s.trapHere f w act { kind := kind, lmask := m }
  | none =>
    let far := xs.filterMap fun x => match x.2 with
      | .fault kd va => some ({ lane := x.1, kind := kd, va := va, page := 4096 } : LaneErr)
      | _ => none
    let all := xs.flatMap fun x => match x.2 with
      | .at_ va => accs x.1 va
      | _ => []
    match s.resolve f.core (s.ctxOf w) (w.supIn f) need all with
    | .error es =>
      let errs := (List.range 32).flatMap fun l => (far ++ es).filter fun e => e.lane == l
      s.trapHere f w act { kind := ((errs.head?).map LaneErr.kind).getD kPage, errs := errs, lmask := maskOf (errs.map LaneErr.lane) }
    | .ok (ps, s1) =>
      if far ≠ [] then s.trapHere f w act { kind := kVaRange, errs := far, lmask := maskOf (far.map LaneErr.lane) } else k ps s1

/-- What an ordering form waits for before its own access (07 R174 to R180, 08 R212): outstanding acquires always; for a strong release, every older
write, and then a due fault is raised; for .sc at a wide scope also the acquire of a fence. -/
def ordered (o : Operands) (f : Focus) (w : Warp) (act : LaneMask) (s : State) (k : State → Warp → State) : State :=
  match (if f.grid then [] else s.acquiring f) with
  | i :: t => s.retry f w (.llRegs (i :: t))
  | [] =>
    if isRel o && (Scope.wide o.sc || !f.grid && o.sc != .thr) then
      s.released f w act fun s w => k (if o.mod == 3#2 && Scope.wide o.sc then s.acquireFab f.core (s.ctxOf w) else s) w
    else k s w

-- Loads ------------------------------------------------------------------------------------------------------------------------------------------

/-- A copy near the core may answer an access: the windows in force allow it, as its home would (16 R387, R390). -/
def State.copyOk (s : State) (ctx line : Nat) (reads writes : Bool) : Bool := s.windowOk ctx line 128 reads writes

/-- The fabric-cache line that answers an access at .thr or .wg at once: its bytes are there, nothing of its core is on its way to the line, and no home
would refuse it. -/
def State.fabHit (s : State) (core ctx : Nat) (p : Piece) (reads writes : Bool) : Option FabLine :=
  match s.fab? core ctx p.vline with
  | none => none
  | some l =>
    if l.pline == p.line && (l.valid &&& p.mask) == p.mask && !s.onItsWay core p.line && s.copyOk ctx p.line reads writes
      && (s.windowAt p.line).isNone && !s.poisonHit p.line (p.mask &&& ~~~l.dirty) then some l else none

/-- The copy of a core's die that answers a read of a piece at once. -/
def State.dieHit (s : State) (core ctx : Nat) (p : Piece) : Option DieLine :=
  if s.onItsWay core p.line || (s.windowAt p.line).isSome || !s.copyOk ctx p.line true false || s.poisonHit p.line p.mask then none
  else s.dieCopy (dieOf core) p.line

/-- Bytes of a line that a core's outstanding RMWs will write in its fabric cache after all that it has stored there (07 R172). -/
def State.owed (s : State) (core line : Nat) : LineMask :=
  (s.mem.reqs.filter fun r => r.core == core && r.line == line && !r.performed && (match r.kind with
    | .rmw _ => !Scope.wide r.scope
    | _ => false)).foldl (fun m r => m ||| (r.mask &&& ~~~r.later)) 0
/-- What a core has written of a line in its fabric cache and not sent home, and that no outstanding RMW of the core writes after: with its bytes. A plain
read of a versioned word looks at its home alone (07 R202). -/
def State.ownBytes (s : State) (core ctx : Nat) (p : Piece) : LineMask × LineData :=
  match (if (s.windowAt p.line).isSome then none else s.fab? core ctx p.vline) with
  | some l => (l.dirty &&& ~~~(s.owed core p.line), l.data)
  | none => (0, 0)

/-- A piece's request as its instruction sends it. -/
def Piece.req (p : Piece) (f : Focus) (ctx id : Nat) (kind : ReqKind) (llop : Option Nat) (sc : Scope) : Req :=
  { id := id, kind := kind, llop := llop, core := f.core, slot := f.slot, ctx := ctx, line := p.line, vline := p.vline, mask := p.mask, accs := p.accs,
    scope := sc, page := p.page, iaddr := f.pc, lmid := f.lmid }

/-- A request that an outstanding instruction waits for is sent. -/
def State.ask (s : State) (id : Nat) (r : Nat → Req) : State :=
  let n := s.nonce
  ({ s with nonce := n + 1 }.updLL id fun x => { x with pending := x.pending + 1 }).send (r n)

/-- One piece of a load: answered from the fabric cache or the die's copy, or asked of its home (07 R166, 10 R266). What CD0 holds of host memory follows
all that has been performed (07 R204; log entry 34, DESIGN CHOICE). -/
def State.loadPiece (s : State) (f : Focus) (ctx id : Nat) (o : Operands) (wide : Bool) (p : Piece) : State :=
  match (if wide then none else s.fabHit f.core ctx p true false) with
  | some l => (s.setFab { l with stamp := s.now }).updLL id fun x => { x with writes := x.writes ++ p.accs.flatMap (accWrites l.data) }
  | none =>
    let s0 := if wide then s else s.missed f.core f.slot
    let own := s0.ownBytes f.core ctx p
    match s0.dieHit f.core ctx p with
    | some d =>
      let data := mergeLine d.data own.2 own.1
      let s1 := if !wide || (s0.fab? f.core ctx p.vline).any (fun l => l.pline == p.line) then s0.fillFab f.core ctx p.vline p.line p.page d.data else s0
      s1.updLL id fun x =>
        { x with writes := x.writes ++ p.accs.flatMap (accWrites data), wts := max x.wts (if isHostPa p.line then s.lineClock else d.wts) }
    | none =>
      s0.ask id fun n =>
        { p.req f ctx n .read (some id) o.sc with
          data := own.2, overlay := own.1, fixed := own.1, acq := isAcq o && Scope.wide o.sc, fill := !wide && (s.windowAt p.line).isNone }

/-- One piece of an `ldc` (R215): answered from the constant path of its cluster, which keeps no coherence with stores, or asked of its home. -/
def State.constPiece (s : State) (f : Focus) (ctx id : Nat) (p : Piece) : State :=
  let give (s : State) (d : LineData) : State := s.updLL id fun x => { x with writes := x.writes ++ p.accs.flatMap (accWrites d) }
  match (s.const? f.core ctx p.vline).filter fun l => l.pline == p.line && (l.valid &&& p.mask) == p.mask && s.copyOk ctx p.line true false with
  | some l => give s l.data
  | none =>
    match s.dieHit f.core ctx p with
    | some d => give (s.fillConst f.core ctx p.vline p.line d.data) d.data
    | none => s.ask id fun n => { p.req f ctx n .read (some id) .thr with const := true }

/-- A long-latency instruction completes later if nothing of it is outstanding. -/
def State.finishLL (s : State) (id : Nat) : State :=
  match s.llop? id with
  | some x => if x.pending = 0 then s.later (.longLatencyComplete id) else s
  | none => s

/-- A grid read's lines of the fabric cache: bytes that the core has not written are read again by a later access (07 R172). -/
def State.refreshFab (s : State) (core ctx : Nat) (ps : List Piece) : State :=
  ps.foldl (fun s p => match s.fab? core ctx p.vline with
    | some l => s.setFab { l with valid := l.dirty ||| (s.inFlight core p.line &&& l.valid) }
    | none => s) s

/-- The line as a load of the grid reads it: through the constant path for `ldc`. -/
def State.seenNow (s : State) (core ctx : Nat) (const : Bool) (p : Piece) : LineData :=
  if !const then s.viewNow core ctx p.vline p.line
  else match (s.const? core ctx p.vline).filter fun l => l.pline == p.line && (l.valid &&& p.mask) == p.mask with
    | some l => l.data
    | none => s.plainLine p.line

/-- In the grid, a load is performed at once at its place in program order: each piece checked at its home, its words into the firing's slots. -/
def State.loadNow (s : State) (f : Focus) (w : Warp) (const wide : Bool) (ps0 : List Piece) : State :=
  let ctx := s.ctxOf w
  let who := Who.front ctx f
  let ps := ps0.flatMap (s.splitPiece false)
  let bad := ps.filterMap fun p => (s.agentReadError who p.line p.mask).map fun k => (k, p)
  let good := ps.filter fun p => (s.agentReadError who p.line p.mask).isNone
  let ws := (good.flatMap fun p => p.accs.flatMap (accWrites (s.seenNow f.core ctx const p))) ++ bad.flatMap fun b => b.2.accs.flatMap accPoison
  let count (s : State) (p : Piece) : State := if wide || const || (s.fabHit f.core ctx p true false).isSome then s else s.missed f.core f.slot
  let keep (s : State) (p : Piece) : State := if const && (s.windowAt p.line).isNone then s.fillConst f.core ctx p.vline p.line (s.seenNow f.core ctx true p) else s
  let s0 := (good.foldl keep ((good.foldl count s).tookRead (dieOf f.core) (good.map Piece.line))).refreshFab f.core ctx (if const then [] else good)
  let s1 := (bad.foldl (fun s b => s.logError who b.1 b.2.line b.2.mask) s0).setWarp (w.applyWrites ws)
  match bad with
  | [] => s1
  | (k, _) :: _ =>
    s1.gridFail k (bad.flatMap fun b => b.2.accs.map fun a => { lane := a.lane, kind := b.1, va := a.va, page := b.2.page })

/-- The destination registers of a load's lanes. -/
def groupDests (o : Operands) (n : Nat) : List Nat := (List.range (if elemSize o = 8 then 2 * n else n)).map fun i => o.d.toNat + i

/-- The shared operation of the loads from global and private memory (R213), and of `ldc` through the constant path (R215). -/
def loadForm (o : Operands) (n : Nat) (addr : State → Focus → Warp → Nat → LaneAddr) (s : State) (const : Bool := false) : State :=
  withLL o (fun f w act s =>
    ordered o f w act s fun s w =>
      let size := elemSize o
      let xs := (lanesOf act).map fun l => (l, addr s f w l)
      withPieces s f w act .read xs (fun l va => groupAccs o l va n size o.ty.signed) fun ps s =>
        if f.grid then s.loadNow f w const (Scope.wide o.sc) ps
        else
          let id := s.nonce
          let op : LLOp := { llopOf f w id act o.fsel (groupDests o n) with acquire := if isAcq o && Scope.wide o.sc then some o.sc else none }
          let s1 := { s with nonce := id + 1 }.beginLL f w op
          let one (s : State) (p : Piece) : State :=
            if const then s.constPiece f (s.ctxOf w) id p else s.loadPiece f (s.ctxOf w) id o (Scope.wide o.sc) p
          (ps.foldl one s1).finishLL id) s

/-- ld (R213). -/
def execLd (n : GroupN) (o : Operands) (s : State) : Out :=
  .next (loadForm o n.count (fun s f w l => globalAddr (srcA64 w o l) (srcOffset s f w o l) (elemSize o)) s)
/-- ldp (R213, R208). -/
def execLdp (n : GroupN) (o : Operands) (s : State) : Out :=
  .next (loadForm o n.count (fun s f w l =>
    s.privAddr w l (srcA32 f w o l) (srcOffset s f w o l) (elemSize o) (n.count * elemSize o)) s)
/-- ldc (R215): through the constant path. -/
def execLdc (o : Operands) (s : State) : Out :=
  .next (loadForm o 1 (fun s f w l => globalAddr (srcA64 w o l) (srcOffset s f w o l) (elemSize o)) s true)

/-- The stage addresses of an instruction's lanes, as lane addresses packed with their workgroup: 2^20 times its place in the list. -/
def stageAddrs (s : State) (w : Warp) (act : LaneMask) (a : Nat → Word) (off : Nat → Int) (size bytes : Nat) (peerOk : Bool) :
    List (Nat × Except Nat (Nat × Nat)) :=
  match s.wg? w.wg with
  | some g => (lanesOf act).map fun l => (l, s.stageAddr g (a l) (off l) size bytes peerOk)
  | none => []

/-- The operand traps of stage addresses (17 R400). -/
def stageTrap (xs : List (Nat × Except Nat (Nat × Nat))) : Option (Nat × LaneMask) :=
  operandTrap (xs.map fun x => (x.1, match x.2 with
    | .error k => LaneAddr.trap k
    | .ok _ => LaneAddr.at_ 0))

/-- lds (R213): stage memory is read at issue, and the registers are written at completion. -/
def execLds (n : GroupN) (o : Operands) (s : State) : Out :=
  .next (withLL o (fun f w act s =>
    ordered o f w act s fun s w =>
      let size := elemSize o
      let xs := stageAddrs s w act (srcA32 f w o) (srcOffset s f w o) size (n.count * size) (Scope.wide o.sc)
      match stageTrap xs with
      | some (k, m) => s.trapHere f w act { kind := k, lmask := m }
      | none =>
        let ws := xs.flatMap fun x => match x.2 with
          | .error _ => []
          | .ok (g, off) => (groupAccs o x.1 off n.count size o.ty.signed).flatMap fun a =>
              accWrites (placeBytes a.off (s.stageRead g a.va size)) a
        let s1 := s.llResult f w act o.fsel (groupDests o n.count) ws
        if isAcq o && Scope.wide o.sc then s1.joinAll f.core (s.ctxOf w) else s1) s)

-- Stores -----------------------------------------------------------------------------------------------------------------------------------------

/-- A store of a core to bytes that an outstanding RMW of the core will write in its fabric cache: the store comes after it (07 R172). -/
def State.storedSince (s : State) (core line : Nat) (mask : LineMask) : State :=
  let on (r : Req) : Req := match r.kind with
    | .rmw _ => if r.core == core && r.line == line && !Scope.wide r.scope then { r with later := r.later ||| mask } else r
    | _ => r
  { s with mem := { s.mem with reqs := s.mem.reqs.map on } }

/-- In the grid, a piece of a store performed at its home at once, each lane's accesses failing on their own (R212). -/
def State.storeNow (s : State) (f : Focus) (ctx : Nat) (p : Piece) (data : LineData) : State :=
  (s.splitPiece true p).foldl (fun s q =>
    match s.writePiece (Who.front ctx f) q.line q.mask data with
    | (none, s1) => s1
    | (some k, s1) => s1.gridFail k (q.accs.map fun a => { lane := a.lane, kind := k, va := a.va, page := q.page })) s

/-- One piece of a store (07 R166) with its data: into the fabric cache, or for a wider scope or a versioned word (10 R273) to its home, with the core's
own copy brought up to date. -/
def State.storePiece (s0 : State) (f : Focus) (ctx : Nat) (o : Operands) (data : LineData) (p : Piece) : State :=
  let s := s0.storedSince f.core p.line p.mask
  if !Scope.wide o.sc && (s.windowAt p.line).isNone then
    let s1 := if (s.fab? f.core ctx p.vline).isNone then s.missed f.core f.slot else s
    s1.storeFab f.core ctx (f.writer (maskOf (p.accs.map Acc.lane))) p.vline p.line p.page p.mask data
  else
    let s1 := match s.fab? f.core ctx p.vline with
      | some l => s.setFab { l with data := mergeLine l.data data p.mask, valid := l.valid ||| p.mask, dirty := l.dirty &&& ~~~p.mask }
      | none => s
    if f.grid then s1.storeNow f ctx p data
    else { s1 with nonce := s1.nonce + 1 }.send { p.req f ctx s1.nonce .write none o.sc with data := data, rel := isRel o }

/-- The shared operation of the stores to global and private memory (R214). -/
def storeForm (o : Operands) (n : Nat) (addr : State → Focus → Warp → Nat → LaneAddr) (s : State) : State :=
  withSources o (fun f w act s =>
    ordered o f w act s fun s w =>
      let size := elemSize o
      let xs := (lanesOf act).map fun l => (l, addr s f w l)
      let accs (l va : Nat) : List Acc := (groupAccs o l va n size false).zipIdx.map fun a => { a.1 with b := groupSource w o l a.2 size }
      withPieces s f w act .write xs accs fun ps s =>
        ps.foldl (fun s p => s.storePiece f (s.ctxOf w) o (p.dataIn ps) p) s) s

/-- st (R214). -/
def execSt (n : GroupN) (o : Operands) (s : State) : Out :=
  .next (storeForm o n.count (fun s f w l => globalAddr (srcA64 w o l) (srcOffset s f w o l) (elemSize o)) s)
/-- stp (R214, R208). -/
def execStp (n : GroupN) (o : Operands) (s : State) : Out :=
  .next (storeForm o n.count (fun s f w l =>
    s.privAddr w l (srcA32 f w o l) (srcOffset s f w o l) (elemSize o) (n.count * elemSize o)) s)

/-- sts (R214): stage memory is written at issue, higher lanes over lower. -/
def execSts (n : GroupN) (o : Operands) (s : State) : Out :=
  .next (withSources o (fun f w act s =>
    ordered o f w act s fun s w =>
      let size := elemSize o
      let xs := stageAddrs s w act (srcA32 f w o) (srcOffset s f w o) size (n.count * size) (Scope.wide o.sc)
      match stageTrap xs with
      | some (k, m) => s.trapHere f w act { kind := k, lmask := m }
      | none =>
        let put (s : State) (x : Nat × Except Nat (Nat × Nat)) : State := match x.2 with
          | .error _ => s
          | .ok (g, off) => s.stagePut g off ((List.range n.count).flatMap fun e => bytesOf size (groupSource w o x.1 e size).toNat)
        let wgs := (xs.filterMap fun x => match x.2 with
          | .error _ => none
          | .ok (g, _) => some g).eraseDups
        wgs.foldl State.noteMatches (xs.foldl put s)) s)

/-- prefetch (R216): brings a line in and never faults. -/
def execPrefetch (lv : CacheLevel) (o : Operands) (s : State) : Out :=
  .next (withSources o (fun f w act s =>
    let ctx := s.ctxOf w
    (lanesOf act).foldl (fun s l =>
      match globalAddr (srcA64 w o l) (srcOffset s f w o l) 0 with
      | .at_ va =>
        match s.translate f.core ctx (w.supIn f) .read va with
        | .error _ => s
        | .ok x =>
          let line := lineOf x.pa
          let held := (s.fab? f.core ctx (lineOf va)).any fun l => l.valid == BitVec.allOnes 128
          if (s.windowAt line).isSome || (lv == CacheLevel.l1 && held) then s.keepXlat x
          else
            let s1 := if lv == CacheLevel.l1 then (s.keepXlat x).missed f.core f.slot else s.keepXlat x
            let p : Piece := { line := line, vline := lineOf va, page := x.page, accs := [] }
            { s1 with nonce := s1.nonce + 1 }.send { p.req f ctx s1.nonce .read none .thr with fill := lv == CacheLevel.l1 }
      | _ => s) s) s)

-- Atomics ----------------------------------------------------------------------------------------------------------------------------------------

/-- The read-modify-write that a form and its type name (R217 to R219). -/
def rmwOf (op : AtomOp) (o : Operands) : RmwKind := .int op o.ty.signed (is64 o)
def redAtom : RedOp → AtomOp
  | .add => .add | .min => .min | .max => .max | .and => .and | .or => .or | .xor => .xor
def faddOf (o : Operands) : RmwKind := if o.ty == .f32 then .fadd32 else .fadd16 (o.ty == .bf16)

/-- Size of an RMW's word: 8 bytes for 64-bit types, else 4 (R209). -/
def rmwSize (o : Operands) : Nat := if is64 o then 8 else 4

/-- An RMW address (R206): a stage address where bit 63 of a is set. -/
def isStageAtom (a : DWord) : Bool := a.getLsbD 63

/-- The line that an RMW reads (07 R182): at .cl and .die the die's own copy where it may serve reads, else the line as its home would serve it. -/
def State.rmwBase (s : State) (die : Nat) (sc : Scope) (line : Nat) : LineData :=
  match sc with
  | .cl | .die => ((s.dieCopy die line).map DieLine.data).getD (s.lineNow line)
  | _ => s.lineNow line

/-- Read-modify-writes performed at the home of a line: the error response's kind, or the old values; a versioned window takes none (R221), and one that
returns nothing needs no permission to read (16 R385, R387). -/
def State.rmwHome (s : State) (w : Who) (sc : Scope) (line : Nat) (k : RmwKind) (accs : List Acc) (mask : LineMask) (returns : Bool) :
    Except Nat (List (Acc × Nat)) × State :=
  match s.agentWriteError w line mask evRmw true returns with
  | some e => (.error e, s.logError w e line mask)
  | none =>
    if s.poisonHit line mask then (.error kEccUncorr, s)
    else
      let (d, olds) := rmwAll k (s.rmwBase w.die sc line) accs
      (.ok olds, s.applyWrite w line mask d (if sc == .dev || sc == .sys then Instr.rmw else Instr.write))

/-- One piece of a global RMW (07 R182): for .thr and .wg in the fabric cache, at once where its bytes are there, else once a request has brought the line;
for .cl and .die at the die's last-level cache, for .dev and .sys at the home. A versioned or write-once line answers at its home (R202, 10 R267). -/
def State.rmwPiece (s : State) (f : Focus) (ctx : Nat) (o : Operands) (k : RmwKind) (id : Option Nat) (p : Piece) : State :=
  let give (s : State) (ws : List RegWrite) : State := match id with
    | some n => s.updLL n fun x => { x with writes := x.writes ++ ws }
    | none => s
  match (if Scope.wide o.sc || s.writeOnce p.line then none else s.fabHit f.core ctx p id.isSome true) with
  | some l =>
    let (d, olds) := rmwAll k l.data p.accs
    give (s.storeFab f.core ctx (f.writer (maskOf (p.accs.map Acc.lane))) p.vline p.line p.page p.mask d) (olds.flatMap oldWrites)
  | none =>
    let s0 := match (if Scope.wide o.sc then s.fab? f.core ctx p.vline else none) with
      | some l => s.writeBack l
      | none => if Scope.wide o.sc then s else s.missed f.core f.slot
    let own := if Scope.wide o.sc then (0, 0) else s0.ownBytes f.core ctx p
    let r (n : Nat) : Req :=
      { p.req f ctx n (.rmw k) id o.sc with
        rel := isRel o, acq := isAcq o && Scope.wide o.sc, fill := !Scope.wide o.sc, data := own.2, overlay := own.1, fixed := own.1 }
    match id with
    | some m => s0.ask m r
    | none => { s0 with nonce := s0.nonce + 1 }.send (r s0.nonce)

/-- A read-modify-write of a piece in the fabric cache, on the line as its core sees it (07 R182). -/
def State.rmwFab (s : State) (f : Focus) (ctx : Nat) (k : RmwKind) (p : Piece) (data : LineData) : State × List (Acc × Nat) :=
  let (d, olds) := rmwAll k data p.accs
  let s1 := if (s.fabHit f.core ctx p true true).isSome then s else s.missed f.core f.slot
  ((s1.fillFab f.core ctx p.vline p.line p.page data).storeFab f.core ctx (f.writer (maskOf (p.accs.map Acc.lane))) p.vline p.line p.page p.mask d, olds)

/-- In the grid, the dirty bytes of a line brought home at once; an error response is due in the threads that stored them (R212). -/
def State.writeBackNow (s : State) (who : Who) (l : FabLine) : State :=
  let s1 := s.setFab { l with dirty := 0, writers := [] }
  match s1.writePiece who l.pline l.dirty l.data with
  | (none, s2) => s2
  | (some k, s2) => s2.writersDue l.core l.writers k (l.vline + ctzV l.dirty) l.page

/-- In the grid, an RMW is performed at once when its turn comes (13 R425). -/
def State.rmwNow (s : State) (f : Focus) (w : Warp) (sc : Scope) (k : RmwKind) (returns : Bool) (ps : List Piece) : State :=
  let ctx := s.ctxOf w
  let who := Who.front ctx f
  (ps.flatMap (s.splitPiece false)).foldl (fun s p =>
    let local_ := !Scope.wide sc && (s.writeError who p.line p.mask true returns).isNone && !s.poisonHit p.line p.mask
    let s0 := match (if local_ then none else s.fab? f.core ctx p.vline) with
      | some l =>
        let s1 := s.writeBackNow who l
        s1.setFab { (s1.fab? f.core ctx p.vline).getD l with valid := l.valid &&& ~~~p.mask }
      | none => s
    let (r, s1) : Except Nat (List (Acc × Nat)) × State :=
      if local_ then
        let (s1, olds) := s0.rmwFab f ctx k p (s0.viewNow f.core ctx p.vline p.line)
        (.ok olds, s1)
      else s0.rmwHome who sc p.line k p.accs p.mask returns
    let give (ws : List RegWrite) : State := if returns then
        (match s1.warp? f.core f.slot with
          | some w1 => s1.setWarp (w1.applyWrites ws)
          | none => s1) else s1
    match r with
    | .ok olds => give (olds.flatMap oldWrites)
    | .error e =>
      let s2 := give (p.accs.flatMap accPoison)
      s2.gridFail e (p.accs.map fun a => { lane := a.lane, kind := e, va := a.va, page := p.page })) s

/-- Stage RMWs of lanes in ascending order (R221). -/
def State.rmwStage (s : State) (k : RmwKind) : List (Acc × Nat) → State × List (Acc × Nat)
  | [] => (s, [])
  | (a, g) :: t =>
    let old := s.stageRead g a.va a.size
    let new := (k.eval (BitVec.ofNat 64 old) a.b a.c).toNat
    let (s1, r) := State.rmwStage (s.stageWrite g a.va (bytesOf a.size new)) k t
    (s1, (a, old) :: r)

/-- The addresses of an RMW's lanes (R206, R207): global, or a stage place; `src` gives the operands. -/
def rmwAddr (s : State) (w : Warp) (o : Operands) (l : Nat) : LaneAddr × Option (Nat × Nat) :=
  let a := srcA64 w o l
  let size := rmwSize o
  if isStageAtom a then
    if a.extractLsb' 32 31 != 0 then (.fault kVaRange a.toNat, none)
    else match s.wg? w.wg with
      | none => (.trap kStageRange, none)
      | some g =>
        if o.sc != .wg && o.sc != .cl then (.trap kStageRange, none)
        else match s.stageAddr g (a.extractLsb' 0 32) 0 size size (o.sc == .cl) with
          | .error k => (.trap k, none)
          | .ok x => (.at_ 0, some x)
  else (globalAddr a 0 size, none)

/-- The shared operation of the atomics and reductions (R217 to R221); a reduction needs only permission to write (16 R385). -/
def rmwForm (o : Operands) (k : RmwKind) (returns : Bool) (s : State) : State :=
  let body (f : Focus) (w : Warp) (act : LaneMask) (s : State) : State :=
    ordered o f w act s fun s w =>
      let xs := (lanesOf act).map fun l => (l, rmwAddr s w o l)
      let stage := xs.filter fun x => x.2.2.isSome
      let acc (l va : Nat) : Acc :=
        { lane := l, off := va % 128, size := rmwSize o, va := va, reg := o.d.toNat, b := srcB64 s f w o l,
          c := if is64 o then w.pair l o.c.toNat else (srcC32 w o l).setWidth 64 }
      let acc' (l va : Nat) : Acc := if is64 o then acc l va else { acc l va with b := (srcB32 s f w o l).setWidth 64 }
      let global := xs.map fun x => (x.1, x.2.1)
      let placed (l va : Nat) : List Acc := if (stage.any fun x => x.1 == l) then [] else [acc' l va]
      withPieces s f w act (if returns then .both else .write) global placed fun ps s =>
        let first (s : State) : State × List (Acc × Nat) := s.rmwStage k (stage.filterMap fun x => x.2.2.map fun g => (acc' x.1 g.2, g.1))
        let (s1, olds) := first s
        if f.grid then
          let s2 := if returns then s1.setWarp (w.applyWrites (olds.flatMap oldWrites)) else s1
          s2.rmwNow f w o.sc k returns ps
        else if returns then
          let id := s1.nonce
          let op : LLOp := { llopOf f w id act o.fsel (if is64 o then [o.d.toNat, o.d.toNat + 1] else [o.d.toNat]) with
            writes := olds.flatMap oldWrites, acquire := if isAcq o && Scope.wide o.sc then some o.sc else none }
          let s2 := { s1 with nonce := id + 1 }.beginLL f w op
          (ps.foldl (fun s p => s.rmwPiece f (s.ctxOf w) o k (some id) p) s2).finishLL id
        else ps.foldl (fun s p => s.rmwPiece f (s.ctxOf w) o k none p) s1
  if returns then withLL o body s else withSources o body s

/-- atom (R217). -/
def execAtom (op : AtomOp) (o : Operands) (s : State) : Out := .next (rmwForm o (rmwOf op o) true s)
/-- atom.cas (R218). -/
def execAtomCas (o : Operands) (s : State) : Out := .next (rmwForm o (.cas (is64 o)) true s)
/-- atom.fadd (R219). -/
def execAtomFadd (o : Operands) (s : State) : Out := .next (rmwForm o (faddOf o) true s)
/-- red (R220). -/
def execRed (op : RedOp) (o : Operands) (s : State) : Out := .next (rmwForm o (rmwOf (redAtom op) o) false s)
/-- red.fadd (R219). -/
def execRedFadd (o : Operands) (s : State) : Out := .next (rmwForm o (faddOf o) false s)

-- Fences and cache control --------------------------------------------------------------------------------------------------------------------------

/-- Outstanding memory reads of the bundle's lanes, which a fence waits for. -/
def State.readsOut (s : State) (f : Focus) : List Nat :=
  (s.fe.llops.filter fun o => o.core == f.core && o.slot == f.slot && (o.lanes &&& f.lanes) != 0).map LLOp.id

/-- fence (R227): it raises the faults due to its threads (R212). -/
def execFence (o : Operands) (s : State) : Out :=
  .next (withSources o (fun f w act s =>
    match (if f.grid then [] else s.readsOut f) with
    | i :: t => s.retry f w (.llRegs (i :: t))
    | [] =>
      let finish (s : State) (w : Warp) : State :=
        if isAcq o && Scope.wide o.sc then
          let seen := (lanesOf act).foldl (fun m l => max m (w.thread l).seen) 0
          (s.acquireFab f.core (s.ctxOf w)).setPts (dieOf f.core) seen
        else s
      if f.grid && !(isRel o && Scope.wide o.sc) then finish s w else s.released f w act finish) s)

/-- Locked lines of a context on a core (R228). -/
def State.lockedOf (s : State) (core ctx : Nat) : Nat := (s.mem.fab.filter fun l => l.core == core && l.ctx == ctx && l.locks != []).length

/-- One lock of a resident line (R228), with the number of its locking. -/
def State.lockAs (s : State) (core ctx wg n vline : Nat) : Bool × State :=
  match s.fab? core ctx vline with
  | none => (false, s)
  | some l =>
    let quota := ((s.ctx? ctx).map Ctx.lockq).getD 0
    if l.locks.any fun x => x.1 == wg then (true, s)
    else if ((s.sameSet core vline).filter fun x => x.locks != []).length ≥ 11 || s.lockedOf core ctx ≥ quota then (false, s)
    else (true, s.setFab { l with locks := l.locks ++ [(wg, n)] })
/-- One lane's lock of a resident line. -/
def State.lockOne (s : State) (core ctx wg vline : Nat) : Bool × State := { s with nonce := s.nonce + 1 }.lockAs core ctx wg s.nonce vline

/-- A line that its home serves uncached never becomes resident: one with a versioned word, or a write-once line with an unwritten byte (10 R267,
R273). -/
def State.uncached (s : State) (line : Nat) : Bool :=
  (s.windowAt line).isSome || (s.writeOnce line && (s.homeLine line).written != BitVec.allOnes 128)

/-- Locks of lanes in ascending order, as far as their lines are resident (R228): a line that cannot become resident is not locked. The rest of the lanes
wait for the first line that is missing. -/
def State.lockEach (s : State) (f : Focus) (w : Warp) (ps : List Piece) : List (Nat × Nat) → State × Warp × Option Piece
  | [] => (s, w, none)
  | (l, va) :: t =>
    let note (w : Warp) (b : Bool) : Warp := w.mapThreads (maskOf [l]) fun _ x => { x with laneDone := some (if b then 1 else 0) }
    if (w.thread l).laneDone.isSome then State.lockEach s f w ps t
    else match ps.find? fun p => p.vline == lineOf va with
      | none => State.lockEach s f w ps t
      | some p =>
        if s.uncached p.line then State.lockEach s f (note w false) ps t
        else if !(s.fab? f.core (s.ctxOf w) p.vline).any fun x => x.pline == p.line then (s, w, some p)
        else
          let (b, s1) := s.lockOne f.core (s.ctxOf w) w.wg (lineOf va)
          State.lockEach s1 f (note w b) ps t

/-- lock.line (R228): the bundle stalls until every active lane's line has been resident. -/
def execLockLine (o : Operands) (s : State) : Out :=
  .next (withSources o (fun f w act s =>
    let ctx := s.ctxOf w
    let xs := (lanesOf act).map fun l => (l, globalAddr (srcA64 w o l) 0 0)
    let acc (l va : Nat) : List Acc := [{ lane := l, off := va % 128, size := 1, va := va }]
    withPieces s f w act .read xs acc fun ps s =>
      let lanes := xs.filterMap fun x => match x.2 with
        | .at_ va => some (x.1, va)
        | _ => none
      let (s1, w1, missing) := s.lockEach f w ps lanes
      match missing with
      | some p =>
        let id := s1.nonce
        let s2 := ({ s1 with nonce := id + 1 }.beginLL f w1 { llopOf f w1 id act false [] with flag := none }).missed f.core f.slot
        let q : Piece := { p with accs := p.accs.map fun (a : Acc) => { a with size := 0 } }
        (s2.ask id fun n => { q.req f ctx n .read (some id) .thr with mask := p.mask, fill := true }).retry f w1 (.op id)
      | none =>
        s1.setWarp ((w1.setPred act o.d.toNat fun l => (w1.thread l).laneDone == some 1).mapThreads act fun _ t => { t with laneDone := none })) s)

/-- unlock.line (R230). -/
def execUnlockLine (o : Operands) (s : State) : Out :=
  .next (withSources o (fun f w act s =>
    let ctx := s.ctxOf w
    (lanesOf act).foldl (fun s l =>
      match s.fab? f.core ctx (lineOf (srcA64 w o l).toNat) with
      | some x => s.setFab { x with locks := x.locks.filter (·.1 != w.wg) }
      | none => s) s) s)

/-- cflush (R231): at .dev and .sys the bytes go on from the die's last-level cache to the home slice. -/
def execCflush (op : FlushOp) (o : Operands) (s : State) : Out :=
  .next (withSources o (fun f w act s =>
    let ctx := s.ctxOf w
    let die := dieOf f.core
    let xs := (lanesOf act).map fun l => (l, globalAddr (srcA64 w o l) 0 0)
    let acc (l va : Nat) : List Acc := [{ lane := l, off := va % 128, size := 1, va := va }]
    withPieces s f w act .read xs acc fun ps s =>
      if !Scope.wide o.sc then s
      else ps.foldl (fun s p =>
        let far := o.sc == .dev || o.sc == .sys
        let inv := op == .inv
        let s1 := match s.fab? f.core ctx p.vline with
          | some l =>
            let s1 := s.writeBack l (if far then some inv else none)
            if inv && l.locks = [] then s1.dropFab f.core ctx p.vline else s1
          | none => s
        if !far || ((s.fab? f.core ctx p.vline).any fun l => l.dirty != 0) then s1
        else
          match s1.dieLine? die p.line with
          | none => s1
          | some d =>
            if d.dirty ≠ 0 then
              { s1 with nonce := s1.nonce + 1 }.send
                { id := s1.nonce, kind := .write, from_ := .writeback, core := f.core, slot := f.slot, ctx := ctx, line := p.line, vline := p.vline,
                  page := p.page, lmid := f.lmid, flush := some inv }
            else if inv then s1.later (.evictClean die p.line) else s1) s) s)

-- Wait on address ------------------------------------------------------------------------------------------------------------------------------------

/-- How a lane's waddr stands at a test (R232): resolved, or not yet. -/
def waddrTest (op : WaddrOp) (x b : Word) (cal : Nat) (deadline : Option Nat) : Option Bool :=
  let hit := match op with
    | .eq => x == b
    | .ne => x != b
  if hit then some true
  else match deadline with
    | some d => if d ≤ cal then some false else none
    | none => none

/-- waddr (R232): tested at issue; its threads are not runnable until each of the bundle's lanes is resolved, by a match after a write or at its
deadline. -/
def execWaddr (op : WaddrOp) (o : Operands) (s : State) : Out :=
  .next (withSources o (fun f w act s =>
    let cal := s.cal (dieOf f.core)
    let xs := stageAddrs s w act (srcA32 f w o) (fun _ => 0) 4 4 false
    match stageTrap xs with
    | some (k, m) => s.trapHere f w act { kind := k, lmask := m }
    | none =>
      let b (l : Nat) : Word := srcB32 s f w o l
      let c (l : Nat) : Word := srcC32 w o l
      let fresh (l : Nat) : Bool := (w.thread l).waddrDeadline.isNone
      let deadline (l : Nat) : Option Nat :=
        ((w.thread l).waddrDeadline).getD (if c l = 0xFFFFFFFF#32 then none else some (cal + (c l).toNat))
      let off (l : Nat) : Nat := match (xs.find? fun x => x.1 == l).map Prod.snd with
        | some (.ok x) => x.2
        | _ => 0
      let word (l : Nat) : Word := BitVec.ofNat 32 (s.stageRead w.wg (off l) 4)
      let result (l : Nat) : Option Bool :=
        if fresh l then waddrTest op (word l) (b l) cal (deadline l)
        else match (w.thread l).waddrDone with
          | some x => some x
          | none => if s.fe.matched.contains (f.core, f.slot, l) then some true else none
      let s0 : State := { s with fe := { s.fe with matched := s.fe.matched.filter fun x => !(x.1 == f.core && x.2.1 == f.slot && act.getLsbD x.2.2) } }
      if (lanesOf act).all fun l => (result l).isSome then
        let w1 := (w.setPred act o.d.toNat fun l => (result l).getD false).mapThreads act fun _ t =>
          { t with waddrDeadline := none, waddrDone := none }
        let s1 := s0.setWarp w1
        if (lanesOf act).any fun l => result l == some true then s1.joinAll f.core (s.ctxOf w) else s1
      else
        let w1 := w.mapThreads act fun l t => { t with waddrDeadline := some (deadline l), waddrDone := result l }
        let s1 := s0.retryEach f w1 act fun l => .word act (off l) (op == .ne) (b l)
        ((lanesOf act).filter fun l => fresh l && (deadline l).isSome).foldl
          (fun s l => s.after (2 * (c l).toNat) (.waddrDeadline f.core f.slot l)) s1) s)

/-- WADDR_DEADLINE (R232): the word is tested; a lane that it does not match resolves false. -/
def execWaddrDeadline (core slot lane : Nat) (s : State) : Out :=
  .next (match s.warp? core slot with
    | none => s
    | some w =>
      match (w.thread lane).waddrDeadline, (w.thread lane).wait with
      | some (some d), .word _ off ne b =>
        if d ≤ s.cal (dieOf core) && (w.thread lane).waddrDone.isNone && !s.fe.matched.contains (core, slot, lane) then
          let hit := (BitVec.ofNat 32 (s.stageRead w.wg off 4) == b) != ne
          s.setWarp (w.mapThreads (maskOf [lane]) fun _ t => { t with waddrDone := some hit })
        else s
      | _, _ => s)

end Sys2Proof.Machine
end

