-- ==== Sys2Proof/Machine/GridRec.lean ====
section
/-!
DEFINITION. Machine/GridRec.lean: the placement record: its header, frame map, circuits, range hints and handler entries, and the checks that arm it
(13 R312 to R319, R335 to R337).
-/
namespace Sys2Proof.Machine

-- The header (R336) ----------------------------------------------------------------------------------------------------------------------------------

abbrev GRec := List Byte

/-- HEAD: the loop's head, from the kernel's entry. -/
def GRec.head (r : GRec) : Int := (BitVec.ofNat 32 (fieldAt r 0x08 4)).toInt
def GRec.bodyb (r : GRec) : Nat := fieldAt r 0x0C 4
/-- F: slots of a frame. -/
def GRec.frame (r : GRec) : Nat := fieldAt r 0x10 2
def GRec.levels (r : GRec) : Nat := fieldAt r 0x12 1 % 4 + 1
def GRec.repl (r : GRec) : Nat := 2 ^ (fieldAt r 0x13 1 % 4)
def GRec.cut (r : GRec) : Bool := bitsAt (fieldAt r 0x13 1) 2 1 == 1
def GRec.lmid (r : GRec) : BitVec 8 := BitVec.ofNat 8 (fieldAt r 0x14 1)
def GRec.nvc (r : GRec) : Nat := fieldAt r 0x15 1
def GRec.nhnd (r : GRec) : Nat := fieldAt r 0x16 2
def GRec.nrng (r : GRec) : Nat := fieldAt r 0x28 2
def GRec.argUsed (r : GRec) : Bool := bitsAt (fieldAt r 0x2A 1) 4 1 == 1
def GRec.argPort (r : GRec) : Nat := fieldAt r 0x2A 1 % 16
def GRec.narg (r : GRec) : Nat := fieldAt r 0x2B 1
/-- Fields of a level. -/
def GRec.tags (r : GRec) (l : Nat) : Nat := fieldAt r (0x40 + 8 * l) 2
def GRec.ihead (r : GRec) (l : Nat) : Nat := if l = 0 then 0 else fieldAt r (0x42 + 8 * l) 2
def GRec.iend (r : GRec) (l : Nat) : Nat := if l = 0 then r.bodyb else fieldAt r (0x44 + 8 * l) 2
def GRec.split (r : GRec) (l : Nat) : Nat := fieldAt r (0x46 + 8 * l) 1 % 128
/-- Bank ranges (R334). -/
def GRec.bank (r : GRec) (k : Nat) : Nat × Nat := (fieldAt r (0x60 + 16 * k) 8, fieldAt r (0x68 + 16 * k) 8)

/-- An entry of the frame map (R336), and its fields. -/
def GRec.slotMap (r : GRec) (sl : Nat) : Nat := fieldAt r (fieldAt r 0x18 4 + 2 * sl) 2
def GRec.isPred (r : GRec) (sl : Nat) : Bool := (r.slotMap sl).testBit 8
def GRec.isCarry (r : GRec) (sl : Nat) : Bool := (r.slotMap sl).testBit 9
def GRec.isTmp (r : GRec) (sl : Nat) : Bool := (r.slotMap sl).testBit 10
/-- The register slots: slots that hold a v register or the predicates. -/
def GRec.regSlots (r : GRec) : List Nat := (List.range r.frame).filter fun sl => !r.isTmp sl
/-- The slot that holds p0 to p6. -/
def GRec.predSlot (r : GRec) : Option Nat := (List.range r.frame).find? r.isPred

/-- A virtual circuit's far end (R336): relative die, cell, handler, port. -/
def GRec.circuit (r : GRec) (c : Nat) : Nat × Nat × Nat × Nat :=
  let x := fieldAt r (fieldAt r 0x1C 4 + 8 * c) 8
  (bitsAt x 0 2, bitsAt x 8 6, bitsAt x 14 5, bitsAt x 19 2)
/-- A range hint (R336): cell, permission, base, limit. -/
def GRec.hint (r : GRec) (i : Nat) : Nat × Nat × Nat × Nat :=
  let x := fieldAt r (fieldAt r 0x20 4 + 16 * i) 16
  (bitsAt x 0 6, bitsAt x 10 2, bitsAt x 12 52 * 4096, bitsAt x 64 64)
/-- An entry of the argument table: cell and handler (R331). -/
def GRec.arg (r : GRec) (l : Nat) : Nat × Nat :=
  let x := fieldAt r (fieldAt r 0x2C 4 + 2 * l) 2
  (bitsAt x 0 6, bitsAt x 6 5)

-- Handler entries (R335) -------------------------------------------------------------------------------------------------------------------------------

/-- A handler entry; `key` is its place in the record. -/
structure GHand where
  key : Nat
  iword : DWord
  const : Word
  pk : BitVec 4
  cwr : Bool
  crank : Nat
  srcoff : Nat
  dsts : List (BitVec 16)
  midx : Nat
  cell : Nat
  hdie : Nat
  repn : Nat
  hidx : Nat
  deriving DecidableEq, Repr

/-- A handler entry of 32 bytes. -/
def GHand.ofNat (key x : Nat) : GHand :=
  { key := key, iword := BitVec.ofNat 64 x, const := BitVec.ofNat 32 (bitsAt x 64 32), pk := BitVec.ofNat 4 (bitsAt x 96 4), cwr := bitsAt x 100 1 == 1,
    crank := bitsAt x 101 2, srcoff := bitsAt x 104 16, dsts := (List.range 4).map fun i => BitVec.ofNat 16 (bitsAt x (128 + 16 * i) 16),
    midx := bitsAt x 192 7, cell := bitsAt x 200 6, hdie := bitsAt x 206 2, repn := bitsAt x 208 3, hidx := bitsAt x 216 5 }

/-- The handlers of a record. -/
def GRec.hands (r : GRec) : List GHand := (List.range r.nhnd).map fun k => GHand.ofNat k (fieldAt r (fieldAt r 0x24 4 + 32 * k) 32)
/-- A handler by relative die, cell and index. -/
def findHand (hs : List GHand) (hdie cell hidx : Nat) : Option GHand := hs.find? fun h => h.hdie == hdie && h.cell == cell && h.hidx == hidx

/-- The instruction of a handler: checks 1 to 4 of 03 R77 with the handlers' own forms allowed. -/
def GHand.instr (h : GHand) : Option Instr :=
  match decodeWord { user := true, handler := true } h.iword with
  | .ok i => some i
  | .error _ => none
def GHand.ops (h : GHand) : Operands := ((h.instr.bind Instr.operands).getD zeroOperands)

/-- Destination fields (R335). -/
def dstValid (d : BitVec 16) : Bool := d.getLsbD 15
def dstMode (d : BitVec 16) : Nat := (d.extractLsb' 13 2).toNat
def dstPort (d : BitVec 16) : Nat := (d.extractLsb' 11 2).toNat
def dstHand (d : BitVec 16) : Nat := (d.extractLsb' 6 5).toNat
def dstCell (d : BitVec 16) : Nat := (d.extractLsb' 0 6).toNat
def dstSlot (d : BitVec 16) : Nat := (d.extractLsb' 0 8).toNat
def dstCircuit (d : BitVec 16) : Nat := (d.extractLsb' 0 4).toNat
/-- The handler and port that a destination names, for a producer on a relative die: none for a register slot. -/
def GRec.target (r : GRec) (hs : List GHand) (hdie : Nat) (d : BitVec 16) : Option (GHand × Nat) :=
  if dstMode d = 2 then none
  else if dstMode d = 3 then
    let (die, cell, hidx, port) := r.circuit (dstCircuit d)
    (findHand hs ((hdie + die) % 4) cell hidx).map fun h => (h, port)
  else (findHand hs hdie (dstCell d) (dstHand d)).map fun h => (h, dstPort d)

/-- Where a placed branch goes, from HEAD (03 R76): none where a register names it. -/
def GHand.branchTo (h : GHand) (k : SMap 32) : Option Int :=
  match h.ops.b with
  | .imm v => some ((h.srcoff : Int) + 8 * v.toInt)
  | .k i => some ((h.srcoff : Int) + (smGet k i.toNat).toInt)
  | .const _ => some ((h.srcoff : Int) + h.const.toInt)
  | .reg _ => none
/-- A mapped branch (R312): its target is the head, a clause header inside the body, or the exit. `heads` are the offsets of the body's clause headers. -/
def GHand.mapped (h : GHand) (r : GRec) (heads : List Nat) (k : SMap 32) : Bool :=
  match h.branchTo k with
  | some t => decide (0 ≤ t) && (t == 0 || t == (r.bodyb : Int) || heads.contains t.toNat)
  | none => false

/-- OP of a handler. -/
def GHand.op (h : GHand) : Nat := wordOp h.iword
/-- What a handler is (R314). Grid-only operations are arithmetic. -/
def GHand.fate (h : GHand) (r : GRec) (heads : List Nat) (k : SMap 32) : Fate :=
  if h.instr.isNone then .refuse
  else if h.op ≥ 0xE0 then .arith
  else match fateOf h.op (wordFn h.iword) h.ops with
    | .steer => if h.mapped r heads k then .steer else .drain
    | f => f

/-- `tag.open` and `tag.close`. -/
def GHand.isOpen (h : GHand) : Bool := h.op == 0xB5
def GHand.isClose (h : GHand) : Bool := h.op == 0xB6
/-- Engine issues and memory forms. -/
def GHand.isMem (h : GHand) : Bool := decide (0x60 ≤ h.op ∧ h.op < 0x78) || (h.op == 0x80 || h.op == 0x81 || h.op == 0x82 || h.op == 0x84 || h.op == 0x87)
/-- Forms whose effect is held for the commit (R328): stores, atomics, `red`, `stv`, `reclaim`, and engine issues. A release fence waits with them. -/
def GHand.held (h : GHand) : Bool :=
  match h.instr with
  | some (.st _ _) | some (.sts _ _) | some (.stp _ _) | some (.atom _ _) | some (.atomCas _) | some (.atomFadd _) | some (.red _ _)
  | some (.redFadd _) | some (.stv _) | some (.reclaim _) | some (.btCopy _) | some (.btGather _) | some (.btScatter _) | some (.lay _)
  | some (.btTest _) => true
  | some (.fence o) => isRel o && Scope.wide o.sc
  | _ => false
/-- Forms whose result R313 bars from addresses and drain points. -/
def GHand.barred (h : GHand) : Bool := h.instr.any barredForm

/-- The level whose own body holds a handler. -/
def GHand.level (h : GHand) (r : GRec) : Nat :=
  (List.range r.levels).foldl (fun m l => if r.ihead l ≤ h.srcoff ∧ h.srcoff < r.iend l then l else m) 0
/-- The handler stands after its level's inner loop in program order (R327). -/
def GHand.post (h : GHand) (r : GRec) : Bool :=
  let l := h.level r
  decide (l + 1 < r.levels) && (if h.isMem then decide (r.split (l + 1) ≤ h.midx) else decide (r.iend (l + 1) ≤ h.srcoff))

/-- MIDX of the tokens that a handler sends (R327): its static index where it is a memory operation, else zero. -/
def GHand.tokMidx (h : GHand) : Nat := if h.isMem then h.midx else 0

/-- What D is for a handler: a source of stores and of `stv`; a source and the result of `tern`, `bfi`, `movi` and `loop`. -/
def GHand.dSource (h : GHand) : Bool :=
  match h.instr with
  | some (.st _ _) | some (.sts _ _) | some (.stp _ _) | some (.stv _) | some (.tern _) | some (.bfi _) | some (.movi _) | some (.loop _) => true
  | _ => false
def GHand.dResult (h : GHand) : Bool :=
  match h.instr with
  | some (.st _ _) | some (.sts _ _) | some (.stp _ _) | some (.stv _) => false
  | _ => true
/-- C is a result, the second one where D is a result too. -/
def GHand.cResult (h : GHand) : Bool :=
  match h.instr with
  | some (.iaddc _) | some (.isubb _) | some (.ldv _) | some (.stv _) | some (.cvtBlkTo _) => true
  | _ => false

/-- Where a token to a port goes: a slot with how many words it takes, a predicate, or nowhere. -/
inductive PortUse where
  | slot (first words : Nat)
  | pred (p : Nat)
  | none
  deriving DecidableEq, Repr

/-- The token port of a register field, 0 to 3 for A, B, C, D: port C of a form whose D is a source stands for D (log entry 22, DEDUCED). -/
def GHand.fieldPort (h : GHand) (field : Nat) : Nat := if field = 3 || (field = 2 && h.dSource) then (if field = 3 then 2 else 4) else field
/-- Slots of its frame that a handler reads: its sources that no token port brings, and the predicates' slot where it names a predicate beside port G. -/
def GHand.slotsRead (h : GHand) (r : GRec) : List Nat :=
  match h.instr with
  | none => []
  | some i =>
    let regs := ((regUses i).filter fun u => u.reads && !h.pk.getLsbD (h.fieldPort u.field)).flatMap fun u => (List.range u.count).map (u.first + ·)
    let preds := (predUses i).filter fun p => p != 7
    let own := if h.pk.getLsbD 3 then preds.erase h.ops.guard.p.val else preds
    regs ++ (if own.isEmpty then [] else r.predSlot.toList)
/-- Those that decide a memory form's address, guard or lanes. -/
def GHand.addressSlots (h : GHand) (r : GRec) : List Nat :=
  match h.instr with
  | none => []
  | some i =>
    let regs := ((regUses i).filter fun u => (u.field == 0 || (u.field == 1 && decide (0x60 ≤ h.op ∧ h.op ≤ 0x67)))
      && !h.pk.getLsbD (h.fieldPort u.field)).flatMap fun u => (List.range u.count).map (u.first + ·)
    regs ++ (if h.ops.guard.p.val = 7 || h.pk.getLsbD 3 then [] else r.predSlot.toList)
/-- Slots, with those that follow them, that handlers write in the next frame (mode 10). -/
def carriedSlots (hs : List GHand) : List Nat :=
  hs.flatMap fun h => (h.dsts.filter fun d => dstValid d && dstMode d == 2).flatMap fun d =>
    (List.range (max 1 (((h.instr.bind Instr.form).map fun f => f.d.regs h.ops).getD 1))).map fun n => dstSlot d + n

/-- A port's operand (R321): port C of a form whose D is a source stands for D (log entry 22, DEDUCED). -/
def GHand.portUse (h : GHand) (port : Nat) : PortUse :=
  match h.instr.bind Instr.form with
  | Option.none => .none
  | some f =>
    let o := h.ops
    let use (c : Cls) (v : Field) : PortUse := match c with
      | .p => .pred v.toNat
      | _ => if c.regs o = 0 then .none else .slot v.toNat (c.regs o)
    match port with
    | 0 => use f.a o.a
    | 1 => match o.b with
      | .reg x => use f.b x
      | _ => .none
    | 2 => if h.dSource then use f.d o.d else use f.c o.c
    | _ => .pred o.guard.p.val

-- The checks (R337) --------------------------------------------------------------------------------------------------------------------------------------

/-- Sections of a record: offset, alignment, length. -/
def GRec.sections (r : GRec) : List (Nat × Nat × Nat) :=
  [(0, 8, 224), (fieldAt r 0x18 4, 8, 2 * r.frame), (fieldAt r 0x1C 4, 8, 8 * r.nvc), (fieldAt r 0x20 4, 8, 16 * r.nrng),
    (fieldAt r 0x24 4, 32, 32 * r.nhnd), (fieldAt r 0x2C 4, 8, 2 * r.narg)].filter fun s => s.2.2 ≠ 0

/-- Two sections that meet. -/
def sectionsMeet : List (Nat × Nat × Nat) → Bool
  | [] => false
  | a :: t => (t.any fun b => decide (a.1 < b.1 + b.2.2 ∧ b.1 < a.1 + a.2.2)) || sectionsMeet t

/-- PL_FORMAT, apart from the head clause. -/
def GRec.formatBad (r : GRec) : Bool :=
  let psize := fieldAt r 4 4
  let entry (k : Nat) : Nat := fieldAt r (fieldAt r 0x24 4 + 32 * k) 32
  let lvl (l : Nat) : Nat := fieldAt r (0x40 + 8 * l) 8
  let slotBad (sl : Nat) : Bool := bitsAt (r.slotMap sl) 11 5 ≠ 0 || (r.isTmp sl && bitsAt (r.slotMap sl) 0 10 ≠ 0)
  let dstBad (d : BitVec 16) : Bool :=
    if dstMode d = 2 then d.extractLsb' 8 5 != 0 else dstMode d = 3 && d.extractLsb' 4 9 != 0
  fieldAt r 0 4 ≠ 1 || psize % 64 ≠ 0 || psize ≠ r.length || fieldAt r 0x08 4 % 8 ≠ 0
    || bitsAt (fieldAt r 0x12 1) 2 6 ≠ 0 || bitsAt (fieldAt r 0x13 1) 3 5 ≠ 0 || r.frame = 0 || r.frame > 256 || r.nhnd = 0
    || bitsAt (fieldAt r 0x2A 1) 5 3 ≠ 0 || r.narg > 32 || (!r.argUsed && r.narg ≠ 0) || r.nrng > 256 || fieldAt r 0x30 16 ≠ 0
    || ((List.range 4).any fun l => if l < r.levels then bitsAt (lvl l) 55 9 ≠ 0 else lvl l ≠ 0)
    || (r.sections.any fun s => s.1 % s.2.1 ≠ 0 || psize < s.1 + s.2.2) || sectionsMeet r.sections
    || (List.range r.frame).any slotBad
    || ((List.range r.nvc).any fun c => let x := fieldAt r (fieldAt r 0x1C 4 + 8 * c) 8
        bitsAt x 2 6 ≠ 0 || bitsAt x 21 43 ≠ 0 || bitsAt x 0 2 = 0)
    || ((List.range r.nrng).any fun i => bitsAt (fieldAt r (fieldAt r 0x20 4 + 16 * i) 2) 6 4 ≠ 0 || (r.hint i).2.1 = 0 || (r.hint i).2.2.2 % 4096 ≠ 0)
    || ((List.range r.narg).any fun l => bitsAt (fieldAt r (fieldAt r 0x2C 4 + 2 * l) 2) 11 5 ≠ 0)
    || (List.range r.nhnd).any fun k =>
        bitsAt (entry k) 103 1 ≠ 1 || bitsAt (entry k) 120 8 ≠ 0 || bitsAt (entry k) 199 1 ≠ 0 || bitsAt (entry k) 211 5 ≠ 0 || bitsAt (entry k) 221 35 ≠ 0
          || (GHand.ofNat k (entry k)).dsts.any fun d => dstValid d && dstBad d

/-- PL_LIMIT. -/
def GRec.limitBad (r : GRec) (hs : List GHand) : Bool :=
  let spans (h : GHand) : List (Nat × Nat) := ((h.instr.bind Instr.form).map fun f => f.spans h.ops).getD []
  r.nhnd > 2048 || r.nvc > 16
    || (hs.any fun h => (hs.filter fun g => g.hdie == h.hdie && g.cell == h.cell).length > 32
        || (hs.filter fun g => g.hdie == h.hdie && g.cell == h.cell && g.hidx == h.hidx).length > 1)
    || (hs.any fun h => (spans h).any (fun s => decide (r.frame < s.1 + s.2))
        || h.dsts.any fun d => dstValid d && dstMode d == 2 && decide (r.frame ≤ dstSlot d))
    || (List.range r.levels).any fun l => (hs.filter fun h => h.isMem && h.repn == 0 && h.level r == l).length > 128

/-- Whether a cell holds handlers of a fate (R317). -/
def cellHolds (cell op : Nat) (f : Fate) : Bool :=
  if cell < 8 then f == .memory || f == .engine || f == .fileA || f == .steer || f == .drain
  else if cell < 48 then op < 0xE0 && (f == .arith || f == .constant || f == .drain)
  else if cell < 52 then op == 0xE0 + (cell - 48)
  else if cell < 54 then false
  else if cell < 56 then f == .special
  else f == .memory

/-- PL_CELL. -/
def GRec.cellBad (r : GRec) (heads : List Nat) (k : SMap 32) (hs : List GHand) : Bool :=
  hs.any fun h => h.instr.isNone || !cellHolds h.cell h.op (h.fate r heads k) || h.iword.getLsbD 0
    || ((h.isOpen || h.isClose) && (h.iword.extractLsb' 40 8 != 0 || h.iword.extractLsb' 32 8 != 0))

/-- What a token of mode 10 to a slot, and those after it, feeds of a handler that reads them there: 3 its guard, 4 an address, 5 another operand. `p` is
the predicate that the token's producer writes. -/
def GHand.readsAs (g : GHand) (r : GRec) (sl n : Nat) (p : Option Nat) : List Nat :=
  let meets (l : List Nat) : Bool := l.any fun x => decide (sl ≤ x ∧ x < sl + n)
  let guard := g.ops.guard.p.val
  let guarded := guard != 7 && !g.pk.getLsbD 3 && meets r.predSlot.toList && p.all fun x => x == guard
  (if guarded then [3] else []) ++ (if g.isMem && meets ((g.addressSlots r).filter fun x => some x != r.predSlot) then [4] else [])
    ++ (if meets (g.slotsRead r) then [5] else [])

/-- Where the tokens of a handler go within one iteration of a level, its inner iterations with it (R313): handlers with the ports that they come to, or
what slots of a frame feed there; of a `tag.open` of an inner level, that level's lanes. -/
def GRec.feeds (r : GRec) (hs : List GHand) (level : Nat) (h : GHand) : List (GHand × Nat) :=
  let inner := decide (level < h.level r)
  let pred := match h.instr.bind Instr.form with
    | some f => if f.d = .p then some h.ops.d.toNat else none
    | none => none
  let readers (d : BitVec 16) : List (GHand × Nat) :=
    if !inner && h.post r then []
    else (hs.filter fun g => decide (level < g.level r) || (g.level r == level && g.post r)).flatMap fun g =>
      (g.readsAs r (dstSlot d) (max 1 (((h.instr.bind Instr.form).map fun f => f.d.regs h.ops).getD 1)) pred).map fun x => (g, x)
  (if h.isOpen && decide (level < h.ops.c.toNat) then (hs.filter fun g => g.level r == h.ops.c.toNat).map fun g => (g, 3) else [])
    ++ (h.dsts.filter dstValid).flatMap fun d =>
      if dstMode d = 2 then readers d
      else if dstMode d = 1 && !inner then []
      else (r.target hs h.hdie d).toList

/-- Handlers that depend on some handlers, added to them. -/
def GRec.reach (r : GRec) (hs : List GHand) (level : Nat) : Nat → List Nat → List Nat
  | 0, ks => ks
  | n + 1, ks =>
    let new := (hs.filter fun h => ks.contains h.key).flatMap fun h => (r.feeds hs level h).map fun t => t.1.key
    let all := (ks ++ new).eraseDups
    if all.length = ks.length then ks else GRec.reach r hs level n all

/-- A token to this port decides a memory form's address or guard. -/
def GHand.addressPort (h : GHand) (port : Nat) : Bool :=
  port == 0 || port == 3 || (port == 1 && (decide (0x60 ≤ h.op ∧ h.op ≤ 0x67)))

/-- The result of a barred form of some level decides an address, a guard or lanes of a memory operation of a level, or a drain point there (R313). The lanes
of a token depend on it from a steer or a guard onward. -/
def GRec.decidesBad (r : GRec) (heads : List Nat) (k : SMap 32) (hs : List GHand) (level : Nat) (from_ at_ : GHand → Bool) : Bool :=
  let first := (hs.filter fun h => h.barred && from_ h).flatMap (r.feeds hs level)
  let reached := r.reach hs level hs.length ((first.map fun x => x.1.key).eraseDups)
  let all := first ++ (hs.filter fun h => reached.contains h.key).flatMap (r.feeds hs level)
  let steered := (hs.filter fun h => reached.contains h.key && h.fate r heads k == .steer).map GHand.key
  let masked := r.reach hs level hs.length ((steered ++ (all.filter fun x => x.2 == 3).map fun x => x.1.key).eraseDups)
  (hs.any fun h => reached.contains h.key && at_ h && h.fate r heads k == .drain)
    || (all.any fun x => x.1.isMem && at_ x.1 && (x.1.addressPort x.2 || x.2 == 4))
    || (hs.any fun h => h.isMem && at_ h && masked.contains h.key)

/-- R313's last criterion is broken at some level: by results of its own operations, within it and inside it, or by those of its inner iterations. -/
def GRec.dependsBad (r : GRec) (heads : List Nat) (k : SMap 32) (hs : List GHand) : Bool :=
  (List.range r.levels).any fun l =>
    r.decidesBad heads k hs l (fun h => h.level r == l) (fun _ => true) || r.decidesBad heads k hs l (fun h => decide (l < h.level r)) fun h => h.level r == l

/-- PL_ROUTE. -/
def GRec.routeBad (r : GRec) (heads : List Nat) (k : SMap 32) (hs : List GHand) : Bool :=
  let dstBad (h : GHand) (d : BitVec 16) : Bool :=
    dstValid d && (if dstMode d = 2 then !r.isCarry (dstSlot d)
      else (dstMode d == 3 && decide (r.nvc ≤ dstCircuit d)) || match r.target hs h.hdie d with
        | none => true
        | some (g, p) => !g.pk.getLsbD p)
  let slots := hs.flatMap fun h => h.dsts.filterMap fun d => if dstValid d && dstMode d == 2 then some (dstSlot d) else none
  let words (h : GHand) : Nat := ((h.instr.bind Instr.form).map fun f => max 1 (f.d.regs h.ops)).getD 1
  let covered := slots ++ hs.flatMap fun h => (h.dsts.filter fun d => dstValid d && dstMode d == 2).flatMap fun d =>
    (List.range (words h)).map fun i => dstSlot d + i
  (hs.any fun h => h.dsts.any (dstBad h))
    || ((List.range r.frame).any fun sl => r.isCarry sl && !covered.contains sl)
    || ((List.range r.narg).any fun l => match findHand hs 0 (r.arg l).1 (r.arg l).2 with
        | some h => !h.cwr
        | none => true)
    || (hs.any fun h => (h.op == 0xA0 || h.op == 0xA5)
        && (!heads.contains h.srcoff || (!h.mapped r heads k && h.dsts.any dstValid)))
    || r.dependsBad heads k hs

/-- The tags of a record. -/
def GRec.allTags (r : GRec) : Nat := (List.range r.levels).foldl (fun n l => n + r.tags l) 0
/-- PL_TAG, as far as the record and the launch's caps decide it (02 R39, R324): what a core that runs nothing else could not hold fails too. -/
def GRec.tagBad (r : GRec) (tagh : List Nat) : Bool :=
  decide (Config.coreTags < r.allTags) || decide (Config.frameBytes < r.allTags * 128 * r.frame) || (List.range r.levels).any fun l =>
    let least := if l = 0 then 1 else 2
    let cap := 4 * (tagh[l]?).getD 0
    r.tags l < least || (cap ≠ 0 && max cap least < r.tags l)

/-- PL_BANK. -/
def GRec.bankBad (r : GRec) : Bool :=
  let used := (List.range 8).filterMap fun k => if r.bank k = (0, 0) then none else some (r.bank k)
  let rec meets : List (Nat × Nat) → Bool
    | [] => false
    | a :: t => (t.any fun b => decide (a.1 < b.2 ∧ b.1 < a.2)) || meets t
  (used.any fun b => b.1 % 128 ≠ 0 || b.2 % 128 ≠ 0) || meets used

/-- The checks of R337 in the order of its table: the status, 0 where all pass. `lmid` is that of the kernel's head clause, none where the head is no
clause. -/
def GRec.status (r : GRec) (heads : List Nat) (k : SMap 32) (tagh : List Nat) (headOk : Bool) : Nat :=
  let hs := r.hands
  if r.formatBad || !headOk then 0x0A01
  else if r.limitBad hs then 0x0A02
  else if r.cellBad heads k hs then 0x0A03
  else if r.routeBad heads k hs then 0x0A04
  else if r.tagBad tagh then 0x0A05
  else if r.bankBad then 0x0A06
  else if !r.cut && (r.nvc ≠ 0 || hs.any fun h => h.hdie ≠ 0) then 0x0A07
  else 0

end Sys2Proof.Machine
end

