-- ==== Sys2Proof/Machine/Float.lean ====
section
/-!
DEFINITION. Machine/Float.lean: binary32 and packed 16-bit arithmetic, group 0x3, and the special functions 0x40 to 0x47 (05 R128 to R135).
-/
namespace Sys2Proof.Machine

/-- Rounding mode of a form's MOD (04 R88). -/
def modeOf (o : Operands) : Rnd := Rnd.ofBits o.mod

/-- A binary32 form of two sources. -/
def float2 (o : Operands) (g : Nat → Nat → Nat) (s : State) : State :=
  lane32 o (fun s f w l => BitVec.ofNat 32 (g (srcA32 f w o l).toNat (srcB32 s f w o l).toNat)) s
/-- fadd (R128). -/
def execFadd (o : Operands) (s : State) : Out := .next (float2 o (fmt32.add (modeOf o)) s)
/-- fsub (R128). -/
def execFsub (o : Operands) (s : State) : Out := .next (float2 o (fmt32.sub (modeOf o)) s)
/-- fmul (R128). -/
def execFmul (o : Operands) (s : State) : Out := .next (float2 o (fmt32.mul (modeOf o)) s)
/-- ffma (R128): one rounding. -/
def execFfma (o : Operands) (s : State) : Out :=
  .next (lane32 o (fun s f w l =>
    BitVec.ofNat 32 (fmt32.fma (modeOf o) (srcA32 f w o l).toNat (srcB32 s f w o l).toNat (srcC32 w o l).toNat)) s)
/-- fmin (R129). -/
def execFmin (o : Operands) (s : State) : Out := .next (float2 o (fmt32.minmax false) s)
/-- fmax (R129). -/
def execFmax (o : Operands) (s : State) : Out := .next (float2 o (fmt32.minmax true) s)
/-- fcmp (R130). -/
def execFcmp (op : FcmpOp) (o : Operands) (s : State) : Out :=
  .next (laneP o (fun s f w l => fcmpTrue op (srcA32 f w o l).toNat (srcB32 s f w o l).toNat) s)
/-- fclass (R131): the mask is the imm8 itself. -/
def execFclass (o : Operands) (s : State) : Out :=
  .next (laneP o (fun _ f w l => o.b.field.getLsbD (fclassBit (srcA32 f w o l).toNat)) s)

/-- Each half of the inputs through a 16-bit operation (R132). -/
def halves (g : Nat → Nat → Nat → Nat) (a b c : Word) : Word :=
  let h (i : Nat) : BitVec 16 := BitVec.ofNat 16 (g (a.extractLsb' i 16).toNat (b.extractLsb' i 16).toNat (c.extractLsb' i 16).toNat)
  (h 16 ++ h 0 : BitVec 32)
/-- A packed form of two sources. -/
def packed2 (o : Operands) (g : Nat → Nat → Nat) (s : State) : State :=
  lane32 o (fun s f w l => halves (fun a b _ => g a b) (srcA32 f w o l) (srcB32 s f w o l) 0) s
/-- hadd2 (R132). -/
def execHadd2 (o : Operands) (s : State) : Out := .next (packed2 o (o.ty.fmt.add (modeOf o)) s)
/-- hmul2 (R132). -/
def execHmul2 (o : Operands) (s : State) : Out := .next (packed2 o (o.ty.fmt.mul (modeOf o)) s)
/-- hfma2 (R132). -/
def execHfma2 (o : Operands) (s : State) : Out :=
  .next (lane32 o (fun s f w l => halves (o.ty.fmt.fma (modeOf o)) (srcA32 f w o l) (srcB32 s f w o l) (srcC32 w o l)) s)
/-- hmin2 (R132). -/
def execHmin2 (o : Operands) (s : State) : Out := .next (packed2 o (o.ty.fmt.minmax false) s)
/-- hmax2 (R132). -/
def execHmax2 (o : Operands) (s : State) : Out := .next (packed2 o (o.ty.fmt.minmax true) s)

/-- fdot2 (R133): both products and both sums exact, one rounding. -/
def fdot2V (f : Fmt) (mode : Rnd) (a b c : Word) : Nat :=
  let p (i : Nat) : FVal := (f.decode (a.extractLsb' i 16).toNat).mul (f.decode (b.extractLsb' i 16).toNat)
  fmt32.round mode false (FVal.sum mode [p 0, p 16, fmt32.decode c.toNat])
/-- fdot2 (R133). -/
def execFdot2 (o : Operands) (s : State) : Out :=
  .next (lane32 o (fun s f w l => BitVec.ofNat 32 (fdot2V o.ty.fmt (modeOf o) (srcA32 f w o l) (srcB32 s f w o l) (srcC32 w o l))) s)

/-- A long-latency form whose result is a function of A (R134). -/
def llUnary (o : Operands) (g : Word → Word) (s : State) : State :=
  withLL o (fun f w act s =>
    s.llResult f w act o.fsel [o.d.toNat] ((lanesOf act).map fun l => { lane := l, reg := o.d.toNat, val := g (srcA32 f w o l) })) s
/-- frcp (R134). -/
def execFrcp (o : Operands) (s : State) : Out := .next (llUnary o (sfValue .rcp) s)
/-- frsq (R134). -/
def execFrsq (o : Operands) (s : State) : Out := .next (llUnary o (sfValue .rsq) s)
/-- fsqrt (R134). -/
def execFsqrt (o : Operands) (s : State) : Out := .next (llUnary o (sfValue .sqrt) s)
/-- fexp2 (R134). -/
def execFexp2 (o : Operands) (s : State) : Out := .next (llUnary o (sfValue .exp2) s)
/-- flog2 (R134). -/
def execFlog2 (o : Operands) (s : State) : Out := .next (llUnary o (sfValue .log2) s)
/-- fsin (R134). -/
def execFsin (o : Operands) (s : State) : Out := .next (llUnary o (sfValue .sin) s)
/-- fcos (R134). -/
def execFcos (o : Operands) (s : State) : Out := .next (llUnary o (sfValue .cos) s)
/-- ftanh (R134). -/
def execFtanh (o : Operands) (s : State) : Out := .next (llUnary o (sfValue .tanh) s)

end Sys2Proof.Machine
end

