-- ==== Sys2Proof/Machine/Convert.lean ====
section
/-!
DEFINITION. Machine/Convert.lean: cvt and the block conversions (05 R136 to R140).
-/
namespace Sys2Proof.Machine

/-- A conversion through a slot raises SLOT_FORMAT, or goes on with the slot (04 R96). -/
def withSlot (o : Operands) (accept : SlotFmt → Bool) (k : Slot → SlotFmt → Focus → Warp → LaneMask → State → State) (s : State) : State :=
  withSources o (fun f w act s =>
    let sl := s.slotOf w o.fs.toNat
    match sl.format? with
    | some fm => if accept fm then k sl fm f w act s else s.trapHere f w act { kind := kSlotFormat }
    | none => s.trapHere f w act { kind := kSlotFormat }) s

/-- A value written in a type (R137): integers are rounded and clamped, NaN gives 0; floats are rounded, and saturated where `sat` says so (R91). -/
def writeAs (t : Ty) (mode : Rnd) (sat : Bool) (x : FVal) : DWord :=
  if t.isFloat then BitVec.ofNat 64 (t.fmt.round mode sat x)
  else t.widen (match x with
    | .nan => 0
    | .inf neg => if neg then t.minInt else t.maxInt
    | .num _ _ _ => t.clamp ((x.toInt? mode).getD 0))

/-- A value read from a type (R137). -/
def readAs (t : Ty) (x : DWord) : FVal :=
  if t.isFloat then t.fmt.decode (x.toNat % 2 ^ t.bits) else .ofInt (t.intOf x)

/-- cvt without a slot: integer to integer clamps exactly; everything else is rounded by MOD (R137). -/
def cvtV (dst src : Ty) (mode : Rnd) (a : DWord) : DWord :=
  if src.isFloat then writeAs dst mode false (readAs src a)
  else if dst.isFloat then writeAs dst mode false (readAs src a)
  else dst.widen (dst.clamp (src.intOf a))

/-- cvt from a slot's format (R137): the value times 2^S, rounded and saturated as the slot says (R91). -/
def cvtFromSlot (sl : Slot) (fm : Fmt) (scale : Int) (dst : Ty) (a : DWord) : DWord :=
  writeAs dst sl.mode sl.sat ((fm.decode (a.toNat % 2 ^ fm.width)).scale scale)
/-- cvt into a slot's format (R137): the value over 2^S, rounded and saturated as the slot says. -/
def cvtToSlot (sl : Slot) (fm : Fmt) (scale : Int) (src : Ty) (a : DWord) : DWord :=
  BitVec.ofNat 64 (fm.round sl.mode sl.sat ((readAs src a).scale (-scale)))

/-- cvt (R136, R137). -/
def execCvt (o : Operands) (s : State) : Out :=
  let src := (o.srcTy).getD .n32
  .next (
    if o.ty == .slot then
      withSlot o (fun fm => fm.published.isSome) (fun sl fm f w act s =>
        let fmt := fm.published.getD fmt32
        s.setWarp (w.setReg act o.d.toNat fun l =>
          (cvtToSlot sl fmt (sl.scaleExp (s.kreg w)) src (srcWide src f w o l)).setWidth 32)) s
    else if src == .slot then
      withSlot o (fun fm => fm.published.isSome) (fun sl fm f w act s =>
        let fmt := fm.published.getD fmt32
        let v (l : Nat) : DWord := cvtFromSlot sl fmt (sl.scaleExp (s.kreg w)) o.ty ((srcA32 f w o l).setWidth 64)
        s.setWarp (if is64 o then w.setPair act o.d.toNat v else w.setReg act o.d.toNat fun l => (v l).setWidth 32)) s
    else laneWide o (fun _ f w l => cvtV o.ty src (modeOf o) (srcWide src f w o l)) s)

/-- cvt.blk.to (R139): the lanes of the bundle form one block, absent lanes as +0; codes to D, the exponent pair to C. -/
def execCvtBlkTo (o : Operands) (s : State) : Out :=
  .next (withSlot o (fun fm => fm.dxWidth.isSome) (fun sl fm f w act s =>
    let wd := fm.dxWidth.getD 6
    let x := (List.range 32).map fun i => if act.getLsbD i then fmt32.decode (srcA32 f w o i).toNat else .num false 0 0
    let r := dxEncode sl wd (sl.scaleExp (s.kreg w)) x
    let w1 := w.setReg act o.d.toNat fun l => BitVec.ofNat 32 ((r.1[l]?).getD 0)
    s.setWarp (w1.setReg act o.c.toNat fun _ => BitVec.ofNat 32 (r.2.2 * 256 + r.2.1))) s)

/-- cvt.blk.from (R140): each lane decodes its own code with the exponent pair in C. -/
def execCvtBlkFrom (o : Operands) (s : State) : Out :=
  .next (withSlot o (fun fm => fm.dxWidth.isSome) (fun sl fm f w act s =>
    let wd := fm.dxWidth.getD 6
    s.setWarp (w.setReg act o.d.toNat fun l =>
      let c := srcC32 w o l
      let v := dxValue ((srcA32 f w o l).toNat % 2 ^ (wd + 2)) (c.extractLsb' 0 8).toNat (c.extractLsb' 8 8).toNat wd (sl.scaleExp (s.kreg w))
      BitVec.ofNat 32 (fmt32.round .rn false v))) s)

end Sys2Proof.Machine
end

