-- ==== Sys2Proof/Machine/Engines.lean ====
section
/-!
DEFINITION. Machine/Engines.lean: block transfers and the layout engine: descriptors, checks at acceptance, chunks, faults, waiting and cancelling
(09 R234 to R246, R257 to R260, R423).
-/
namespace Sys2Proof.Machine

/-- Results gathered in order; the first failure. -/
def collect {α : Type} : List (Except (Nat × Nat) α) → Except (Nat × Nat) (List α)
  | [] => .ok []
  | .error e :: _ => .error e
  | .ok x :: t => match collect t with
    | .ok xs => .ok (x :: xs)
    | .error e => .error e

/-- A signed 32-bit field. -/
def intAt (bs : List Byte) (off : Nat) : Int := (BitVec.ofNat 32 (fieldAt bs off 4)).toInt
/-- Some byte of a field is not zero. -/
def nonzero (bs : List Byte) (off n : Nat) : Bool := fieldAt bs off n != 0

/-- An address of an engine, exact: global, or an offset beside the member bits of a stage address (R239). -/
inductive EAddr where
  | glob (a : Int)
  | stage (member : Word) (off : Int)
  deriving DecidableEq, Repr

/-- Where an address lies. -/
inductive Place where
  | mem (va : Nat)
  | stage (wg off : Nat)
  deriving DecidableEq, Repr

/-- Bytes that a side touches, from the lowest to above the highest; the space is none for global memory, else the member's rank. -/
structure Extent where
  space : Option Nat
  lo : Int
  hi : Int
  deriving DecidableEq, Repr

def Extent.meets (a b : Extent) : Bool := a.space == b.space && decide (a.lo < b.hi ∧ b.lo < a.hi)

-- Block-transfer descriptors (R238) ----------------------------------------------------------------------------------------------------------

def btSsp (d : List Byte) : Bool := fieldAt d 0x10 4 % 2 == 1
def btDsp (d : List Byte) : Bool := bitsAt (fieldAt d 0x10 4) 1 1 == 1
def btSig (d : List Byte) : Bool := bitsAt (fieldAt d 0x10 4) 2 1 == 1
def btRowb (d : List Byte) : Nat := fieldAt d 0x14 4
def btNrow (d : List Byte) : Nat := fieldAt d 0x18 4
/-- Bytes of the tile (R239). -/
def btTotal (d : List Byte) : Nat := btRowb d * btNrow d

/-- A side of a transfer: whether it is a stage side, its address field, its stride. -/
def btStage (d : List Byte) (src : Bool) : Bool := if src then btSsp d else btDsp d
def btField (d : List Byte) (src : Bool) : Nat := fieldAt d (if src then 0 else 8) 8
def btStride (d : List Byte) (src : Bool) : Int := intAt d (if src then 0x20 else 0x24)

/-- The rank of the member that a stage address names. -/
def stageRank (g : Wg) (a : Word) : Nat := if a.getLsbD 20 then (a.extractLsb' 18 2).toNat else g.clrank
/-- A stage address without its offset. -/
def stageHigh (a : Word) : Word := a &&& 0xFFFC0000#32

/-- Base of a side as a number, and the space it lies in. -/
def btBase (d : List Byte) (src : Bool) : Int :=
  if btStage d src then ((btField d src % 2 ^ 18 : Nat) : Int) else (btField d src : Int)
def btSpace (g : Wg) (d : List Byte) (src : Bool) : Option Nat :=
  if btStage d src then some (stageRank g (BitVec.ofNat 32 (btField d src))) else none

/-- Row k of a side: its first address, its extent, the extent of every row. -/
def btRowAt (d : List Byte) (src : Bool) (k : Int) : EAddr :=
  let a := btBase d src + k * btStride d src
  if btStage d src then .stage (stageHigh (BitVec.ofNat 32 (btField d src))) a else .glob a
def btRowExtent (g : Wg) (d : List Byte) (src : Bool) (k : Int) : Extent :=
  let a := btBase d src + k * btStride d src
  { space := btSpace g d src, lo := a, hi := a + (btRowb d : Int) }
def btExtent (g : Wg) (d : List Byte) (src : Bool) : Extent :=
  let last : Int := ((btNrow d : Int) - 1) * btStride d src
  { space := btSpace g d src, lo := btBase d src + min 0 last, hi := btBase d src + max 0 last + (btRowb d : Int) }

/-- Bytes of the signal word. -/
def sigExtent (g : Wg) (a : Word) : Extent := { space := some (stageRank g a), lo := (a.extractLsb' 0 18).toNat, hi := (a.extractLsb' 0 18).toNat + 4 }
def btSigAddr (d : List Byte) : Word := BitVec.ofNat 32 (fieldAt d 0x28 4)
def btIndexAddr (d : List Byte) : Word := BitVec.ofNat 32 (fieldAt d 0x30 4)

/-- A stage address in reach (R207): peers only at .cl and above. -/
def State.stageOk (s : State) (g : Wg) (a : Word) (off : Int) (n : Nat) (peers : Bool) : Bool :=
  match s.stageAddr g a off 0 n peers with
  | .ok _ => true
  | .error _ => false

/-- A row in reach: always for global rows. -/
def State.rowOk (s : State) (g : Wg) (e : EAddr) (n : Nat) (peers : Bool) : Bool :=
  match e with
  | .glob _ => true
  | .stage m off => s.stageOk g m off n peers

/-- The checks of R240 at acceptance, in the order of its table: the status, 0 where all pass. -/
def State.btStatus (s : State) (g : Wg) (form : EngForm) (d : List Byte) (peers : Bool) : Nat :=
  let rows := List.range (btNrow d)
  let sig := sigExtent g (btSigAddr d)
  let hits := btSig d && form != .scatter && rows.any fun r => (btRowExtent g d false (r : Int)).meets sig
  let high (src : Bool) : Bool := btStage d src && btField d src ≥ 2 ^ 32
  if bitsAt (fieldAt d 0x10 4) 3 29 ≠ 0 || nonzero d 0x1C 4 || nonzero d 0x34 12 || high true || high false
      || btRowb d = 0 || btRowb d > 65536 || btNrow d = 0 || btNrow d > 65536 || btTotal d > 65536
      || (form == .copy && btIndexAddr d != 0) || hits then 0x0401
  else if (btSig d && (btSigAddr d).toNat % 4 ≠ 0) || (form != .copy && (btIndexAddr d).toNat % 4 ≠ 0) then 0x0402
  else if (form == .copy && rows.any fun r => [true, false].any fun src => !s.rowOk g (btRowAt d src (r : Int)) (btRowb d) peers)
      || (form != .copy && !s.stageOk g (btIndexAddr d) 0 (4 * btNrow d) peers)
      || (btSig d && !s.stageOk g (btSigAddr d) 0 4 peers) then 0x0403
  else if form == .copy && (btExtent g d true).meets (btExtent g d false) then 0x0404
  else 0

-- Layout commands (R257 to R259) ----------------------------------------------------------------------------------------------------------------

def layNin (d : List Byte) : Nat := fieldAt d 0x10 4 % 8 + 1
def layGroup (d : List Byte) : Nat := 512 * 2 ^ bitsAt (fieldAt d 0x10 4) 3 4
def laySig (d : List Byte) : Bool := bitsAt (fieldAt d 0x10 4) 7 1 == 1
def laySigAddr (d : List Byte) : Word := BitVec.ofNat 32 (fieldAt d 0x14 4)
def layExt (d : List Byte) (n : Nat) : Nat := fieldAt d (0x20 + 2 * n) 2 + 1
def laySplx (d : List Byte) (n : Nat) : Nat := fieldAt d (0x30 + 2 * n) 2 + 1
def layIstr (d : List Byte) (n : Nat) : Int := intAt d (0x40 + 4 * n)
def layOstr (d : List Byte) (k : Nat) : Int := intAt d (0x60 + 4 * k)
/-- Fields of the mapping word (R258). -/
def dmwSplit (m : DWord) (i : Nat) : Bool := m.getLsbD i
def dmwPerm (m : DWord) (j : Nat) : Nat := (m.extractLsb' (8 + 3 * j) 3).toNat
def dmwMerge (m : DWord) (j : Nat) : Bool := decide (j < 7) && m.getLsbD (32 + j)
/-- The NAX field: the number of axes minus 1. -/
def dmwNax (m : DWord) : Nat := (m.extractLsb' 39 3).toNat
def dmwEsz (m : DWord) : Nat := (m.extractLsb' 42 3).toNat

/-- The axes in input order (R258): the input dimension, the divisor and the extent of each. -/
def layAxes (d : List Byte) (m : DWord) : List (Nat × Nat × Nat) :=
  (List.range (layNin d)).flatMap fun i =>
    if dmwSplit m i then [(i, 1, laySplx d i), (i, laySplx d i, layExt d i / laySplx d i)] else [(i, 1, layExt d i)]
/-- Output axis j: the axis that PERM names. -/
def layOut (d : List Byte) (m : DWord) (j : Nat) : Nat × Nat × Nat := ((layAxes d m)[dmwPerm m j]?).getD (0, 1, 1)
/-- The output dimension that output axis j lies in: the axes below it that do not merge upward. -/
def layDim (m : DWord) (j : Nat) : Nat := ((List.range j).filter fun i => !dmwMerge m i).length
/-- Output dimensions. -/
def layDims (m : DWord) : Nat := layDim m (dmwNax m) + 1
/-- Extent of an output dimension. -/
def layDimExt (d : List Byte) (m : DWord) (k : Nat) : Nat :=
  ((List.range (dmwNax m + 1)).filter fun j => layDim m j == k).foldl (fun x j => x * (layOut d m j).2.2) 1
/-- AS_j (R259): the stride of output axis j. -/
def layAs (d : List Byte) (m : DWord) (j : Nat) : Int :=
  layOstr d (layDim m j) * (((List.range j).filter fun i => layDim m i == layDim m j).foldl (fun x i => x * (layOut d m i).2.2) 1 : Nat)
/-- Elements in all. -/
def layCount (d : List Byte) : Nat := (List.range (layNin d)).foldl (fun x n => x * layExt d n) 1

/-- Source and destination offsets of output element L in dense output order: the digits of L by the output axes' extents. -/
def layMove (d : List Byte) (m : DWord) : Nat → Nat → Nat → Int × Int → Int × Int
  | 0, _, _, x => x
  | n + 1, j, rest, (src, dst) =>
    let (dim, div, ext) := layOut d m j
    let digit := rest % ext
    layMove d m n (j + 1) (rest / ext) (src + ((digit * div : Nat) : Int) * layIstr d dim, dst + (digit : Int) * layAs d m j)

/-- Bytes that a strided side of a layout touches. -/
def layExtent (base : Nat) (dims : List (Nat × Int)) (size : Nat) : Extent :=
  let reach (f : Int → Int → Int) : Int := dims.foldl (fun x p => x + f 0 (((p.1 : Int) - 1) * p.2)) 0
  { space := none, lo := (base : Int) + reach min, hi := (base : Int) + reach max + (size : Int) }

/-- Pairs sorted by |stride| ascending. -/
def insertDim (x : Nat × Int) : List (Nat × Int) → List (Nat × Int)
  | [] => [x]
  | y :: t => if x.2.natAbs ≤ y.2.natAbs then x :: y :: t else y :: insertDim x t
/-- The alias check of R260: each |stride| covers the element and every lower dimension. -/
def aliasOk (size : Nat) : List (Nat × Int) → Bool
  | [] => true
  | (e, o) :: t => decide (size ≤ o.natAbs) && aliasOk (size + (e - 1) * o.natAbs) t

/-- The checks of R260, in the order of its table: the status, 0 where all pass. -/
def State.layStatus (s : State) (g : Wg) (a : Nat) (d : List Byte) (m : DWord) (peers : Bool) : Nat :=
  let size := 2 ^ dmwEsz m
  let nin := layNin d
  let nax := dmwNax m
  let outs := (List.range (layDims m)).map fun k => (layDimExt d m k, layOstr d k)
  let ins := (List.range nin).map fun n => (layExt d n, layIstr d n)
  let splits := ((List.range 8).filter (dmwSplit m)).length
  let unused := (List.range 8).any fun i =>
    (decide (nin ≤ i) && (nonzero d (0x20 + 2 * i) 2 || nonzero d (0x40 + 4 * i) 4))
      || (!dmwSplit m i && nonzero d (0x30 + 2 * i) 2) || (decide (layDims m ≤ i) && nonzero d (0x60 + 4 * i) 4)
  let perm := (List.range (nax + 1)).map (dmwPerm m)
  if a % 64 ≠ 0 || fieldAt d 0 8 % size ≠ 0 || fieldAt d 8 8 % size ≠ 0
      || (ins ++ outs).any (fun p => p.2 % (size : Int) != 0) then 0x0601
  else if bitsAt (fieldAt d 0x10 4) 8 24 ≠ 0 || nonzero d 0x1C 4 || unused || dmwEsz m > 4 || m.extractLsb' 45 19 != 0 || nax ≠ nin + splits - 1
      || ((List.range 8).any fun i => dmwSplit m i && (decide (nin ≤ i) || layExt d i % laySplx d i != 0))
      || ((List.range 7).any fun j => dmwMerge m j && decide (nax ≤ j))
      || (layCount d * size + layGroup d - 1) / layGroup d > 128 then 0x0602
  else if !(List.range (nax + 1)).all (fun x => perm.contains x) || ((List.range 8).any fun j => decide (nax < j) && dmwPerm m j ≠ 0) then 0x0603
  else if !aliasOk size (outs.foldl (fun l x => insertDim x l) []) then 0x0604
  else if (layExtent (fieldAt d 0 8) ins size).meets (layExtent (fieldAt d 8 8) outs size) then 0x0605
  else if laySig d && ((laySigAddr d).toNat % 4 ≠ 0 || !s.stageOk g (laySigAddr d) 0 4 peers) then 0x0606
  else 0

-- What a chunk moves ----------------------------------------------------------------------------------------------------------------------------

/-- Whose workgroup an operation is. -/
def EngOp.wg? (o : EngOp) : Option Nat :=
  match o.owner with
  | .handle g _ => some g
  | _ => none

/-- Where an engine address of an operation lies (R240): the fault's kind and address otherwise. -/
def State.placeOf (s : State) (o : EngOp) (e : EAddr) (n : Nat) : Except (Nat × Nat) Place :=
  match e with
  | .glob a => if a < 0 || a ≥ 2 ^ 56 then .error (kVaRange, (a % 2 ^ 64).toNat) else .ok (.mem a.toNat)
  | .stage m off =>
    match o.wg?.bind s.wg? with
    | none => .error (kStageRange, (off % 2 ^ 64).toNat)
    | some g => match s.stageAddr g m off 0 n (Scope.wide o.sc) with
      | .ok (w, p) => .ok (.stage w p)
      | .error k => .error (k, (off % 2 ^ 64).toNat)

/-- Index r of a gather or scatter (R239). -/
def State.btIndex (s : State) (g : Wg) (o : EngOp) (r : Nat) : Except (Nat × Nat) Int :=
  match s.stageAddr g (btIndexAddr o.desc) (4 * r : Nat) 0 4 (Scope.wide o.sc) with
  | .ok (w, p) => .ok (BitVec.ofNat 32 (s.stageRead w p 4)).toInt
  | .error k => .error (k, (btIndexAddr o.desc).toNat + 4 * r)

/-- Address shown in a fault of a row. -/
def EAddr.shown (e : EAddr) : Nat :=
  match e with
  | .glob a => (a % 2 ^ 64).toNat
  | .stage m off => (((m.toNat : Int) + off) % 2 ^ 64).toNat

/-- The address `x` bytes further. -/
def EAddr.plus (e : EAddr) (x : Nat) : EAddr :=
  match e with
  | .glob a => .glob (a + (x : Int))
  | .stage m off => .stage m (off + (x : Int))

/-- Source and destination of row r of a transfer, with the checks that are made while it runs (R240). -/
def State.btRow (s : State) (o : EngOp) (g : Wg) (r : Nat) : Except (Nat × Nat) (EAddr × EAddr) :=
  let d := o.desc
  match o.form with
  | .gather =>
    match s.btIndex g o r with
    | .error e => .error e
    | .ok k =>
      if (btRowExtent g d true k).meets (btExtent g d false) then .error (kBtOverlap, (btRowAt d true k).shown)
      else .ok (btRowAt d true k, btRowAt d false r)
  | .scatter =>
    match s.btIndex g o r with
    | .error e => .error e
    | .ok k =>
      let row := btRowExtent g d false k
      if row.meets (btExtent g d true) || (btSig d && row.meets (sigExtent g (btSigAddr d))) then .error (kBtOverlap, (btRowAt d false k).shown)
      else .ok (btRowAt d true r, btRowAt d false k)
  | _ => .ok (btRowAt d true r, btRowAt d false r)

/-- The moves of chunk c (R239, R241, R259): source, destination, length. -/
def State.chunkMoves (s : State) (o : EngOp) (c : Nat) : Except (Nat × Nat) (List (EAddr × EAddr × Nat)) :=
  match o.form with
  | .plain src dst bytes => .ok [(.glob ((src + 512 * c : Nat) : Int), .glob ((dst + 512 * c : Nat) : Int), min 512 (bytes - 512 * c))]
  | .lay m =>
    let size := 2 ^ dmwEsz m
    let per := layGroup o.desc / size
    let first := c * per
    let count := min per (layCount o.desc - first)
    .ok ((List.range count).map fun i =>
      let (x, y) := layMove o.desc m (dmwNax m + 1) 0 (first + i) ((fieldAt o.desc 0 8 : Int), (fieldAt o.desc 8 8 : Int))
      (.glob x, .glob y, size))
  | _ =>
    match o.wg?.bind s.wg? with
    | none => .ok []
    | some g =>
      let rowb := btRowb o.desc
      let hi := min (512 * c + 512) (btTotal o.desc)
      let first := 512 * c / rowb
      let rows := (List.range ((hi - 1) / rowb + 1 - first)).map fun i => first + i
      collect (rows.map fun r =>
        match s.btRow o g r with
        | .error e => .error e
        | .ok (x, y) =>
          let a := max (r * rowb) (512 * c) - r * rowb
          .ok (x.plus a, y.plus a, min ((r + 1) * rowb) hi - r * rowb - a))

/-- The engine's identity at homes (16 R388): source 1. -/
def EngOp.who (o : EngOp) : Who := Who.core o.ctx 1 o.core

/-- Bytes read at a place. -/
def State.readPlace (s : State) (o : EngOp) (p : Place) (n : Nat) : Except (Nat × Nat) (List Byte) :=
  match p with
  | .mem va => s.vread o.who o.core o.sup .read none va n
  | .stage w off => .ok (s.stageBytes w off n)

/-- A move's bytes and where they go, each byte of global memory translated. -/
def State.moveBytes (s : State) (o : EngOp) (m : EAddr × EAddr × Nat) : Except (Nat × Nat) (List (Nat × Nat × Byte) × List (Nat × Nat × List Byte)) :=
  match s.placeOf o m.1 m.2.2, s.placeOf o m.2.1 m.2.2 with
  | .error e, _ => .error e
  | _, .error e => .error e
  | .ok p, .ok q =>
    match s.readPlace o p m.2.2 with
    | .error e => .error e
    | .ok bs => match q with
      | .stage w off => .ok ([], [(w, off, bs)])
      | .mem va => match s.vtargets o.who o.core o.sup .write none va bs.length with
        | .error e => .error e
        | .ok pas => .ok (placed va pas bs, [])

/-- The lines that a place names in memory. -/
def State.placeLines (s : State) (o : EngOp) (need : Need) (e : EAddr) (n : Nat) : List Nat :=
  match s.placeOf o e n with
  | .ok (.mem va) => s.linesOf o.who o.core o.sup need va n
  | _ => []
/-- One chunk performed: nothing is written unless every read and translation of it succeeds, so that no byte is written twice (R243). -/
def State.runChunk (s : State) (o : EngOp) (c : Nat) : Option (Nat × Nat) × State :=
  match s.chunkMoves o c with
  | .error e => (some e, s)
  | .ok ms => match collect (ms.map (s.moveBytes o)) with
    | .error e => (some e, s.noteRead o.who o.core o.sup .read e)
    | .ok ws =>
      let s0 := s.tookRead o.who.die (ms.flatMap fun m => s.placeLines o .read m.1 m.2.2)
      let s1 := (ws.flatMap Prod.snd).foldl (fun s x => s.stageWrite x.1 x.2.1 x.2.2) s0
      s1.writePieces o.who (pieces (ws.flatMap Prod.fst))

/-- The signal word of an operation (R241): its stage address and value. -/
def EngOp.signal (o : EngOp) : Option (Word × Nat) :=
  match o.form with
  | .plain _ _ _ => none
  | .lay _ => if laySig o.desc then some (laySigAddr o.desc, fieldAt o.desc 0x18 4) else none
  | _ => if btSig o.desc then some (btSigAddr o.desc, fieldAt o.desc 0x2C 4) else none

/-- The end of an operation whose chunks are all set: its signal word, then its handle; a packet or node completes (R241, 12 R292). -/
def State.opEnd (s : State) (id : Nat) : State :=
  match s.op? id with
  | none => s
  | some o =>
    if o.done.length < o.total then s
    else
      let s1 := match o.signal, o.wg?.bind s.wg? with
        | some (a, v), some g =>
          (match s.stageAddr g a 0 0 4 true with
            | .ok (w, p) => s.stageWrite w p (bytesOf 4 v)
            | .error _ => s)
        | _, _ => s
      let s2 := s1.dropOp o
      match o.owner with
      | .handle g _ => s2.wgTry g
      | .packet q idx => s2.packetComplete q idx o.ltag none
      | .node g k => s2.later (.graphNodeEnd g k)

/-- Transfers whose chunks go in order: of two rows of a scatter that write one byte, the higher stands (R239). -/
def EngOp.inOrder (o : EngOp) : Bool :=
  match o.form with
  | .scatter => true
  | .plain _ _ _ => true
  | _ => false

/-- One chunk tried: set, or its fault met. -/
def State.tryChunk (s : State) (o : EngOp) (c : Nat) : State :=
  match s.runChunk o c with
  | (none, s1) =>
    let s2 := s1.updOp o.id fun x =>
      let held := x.held.filter fun h => h.1 != c
      { x with done := x.done ++ [c], held := held, noted := x.noted.filter fun va => held.any fun h => h.2.2 == va }
    let s3 := if o.inOrder && c + 1 < o.total then s2.later (.btChunkComplete o.id (c + 1)) else s2
    s3.opEnd o.id
  | (some (k, va), s1) =>
    if heldKind k && o.held.contains (c, k, va) then s1
    else
      let s2 := s1.updOp o.id fun x => { x with met := x.met ++ [(c, k, va)], held := x.held.filter fun h => h.1 != c }
      s2.after 0 (if heldKind k then .engineFaultHeld o.id else .engineFault o.id)

/-- BT_CHUNK_COMPLETE (R241). The operation reads what its thread wrote before the issue (R187): it waits for those writes, and until a fault that
another chunk has met is held or ends the operation. -/
def execBtChunkComplete (op chunk : Nat) (s : State) : Out :=
  .next (match s.op? op with
    | none => s
    | some o =>
      if o.failed.isSome || o.total ≤ chunk || o.done.contains chunk || o.held.any (fun h => h.1 == chunk) || o.met.any (fun h => h.1 == chunk) then s
      else if o.met != [] || (o.wg?.isSome && s.olderThan o.core o.slot o.id) then s.later (.btChunkComplete op chunk)
      else s.tryChunk o chunk)

-- Faults (R243, R423) ----------------------------------------------------------------------------------------------------------------------------

/-- The record of an engine's fault (R423): FLAGS[3], lane mask 0; FLAGS[5] too for a packet's or a node's operation (12 R424, 17 R403). -/
def State.engRecord (s : State) (ctx kind va aux sub slot ltag die : Nat) (iaddr : DWord) (lmid : BitVec 8) (almanac : Bool := false) : State :=
  (s.putRecord ctx
    { kind := kind, va := va, flags := if almanac then 0x28 else 8, aux := aux, sub := sub, slot := slot, ltag := ltag, die := die, iaddr := iaddr,
      lmid := lmid }).2

/-- A retry is owed within 10 µs while a hold lasts. -/
def State.retrySoon (s : State) (id : Nat) : State :=
  if s.agenda.any fun m => m.what == .heldFaultRetry id then s else s.after 20000 (.heldFaultRetry id)

def State.updStrm (s : State) (id : Nat) (g : Strm → Strm) : State :=
  { s with eng := { s.eng with strms := mapFirst (fun x => x.id == id) g s.eng.strms } }
def State.updWin (s : State) (id : Nat) (g : WinUnit → WinUnit) : State :=
  { s with eng := { s.eng with wins := mapFirst (fun x => x.id == id) g s.eng.wins } }

/-- The first member of a list with each key. -/
def firstOf {α : Type} (key : α → Nat) : List α → List α
  | [] => []
  | x :: t => x :: (firstOf key t).filter fun y => key y != key x

/-- ENGINE_FAULT_HELD (R423): the operation, stream or window stream is held, with one record for each address while the hold lasts. -/
def execEngineFaultHeld (op : Nat) (s : State) : Out :=
  .next (match s.op? op with
    | some o =>
      let now := o.met.filter fun x => heldKind x.2.1
      if now = [] then s
      else
        let fresh := firstOf (fun x => x.2.2) (now.filter fun x => !o.noted.contains x.2.2)
        let s1 := s.updOp op fun x =>
          { x with held := x.held ++ now, met := x.met.filter fun y => !heldKind y.2.1, noted := x.noted ++ fresh.map fun y => y.2.2 }
        let wfld := o.wg?.isSome
        let s2 := fresh.foldl (fun s x => s.engRecord o.ctx x.2.1 x.2.2 o.ident.toNat (if wfld then o.sub else 0) (if wfld then o.slot else 0) o.ltag
          (dieOf o.core) o.iaddr o.lmid (!wfld)) s1
        s2.retrySoon op
    | none =>
      match s.eng.strms.find? fun x => x.id == op, s.eng.wins.find? fun x => x.id == op with
      | some x, _ =>
        (match x.met with
          | none => s
          | some (k, va) =>
            let s1 := s.updStrm op fun y => { y with met := none, held := some (k, va), noted := y.noted ++ [va] }
            (if x.noted.contains va then s1
              else s1.engRecord x.ctx k va (portField x.port) x.sub x.slot x.ltag (dieOf x.core) x.iaddr x.lmid).retrySoon op)
      | none, some u =>
        (match u.met with
          | none => s
          | some (k, va) =>
            let s1 := s.updWin op fun y => { y with met := none, held := some (k, va), noted := y.noted ++ [va] }
            (if u.noted.contains va then s1
              else s1.engRecord u.ctx k va 0x20 u.sub u.slot u.ltag (dieOf u.core) u.iaddr u.lmid).retrySoon op)
      | none, none => s)

/-- The issuing warp of an engine operation has gone (R243). -/
def State.issuerGone (s : State) (core slot wg : Nat) : Bool :=
  !(s.warp? core slot).any (fun w => w.wg == wg) && !s.saved.parked.any fun p => p.wg.id == wg

/-- A launch completes with the kind of a fault that no thread could take (R243). -/
def State.markLaunch (s : State) (wg kind : Nat) : State :=
  match (s.wg? wg).bind fun g => s.launch? g.launch with
  | some l => if l.engFail.isNone then s.setLaunch { l with engFail := some kind } else s
  | none => s

/-- A graph's node has failed with a status (12 R302). -/
def State.failNode (s : State) (g k kind : Nat) : State :=
  (s.updGraph g fun x => { x with failed := if x.failed.isNone then some kind else x.failed }).later (.graphNodeEnd g k)

/-- The grid ingress port that a window stream feeds (R255), if it feeds one. -/
def WinUnit.port (u : WinUnit) : Option Nat :=
  let ctl := fieldAt u.cfg 0x1C 4
  if bitsAt ctl 12 1 = 1 then some (gridPort u.core (bitsAt ctl 13 4)) else none
/-- It has emitted a row. -/
def WinUnit.begun (u : WinUnit) : Bool := u.emitted || u.oy != 0 || u.ox != 0
/-- A window stream has ended early (R254, R256): the port that it feeds, if any, gets no more of its tokens, and goes on to its next command. -/
def State.endWinPort (s : State) (u : WinUnit) : State :=
  match (if u.begun then u.port else none) with
  | none => s
  | some q =>
    let off (p : Nat × Port) : Nat × Port := if p.1 == q && p.2.bound && p.2.wg == u.wg then (q, { p.2 with ended := true }) else p
    { s with eng := { s.eng with gports := s.eng.gports.map off } }.later (.streamStart q)

/-- A port gets no more elements of the stream that feeds it. -/
def State.endPort (s : State) (port : Nat) : State :=
  let s1 : State :=
    if port < 2 ^ 20 then
      match s.warp? (port / 128) (port / 8 % 16) with
      | some w => (match w.ports[port % 8]? with
          | some p => s.setWarp { w with ports := w.ports.set (port % 8) { p with ended := true } }
          | none => s)
      | none => s
    else { s with eng := { s.eng with gports := s.eng.gports.map fun p => if p.1 == port then (port, { p.2 with ended := true }) else p } }
  s1.later (.streamStart port)

/-- A stream ends in error (R423): its fault is raised at its warp's exit, or recorded where the warp has gone (R243). -/
def State.failStrm (s : State) (x : Strm) (k va : Nat) : State :=
  if s.issuerGone x.core x.slot x.wg then
    let s1 := (s.engRecord x.ctx k va (portField x.port) x.sub x.slot x.ltag (dieOf x.core) x.iaddr x.lmid).endPort x.port
    ({ s1 with eng := { s1.eng with strms := s1.eng.strms.filter fun y => y.id != x.id } }).markLaunch x.wg k
  else (s.updStrm x.id fun y => { y with failed := some (k, va), met := none, held := none, delivered := true }).endPort x.port

/-- ENGINE_FAULT (R243): the operation, the stream (R423) or the window stream (R254) ends in error. -/
def execEngineFault (op : Nat) (s : State) : Out :=
  .next (match s.op? op with
    | some o =>
      (match o.met.find? fun x => !heldKind x.2.1 with
        | none => s
        | some (_, k, va) =>
          let s1 := s.updOp op fun x => { x with failed := some (k, va), met := [], held := [] }
          match o.owner with
          | .handle g _ =>
            if s.issuerGone o.core o.slot g then
              let s2 := (s1.engRecord o.ctx k va o.ident.toNat o.sub o.slot o.ltag (dieOf o.core) o.iaddr o.lmid).dropOp o
              (s2.markLaunch g k).wgTry g
            else s1.wgTry g
          | .packet q idx => ((s1.engRecord o.ctx k va 0 0 0 o.ltag (dieOf o.core) 0 0 true).dropOp o).packetComplete q idx o.ltag (some k)
          | .node g n => ((s1.engRecord o.ctx k va 0 0 0 o.ltag (dieOf o.core) 0 0 true).dropOp o).failNode g n k)
    | none =>
      match s.eng.strms.find? fun x => x.id == op, s.eng.wins.find? fun x => x.id == op with
      | some x, _ =>
        (match x.met with
          | some (k, va) => s.failStrm x k va
          | none => s)
      | none, none => s
      | none, some u =>
        match u.met with
        | none => s
        | some (k, va) =>
          if s.issuerGone u.core u.slot u.wg then
            let s1 := s.engRecord u.ctx k va 0x20 u.sub u.slot u.ltag (dieOf u.core) u.iaddr u.lmid
            ({ s1 with eng := { s1.eng with wins := s1.eng.wins.filter fun x => x.id != op } }.endWinPort u).markLaunch u.wg k
          else (s.updWin op fun x => { x with failed := some (k, va), met := none, held := none, emitted := true, rows := [] }).endWinPort u)

/-- A held operation's accesses made again (R423). -/
def State.retryOp (s : State) (o : EngOp) : State :=
  o.held.foldl (fun s h => match s.op? o.id with
    | some x =>
      if x.failed.isSome || x.met != [] then s else s.tryChunk x h.1
    | none => s) s

-- Issue ------------------------------------------------------------------------------------------------------------------------------------------

/-- Who issues the commands of the bundle in focus. -/
def State.issuer (s : State) (f : Focus) (w : Warp) : Issuer :=
  { core := f.core, slot := f.slot, sub := w.sub, wg := w.wg, ctx := s.ctxOf w, ltag := ((s.launchOf w).map Launch.tag).getD 0, sup := w.supIn f, pc := f.pc, lmid := f.lmid }

/-- An accepted command of a lane (R236, R241): the lowest free handle bound, its generation raised, its chunks on their way; none while the workgroup's
handles are all held. -/
def State.bindOp (s : State) (i : Issuer) (form : EngForm) (d : List Byte) (sc : Scope) (total : Nat) (lay : Bool) : Option Word × State :=
  match s.wg? i.wg with
  | none => (some 0, s)
  | some g =>
    match g.handles.findIdx? fun h => h.op.isNone with
    | none => (none, s)
    | some n =>
      let gen := (((g.handles[n]?).getD {}).gen + 1) % 2 ^ 25
      let ident : Word := BitVec.ofNat 32 (n + 32 * gen + (if lay then 2 ^ 30 else 0))
      let id := s.nonce
      let o : EngOp :=
        { id := id, owner := .handle g.id n, core := i.core, slot := i.slot, sub := i.sub, ctx := i.ctx, ltag := i.ltag, form := form, desc := d, sc := sc,
          ident := ident, total := total, iaddr := i.pc, lmid := i.lmid, sup := i.sup }
      let s1 := { s with nonce := id + 1 }.setWg { g with handles := g.handles.set n { gen := gen, op := some id } }
      let s2 := { s1 with eng := { s1.eng with ops := s1.eng.ops ++ [o] } }
      let first := if o.inOrder then [0] else List.range total
      (some ident, first.foldl (fun s c => s.later (.btChunkComplete id c)) s2)

/-- Layout commands that stand with the engines of a die (R234): accepted and not ended. -/
def State.laysOf (s : State) (die : Nat) : Nat :=
  (s.eng.ops.filter fun x => dieOf x.core == die && x.failed.isNone && match x.form with
    | .lay _ => true
    | _ => false).length

/-- A transfer or layout command (R235, R240, R260): its refusal's status, its identifier, or nothing where it must wait. -/
def State.acceptMove (s : State) (i : Issuer) (c : EngCmd) : Option Word × State :=
  match c with
  | .move form d sc total status =>
    let lay := match form with
      | .lay _ => true
      | _ => false
    if status ≠ 0 then (some (excStatus status), s)
    else if lay && s.laysOf (dieOf i.core) ≥ 64 then (none, s)
    else s.bindOp i form d sc total lay
  | _ => (some 0, s)

/-- Commands of the lanes in ascending order (R235): the identifiers and refusals, and the commands that must wait: the first that `k` cannot answer, and
those after it. -/
def issueLanes (k : EngCmd → State → Option Word × State) (s : State) : List (Nat × EngCmd) → State × List (Nat × Word) × List (Nat × EngCmd)
  | [] => (s, [], [])
  | c :: t =>
    match k c.2 s with
    | (none, s1) => (s1, [], c :: t)
    | (some v, s1) =>
      let (s2, ws, rest) := issueLanes k s1 t
      (s2, (c.1, v) :: ws, rest)

/-- Two commands wait for the same thing: handles of one workgroup, entries of one dispatcher, or one cluster's engine or unit. -/
def EngCmd.sameQueue (a b : EngCmd) (i j : Issuer) : Bool :=
  match a, b with
  | .move _ _ _ _ _, .move _ _ _ _ _ => i.wg == j.wg
  | .strm _ _ _ _, .strm _ _ _ _ => i.core == j.core
  | .win _ _ _, .win _ _ _ => clusterOf i.core == clusterOf j.core
  | .post _ _, .post _ _ => i.wg == j.wg
  | .bload _ _, .bload _ _ => clusterOf i.core == clusterOf j.core
  | _, _ => false

/-- Commands of an older instruction wait for what a command needs: commands are accepted in issue order. -/
def State.queueAhead (s : State) (i : Issuer) (c : EngCmd) (id : Nat) : Bool :=
  s.fe.llops.any fun x => decide (x.id < id) && x.queue.any fun q => (q.2.head?).any fun y => y.2.sameQueue c q.1 i

/-- Commands answered where no older instruction waits for the same thing, else all left waiting. -/
def State.tryCmds (s : State) (i : Issuer) (id : Nat) (k : EngCmd → State → Option Word × State) (cmds : List (Nat × EngCmd)) :
    State × List (Nat × Word) × List (Nat × EngCmd) :=
  match cmds with
  | [] => (s, [], [])
  | c :: t => if s.queueAhead i c.2 id then (s, [], c :: t) else issueLanes k s (c :: t)

/-- The issue of engine commands: earlier stores go home first, so that the engine reads them (R187). Each lane's command is accepted or refused in
turn; those that must wait do so in the instruction's flag count (R236, R249, R254; 06 R156) while its threads go on. In the grid they wait at the
cell. -/
def engineIssue (o : Operands) (f : Focus) (w : Warp) (act : LaneMask) (dests : List Nat) (k : Issuer → EngCmd → State → Option Word × State)
    (cmd : State → Nat → EngCmd) (s : State) : State :=
  match (if f.grid then [] else s.acquiring f) with
  | i :: t => s.retry f w (.llRegs (i :: t))
  | [] =>
    let s0 := s.writeBackAll f.core (s.ctxOf w)
    let i := s.issuer f w
    let (s1, ws, rest) := s0.tryCmds i s0.nonce (k i) ((lanesOf act).map fun l => (l, cmd s0 l))
    match s1.warp? f.core f.slot with
    | none => s1
    | some w1 =>
      let writes := dests.flatMap fun d => ws.map fun x => { lane := x.1, reg := d, val := x.2 }
      if f.grid then (s1.setWarp (w1.applyWrites writes)).gridWait (maskOf (rest.map Prod.fst))
      else s1.llStart f w1 act o.fsel dests writes (if rest = [] then none else some (i, rest))

/-- The 64-byte blocks that the lanes name in stage memory (R237), or the operand trap that one raises: a peer's may be named where `peers` holds
(R207). -/
def stageBlocks (o : Operands) (s : State) (f : Focus) (w : Warp) (act : LaneMask) (peers : Bool) : Except (Nat × LaneMask) (List (Nat × Nat × Nat)) :=
  let xs := stageAddrs s w act (srcA32 f w o) (fun _ => 0) 64 64 peers
  match stageTrap xs with
  | some e => .error e
  | none => .ok (xs.filterMap fun x => match x.2 with
      | .ok (g, off) => some (x.1, g, off)
      | .error _ => none)

/-- The place of a lane's block. -/
def blockOf (blocks : List (Nat × Nat × Nat)) (l : Nat) : Nat × Nat := ((blocks.find? fun b => b.1 == l).map Prod.snd).getD (0, 0)

/-- The shared operation of bt.copy, bt.gather and bt.scatter (R235 to R241). -/
def btForm (o : Operands) (form : EngForm) (s : State) : State :=
  withLL o (fun f w act s =>
    match stageBlocks o s f w act (Scope.wide o.sc) with
    | .error (k, m) => s.trapHere f w act { kind := k, lmask := m }
    | .ok blocks =>
      engineIssue o f w act [o.d.toNat] (fun i c s => s.acceptMove i c) (fun s l =>
        let b := blockOf blocks l
        let d := s.stageBytes b.1 b.2 64
        let c := ((s.wg? w.wg).map fun g => s.btStatus g form d (Scope.wide o.sc)).getD 0
        .move form d o.sc ((btTotal d + 511) / 512) c) s) s

/-- bt.copy (R239). -/
def execBtCopy (o : Operands) (s : State) : Out := .next (btForm o .copy s)
/-- bt.gather (R239). -/
def execBtGather (o : Operands) (s : State) : Out := .next (btForm o .gather s)
/-- bt.scatter (R239). -/
def execBtScatter (o : Operands) (s : State) : Out := .next (btForm o .scatter s)

/-- lay (R260): the descriptor is read through translation at issue; 64 commands of a die are accepted at a time (R234). -/
def execLay (o : Operands) (s : State) : Out :=
  .next (withLL o (fun f w act s => forked f w s fun s w =>
    let ctx := s.ctxOf w
    let a (l : Nat) : Nat := (srcA64 w o l).toNat
    let read (l : Nat) : Except (Nat × Nat) (List Byte) :=
      if a l % 64 ≠ 0 then .ok [] else s.vread (Who.front ctx f) f.core (w.supIn f) .read none (a l) 128
    let errs := (lanesOf act).filterMap fun l => match read l with
      | .error (kd, va) => some ({ lane := l, kind := kd, va := va, page := s.pageSize f.core ctx va } : LaneErr)
      | .ok _ => none
    match errs with
    | e :: _ =>
      (errs.foldl (fun s x => s.noteRead (Who.front ctx f) f.core (w.supIn f) .read (x.kind, x.va)) s).trapHere f w act { kind := e.kind, errs := errs }
    | [] =>
      engineIssue o f w act [o.d.toNat] (fun i c s => s.acceptMove i c) (fun s l =>
        let d := match read l with
          | .ok d => d
          | .error _ => []
        let m := srcB64 s f w o l
        let c := if d = [] then 0x0601 else ((s.wg? w.wg).map fun g => s.layStatus g (a l) d m (Scope.wide o.sc)).getD 0
        .move (.lay m) d o.sc ((layCount d * 2 ^ dmwEsz m + layGroup d - 1) / layGroup d) c) s) s)

-- Waiting (R242) ----------------------------------------------------------------------------------------------------------------------------------

/-- The chunks that a mask and a chunk word name. -/
def chunksNamed (b : Word) (mod : BitVec 2) : List Nat := ((List.range 32).filter fun i => b.getLsbD i).map fun i => 32 * mod.toNat + i

/-- A lane's operation that has ended in error (R243), lowest lane first. -/
def State.failedNamed (s : State) (wg : Nat) (ids : List Word) : Option EngOp :=
  ids.findSome? fun a => match s.opNamed wg a with
    | some o => if o.failed.isSome then some o else none
    | none => none

/-- bt.wait (R242): lanes whose chunks are not all set stand and issue it again; a join is an acquire (R189). -/
def execBtWait (o : Operands) (s : State) : Out :=
  .next (withSources o (fun f w act s =>
    let a (l : Nat) : Word := srcA32 f w o l
    let wait (l : Nat) : Wait :=
      match s.opNamed w.wg (a l) with
      | none => .none
      | some x =>
        let js := chunksNamed (srcBn s f w o l) o.mod
        if s.chunksSet x.id js then .none else .chunks x.id js
    if (lanesOf act).any fun l => wait l != .none then s.retryEach f w f.lanes (fun l => if act.getLsbD l then wait l else .none)
    else match s.failedNamed w.wg ((lanesOf act).map a) with
      | some x => s.raiseOp f w act (maskOf ((lanesOf act).filter fun l => a l == x.ident)) x
      | none => s.joinAll f.core (s.ctxOf w)) s)

/-- bt.test (R242). -/
def execBtTest (o : Operands) (s : State) : Out :=
  .next (withSources o (fun f w act s =>
    let a (l : Nat) : Word := srcA32 f w o l
    let set (l : Nat) : Bool :=
      match s.opNamed w.wg (a l) with
      | none => true
      | some x => (chunksNamed (srcBn s f w o l) o.mod).all fun j => decide (x.total ≤ j) || x.done.contains j
    match s.failedNamed w.wg ((lanesOf act).map a) with
    | some x => s.raiseOp f w act (maskOf ((lanesOf act).filter fun l => a l == x.ident)) x
    | none =>
      let s1 := s.setWarp (w.setPred act o.d.toNat set)
      if (lanesOf act).any set then s1.joinAll f.core (s.ctxOf w) else s1) s)

end Sys2Proof.Machine
end

