-- ==== Sys2Proof/Machine/Streams.lean ====
section
/-!
DEFINITION. Machine/Streams.lean: streams into port registers and grid ingress ports, the sliding-window unit, cancelling, and the retry of held
accesses (09 R244, R247 to R256, R423).
-/
namespace Sys2Proof.Machine

-- Ports ------------------------------------------------------------------------------------------------------------------------------------------

/-- Warp and register of a q port's number. -/
def portCore (port : Nat) : Nat := if port < 2 ^ 20 then port / 128 else (port - 2 ^ 20) / 16
def portSlot (port : Nat) : Nat := port / 8 % 16

/-- A port of the module by number. -/
def State.portAt (s : State) (port : Nat) : Option Port :=
  if port < 2 ^ 20 then (s.warp? (portCore port) (portSlot port)).bind fun w => w.ports[port % 8]?
  else some (((s.eng.gports.find? fun p => p.1 == port).map Prod.snd).getD {})
/-- A port replaced. -/
def State.setPort (s : State) (port : Nat) (p : Port) : State :=
  if port < 2 ^ 20 then
    match s.warp? (portCore port) (portSlot port) with
    | some w => s.setWarp { w with ports := w.ports.set (port % 8) p }
    | none => s
  else { s with eng := { s.eng with gports := upsert (fun x => x.1 == port) (port, p) s.eng.gports } }

/-- Elements that a stream reads ahead of the reader (R248; log entry 20, DEDUCED). -/
def portDepth : Nat := 4

-- Stream commands (R247 to R249) ---------------------------------------------------------------------------------------------------------------

def strmStage (d : List Byte) : Bool := fieldAt d 8 4 % 2 == 1
def strmLane (d : List Byte) : Int := intAt d 0x0C
def strmExt (d : List Byte) (n : Nat) : Nat := fieldAt d (0x10 + 4 * n) 4
def strmStride (d : List Byte) (n : Nat) : Int := intAt d (0x20 + 4 * n)
/-- Elements of a stream. -/
def strmCount (d : List Byte) : Nat := (List.range 4).foldl (fun x n => x * strmExt d n) 1
/-- Index i_n of element e (R248). -/
def strmIndex (d : List Byte) (e n : Nat) : Nat := e / ((List.range n).foldl (fun x k => x * strmExt d k) 1) % strmExt d n
/-- Offset of lane l's word of element e from BASE. -/
def strmOffset (d : List Byte) (e l : Nat) : Int :=
  (List.range 4).foldl (fun x n => x + (strmIndex d e n : Int) * strmStride d n) ((l : Int) * strmLane d)
/-- The furthest offsets that words of a stream have, one way or the other. -/
def strmReach (d : List Byte) (f : Int → Int → Int) : Int :=
  (List.range 4).foldl (fun x n => x + f 0 (((strmExt d n : Int) - 1) * strmStride d n)) (f 0 (31 * strmLane d))

/-- The checks of R249 on a stream descriptor: its STAT. For a stage side the upper half of BASE must be zero (log entry 37, DESIGN CHOICE). -/
def State.strmStatus (s : State) (g : Wg) (d : List Byte) : Nat :=
  let base : Word := BitVec.ofNat 32 (fieldAt d 0 4)
  if bitsAt (fieldAt d 8 4) 1 31 ≠ 0 || nonzero d 0x30 12 || (strmStage d && nonzero d 4 4)
      || ((List.range 4).any fun n => strmExt d n = 0 || strmExt d n > 2 ^ 31 || strmStride d n % 4 != 0) || strmLane d % 4 != 0
      || fieldAt d 0 4 % 4 ≠ 0 then 0x0501
  else if strmStage d && !(s.stageOk g base (strmReach d min) 4 false && s.stageOk g base (strmReach d max) 4 false) then 0x0502
  else 0

/-- The rank of the end markers that follow element e, merged into the highest (R248): 1 day to 4 year. -/
def strmMarker (d : List Byte) (e : Nat) : Nat :=
  let last (n : Nat) : Bool := strmIndex d e n + 1 == strmExt d n
  if e + 1 = strmCount d then 4
  else if last 0 && last 1 && last 2 then 3
  else if last 0 && last 1 then 2
  else if last 0 then 1
  else 0

/-- Commands of a core's stream dispatcher (R234, R249): those whose last element has not been delivered. -/
def State.strmsOf (s : State) (core : Nat) : Nat := (s.eng.strms.filter fun x => x.core == core && !x.delivered).length

/-- One lane's strm.bind (R249): none while the dispatcher's entries are full; else STAT is written, and an accepted command stands in the dispatcher. -/
def State.bindStrm (s : State) (i : Issuer) (port g off : Nat) (d : List Byte) : Option Word × State :=
  match s.wg? i.wg with
  | none => (some 0, s)
  | some own =>
    if s.strmsOf i.core ≥ 16 then (none, s)
    else
      let c := s.strmStatus own d
      let s1 := s.stageWrite g (off + 0x3C) (bytesOf 4 c)
      if c ≠ 0 then (some 0, s1)
      else
        let id := s1.nonce
        let x : Strm :=
          { id := id, port := port, core := i.core, slot := i.slot, sub := i.sub, wg := i.wg, ctx := i.ctx, ltag := i.ltag, desc := d, iaddr := i.pc,
            lmid := i.lmid, sup := i.sup }
        let s2 := { s1 with nonce := id + 1, eng := { s1.eng with strms := s1.eng.strms ++ [x] } }
        let p := (s2.portAt port).getD {}
        (some 0, (s2.setPort port { p with queued := p.queued + 1 }).later (.streamStart port))

/-- The acceptance of a stream command. -/
def State.acceptStrm (s : State) (i : Issuer) (c : EngCmd) : Option Word × State :=
  match c with
  | .strm port g off d => s.bindStrm i port g off d
  | _ => (some 0, s)

/-- strm.bind (R249). -/
def execStrmBind (o : Operands) (s : State) : Out :=
  .next (withLL o (fun f w act s =>
    match stageBlocks o s f w act (Scope.wide o.sc) with
    | .error (k, m) => s.trapHere f w act { kind := k, lmask := m }
    | .ok blocks =>
      let port := if o.d.getLsbD 4 then gridPort f.core (o.d.extractLsb' 0 4).toNat else qPort f.core f.slot (o.d.extractLsb' 0 3).toNat
      engineIssue o f w act [] (fun i c s => s.acceptStrm i c) (fun s l =>
        let b := blockOf blocks l
        .strm port b.1 b.2 (s.stageBytes b.1 b.2 64)) s) s)

/-- A window stream that fed the port, and whose rows have all been taken, is over (R256). -/
def WinUnit.passed (port : Nat) (u : WinUnit) : WinUnit := if u.emitted && u.port == some port then { u with spent := true } else u

/-- STREAM_START (R250): the first command of a port starts when the port is unbound, or its stream has ended with every element popped. -/
def execStreamStart (port : Nat) (s : State) : Out :=
  .next (match s.portAt port, s.eng.strms.find? fun x => x.port == port && !x.delivered with
    | some p, some x =>
      if x.started || (p.bound && !(p.ended && p.queue.isEmpty)) then s
      else
        let s1 : State := { s with eng := { s.eng with
          strms := s.eng.strms.filter (fun y => !(y.port == port && y.delivered && y.failed.isNone)),
          wins := s.eng.wins.map (WinUnit.passed port) } }
        ((s1.updStrm x.id fun y => { y with started := true }).setPort port { p with bound := true, ended := false, queued := p.queued - 1, wg := x.wg }).later
          (.streamElementDelivery port)
    | _, _ => s)

/-- One word of an element as the dispatcher reads it (R248). -/
def State.strmWord (s : State) (x : Strm) (e l : Nat) : Except (Nat × Nat) Word :=
  let off := strmOffset x.desc e l
  if strmStage x.desc then
    match s.wg? x.wg with
    | none => .error (kStageRange, 0)
    | some g => match s.stageAddr g (BitVec.ofNat 32 (fieldAt x.desc 0 4)) off 0 4 false with
      | .ok (w, p) => .ok (BitVec.ofNat 32 (s.stageRead w p 4))
      | .error k => .error (k, 0)
  else
    let a : Int := (fieldAt x.desc 0 8 : Int) + off
    if a < 0 || a ≥ 2 ^ 56 then .error (kVaRange, (a % 2 ^ 64).toNat)
    else match s.vread (Who.core x.ctx 1 x.core) x.core x.sup .read none a.toNat 4 with
      | .ok bs => .ok (BitVec.ofNat 32 (leOf bs))
      | .error e => .error e

/-- The lines that a stream's next element reads (R248). -/
def State.strmLines (s : State) (x : Strm) : List Nat :=
  if strmStage x.desc then []
  else (List.range 32).flatMap fun l =>
    let a : Int := (fieldAt x.desc 0 8 : Int) + strmOffset x.desc x.next l
    if a < 0 then [] else s.linesOf (Who.core x.ctx 1 x.core) x.core x.sup .read a.toNat 4

/-- An element read: its words, or the fault that holds the stream (R250) or, of kind VA_RANGE or WINDOW, ends it in error: R423 says so of a retry, and
no row of R250 of the first read (log entry 37, DESIGN CHOICE). A word that cannot be had otherwise is poison and an error of its lane. -/
def State.strmElem (s : State) (x : Strm) : Except (Nat × Nat) PortElem :=
  let ws := (List.range 32).map fun l => (l, s.strmWord x x.next l)
  let held := ws.findSome? fun w => match w.2 with
    | .error e => if heldKind e.1 || endingKind e.1 then some e else none
    | .ok _ => none
  match held with
  | some e => .error e
  | none =>
    .ok { words := ws.map fun w => match w.2 with
            | .ok v => v
            | .error _ => Config.poison,
          errs := ws.filterMap fun w => match w.2 with
            | .ok _ => none
            | .error (k, va) => some { lane := w.1, kind := k, va := va, page := s.pageSize x.core x.ctx va },
          marker := if x.port < 2 ^ 20 then 0 else strmMarker x.desc x.next }

/-- A stream delivers its next element, if it may (R248, R250). -/
def State.deliver (s : State) (x : Strm) : State :=
  match s.portAt x.port with
  | none => s
  | some p =>
    if p.queue.length ≥ portDepth then s
    else match s.strmElem x with
      | .error (k, va) =>
        if x.held = some (k, va) then s
        else (s.updStrm x.id fun y => { y with met := some (k, va), held := none }).after 0 (if heldKind k then .engineFaultHeld x.id else .engineFault x.id)
      | .ok e =>
        let last := x.next + 1 ≥ strmCount x.desc
        let s' := s.tookRead (dieOf x.core) (s.strmLines x)
        let s0 := e.errs.foldl (fun s y => s.noteRead (Who.core x.ctx 1 x.core) x.core x.sup .read (y.kind, y.va)) s'
        let s1 := s0.setPort x.port { p with queue := p.queue ++ [e], ended := last }
        let s2 := s1.updStrm x.id fun y => { y with next := y.next + 1, held := none, noted := [], delivered := last }
        if last then s2 else s2.later (.streamElementDelivery x.port)

/-- STREAM_ELEMENT_DELIVERY (R248): once every store placed before the bind has gone home (R187). -/
def execStreamElementDelivery (port : Nat) (s : State) : Out :=
  .next (match s.eng.strms.find? fun x => x.port == port && !x.delivered with
    | none => s
    | some x =>
      if !x.started || x.met.isSome || x.held.isSome then s
      else if s.olderThan x.core x.slot x.id then s.later (.streamElementDelivery port)
      else s.deliver x)

-- Sliding windows (R252 to R256) ------------------------------------------------------------------------------------------------------------------

def winW (d : List Byte) : Nat := fieldAt d 0x10 2 + 1
def winH (d : List Byte) : Nat := fieldAt d 0x12 2 + 1
/-- A field of KER, each 1 to 16: KH, KW, SH, SW, DH, DW. -/
def winKer (d : List Byte) (i : Nat) : Nat := bitsAt (fieldAt d 0x14 4) (4 * i) 4 + 1
/-- A field of PAD: top, bottom, left, right. -/
def winPad (d : List Byte) (i : Nat) : Nat := fieldAt d (0x18 + i) 1
def winCtl (d : List Byte) : Nat := fieldAt d 0x1C 4
def winC (d : List Byte) : Nat := bitsAt (winCtl d) 0 10 + 1
/-- Element size in bytes. -/
def winSize (d : List Byte) : Nat := 2 ^ bitsAt (winCtl d) 10 2
def winDest (d : List Byte) : Bool := bitsAt (winCtl d) 12 1 == 1
/-- Window rows down and across (R253); 0 or below counts as none. -/
def winOut (size before after dil k stride : Nat) : Nat :=
  let room : Int := (size + before + after : Nat) - (dil * (k - 1) + 1 : Nat)
  if room < 0 then 0 else room.toNat / stride + 1
def winOh (d : List Byte) : Nat := winOut (winH d) (winPad d 0) (winPad d 1) (winKer d 4) (winKer d 0) (winKer d 2)
def winOw (d : List Byte) : Nat := winOut (winW d) (winPad d 2) (winPad d 3) (winKer d 5) (winKer d 1) (winKer d 3)
/-- Elements of a window row. -/
def winK (d : List Byte) : Nat := winKer d 0 * winKer d 1 * winC d

/-- The checks of R254 on a configuration: its STAT. A pixel stride below a pixel's bytes is refused too (log entry 37, DESIGN CHOICE). -/
def winStatus (d : List Byte) : Nat :=
  let z := winSize d
  if bitsAt (fieldAt d 0x14 4) 24 8 ≠ 0 || bitsAt (winCtl d) 10 2 = 3 || bitsAt (winCtl d) 17 15 ≠ 0 || nonzero d 0x20 28
      || (!winDest d && bitsAt (winCtl d) 13 4 ≠ 0) || winOh d < 1 || winOw d < 1 || winK d > 512
      || fieldAt d 0 8 % z ≠ 0 || fieldAt d 8 4 % z ≠ 0 || fieldAt d 0xC 4 % z ≠ 0 || fieldAt d 0xC 4 < winC d * z then 0x0511
  else if (winKer d 4 * (winKer d 0 - 1) + 1) * winW d * winC d * z > 131072 then 0x0512
  else 0

/-- A window stream whose last row has been taken has ended (R256). -/
def State.winOver (s : State) (u : WinUnit) : Bool :=
  u.emitted && match u.port with
    | some q => u.spent || ((s.portAt q).map fun p => p.queue.isEmpty).getD true
    | none => u.rows.isEmpty
/-- The configuration that a cluster's unit holds and that has not ended: one whose stream has ended in a fault only waits to be raised (R254). -/
def State.liveWin (s : State) (cluster : Nat) : Option WinUnit := s.eng.wins.find? fun u => u.cluster == cluster && u.failed.isNone && !s.winOver u

/-- One lane's win.cfg (R254): none while the cluster's unit holds a configuration that has not ended. -/
def State.bindWin (s : State) (i : Issuer) (g off : Nat) (d : List Byte) : Option Word × State :=
  let c := winStatus d
  let cl := clusterOf i.core
  if (s.liveWin cl).isSome then (none, s)
  else
    let s1 := s.stageWrite g (off + 0x3C) (bytesOf 4 c)
    if c ≠ 0 then (some 0, s1)
    else
      let id := s1.nonce
      let u : WinUnit :=
        { cluster := cl, id := id, wg := i.wg, core := i.core, slot := i.slot, sub := i.sub, ctx := i.ctx, ltag := i.ltag, cfg := d, iaddr := i.pc,
          lmid := i.lmid, sup := i.sup }
      let left := s1.eng.wins.filter fun x => x.cluster != cl || x.failed.isSome
      (some 0, ({ s1 with nonce := id + 1, eng := { s1.eng with wins := left ++ [u] } }).later (.windowRowEmit cl))

/-- The acceptance of a window configuration. -/
def State.acceptWin (s : State) (i : Issuer) (c : EngCmd) : Option Word × State :=
  match c with
  | .win g off d => s.bindWin i g off d
  | _ => (some 0, s)

/-- win.cfg (R254): an unserviceable fault of the warp's last window stream is raised first. -/
def execWinCfg (o : Operands) (s : State) : Out :=
  .next (withLL o (fun f w act s =>
    match s.failedWin f.core f.slot with
    | some u => s.raiseWin f w act u
    | none =>
      match stageBlocks o s f w act (Scope.wide o.sc) with
      | .error (k, m) => s.trapHere f w act { kind := k, lmask := m }
      | .ok blocks =>
        engineIssue o f w act [] (fun i c s => s.acceptWin i c) (fun s l =>
          let b := blockOf blocks l
          .win b.1 b.2 (s.stageBytes b.1 b.2 64)) s) s)

/-- The places of a window row's elements in the image (R253): pixel and channel, or none in the padding. -/
def winPlaces (d : List Byte) (oy ox : Nat) : List (Option (Nat × Nat × Nat)) :=
  (List.range (winKer d 0)).flatMap fun ky => (List.range (winKer d 1)).flatMap fun kx => (List.range (winC d)).map fun c =>
    let y : Int := (oy * winKer d 2 + ky * winKer d 4 : Nat) - (winPad d 0 : Int)
    let x : Int := (ox * winKer d 3 + kx * winKer d 5 : Nat) - (winPad d 2 : Int)
    if 0 ≤ y && y < winH d && 0 ≤ x && x < winW d then some (y.toNat, x.toNat, c) else none

/-- The elements at some places, each read from memory once and then kept (R253); the first fault. -/
def State.winRead (s : State) (u : WinUnit) : List (Option (Nat × Nat × Nat)) → Except (Nat × Nat) (List Nat × PMap 32)
  | [] => .ok ([], u.line)
  | p :: t =>
    match State.winRead s u t with
    | .error e => .error e
    | .ok (vs, m) =>
      match p with
      | none => .ok (0 :: vs, m)
      | some (y, x, c) =>
        let key := (y * winW u.cfg + x) * winC u.cfg + c
        match pmGet m key with
        | some v => .ok (v.toNat :: vs, m)
        | none =>
          let va := fieldAt u.cfg 0 8 + y * fieldAt u.cfg 8 4 + x * fieldAt u.cfg 0xC 4 + c * winSize u.cfg
          if va ≥ 2 ^ 56 then .error (kVaRange, va)
          else match s.vread (Who.core u.ctx 1 u.core) u.core u.sup .read none va (winSize u.cfg) with
            | .ok bs => .ok (leOf bs :: vs, pmSet m key (BitVec.ofNat 32 (leOf bs)))
            | .error e => .error e

/-- The lines that the window row at (oy, ox) reads from memory (R253). -/
def State.winLines (s : State) (u : WinUnit) : List Nat :=
  (winPlaces u.cfg u.oy u.ox).flatMap fun p => match p with
    | none => []
    | some (y, x, c) =>
      if (pmGet u.line ((y * winW u.cfg + x) * winC u.cfg + c)).isSome then []
      else s.linesOf (Who.core u.ctx 1 u.core) u.core u.sup .read (fieldAt u.cfg 0 8 + y * fieldAt u.cfg 8 4 + x * fieldAt u.cfg 0xC 4 + c * winSize u.cfg)
        (winSize u.cfg)

/-- A row cut into elements of a grid ingress port (R255): 32 lanes each, the last covering only as many as remain, with the end marker after it. -/
def winTokens (row : List Nat) (marker : Nat) : Nat → List PortElem
  | 0 => []
  | n + 1 =>
    let head := (row.take 32).map (BitVec.ofNat 32)
    let rest := row.drop 32
    if rest = [] then [{ words := head, marker := marker, mask := maskOf (List.range head.length) }] else { words := head } :: winTokens rest marker n

/-- The port of a window stream's first row still serves another stream: the row waits, as a stream command would (R250; log entry 37, DESIGN CHOICE). -/
def State.winBlocked (s : State) (u : WinUnit) : Bool :=
  !u.begun && u.port.any fun q => (s.portAt q).any fun p => p.bound && !(p.ended && p.queue.isEmpty)

/-- One row emitted, or its fault met (R253 to R256). -/
def State.emitRow (s : State) (u : WinUnit) : State :=
  match s.winRead u (winPlaces u.cfg u.oy u.ox) with
  | .error (k, va) =>
    if u.held = some (k, va) then s
    else ((s.noteRead (Who.core u.ctx 1 u.core) u.core u.sup .read (k, va)).updWin u.id fun x => { x with met := some (k, va), held := none }).after 0 (if heldKind k then .engineFaultHeld u.id else .engineFault u.id)
  | .ok (row, line) =>
    let s := s.tookRead (dieOf u.core) (s.winLines u)
    let lastX := u.ox + 1 ≥ winOw u.cfg
    let lastY := lastX && u.oy + 1 ≥ winOh u.cfg
    let u1 := { u with
      line := line, held := none, noted := [], emitted := lastY, ox := if lastX then 0 else u.ox + 1, oy := if lastX then u.oy + 1 else u.oy }
    if winDest u.cfg then
      let port := gridPort u.core (bitsAt (winCtl u.cfg) 13 4)
      let p := (s.portAt port).getD {}
      let marker := if lastY then 4 else if lastX then 2 else 1
      let s1 := (s.setPort port { p with bound := true, ended := lastY, queue := p.queue ++ winTokens row marker row.length, wg := u.wg }).updWin u.id fun _ => u1
      if lastY then s1 else s1.later (.windowRowEmit u.cluster)
    else
      let s1 := s.updWin u.id fun _ => { u1 with rows := u.rows ++ [row] }
      if lastY then s1 else s1.later (.windowRowEmit u.cluster)

/-- WINDOW_ROW_EMIT (R253). -/
def execWindowRowEmit (cluster : Nat) (s : State) : Out :=
  .next (match s.liveWin cluster with
    | none => s
    | some u =>
      if u.emitted || u.met.isSome || u.held.isSome then s
      else if s.winBlocked u || s.olderThan u.core u.slot u.id then s.later (.windowRowEmit cluster)
      else s.emitRow u)

-- Cancelling and retrying ---------------------------------------------------------------------------------------------------------------------------

/-- The live stream and every queued command of a port dropped; the port becomes unbound (R244). A window stream that feeds it ends. -/
def State.unbindPort (s : State) (port : Nat) : State :=
  let s1 := { s with eng := { s.eng with
    strms := s.eng.strms.filter fun x => x.port != port || x.failed.isSome, wins := s.eng.wins.filter fun u => u.failed.isSome || u.port != some port } }
  s1.setPort port {}

/-- The workgroup whose target a port is (R244): that of its live stream, else that of its first queued command; none for an unbound port. -/
def State.portOwner (s : State) (port : Nat) : Option Nat :=
  match s.portAt port with
  | none => none
  | some p =>
    if p.bound && !(p.ended && p.queue.isEmpty) then some p.wg
    else (s.eng.strms.find? fun x => x.port == port && !x.delivered).map Strm.wg

/-- A workgroup's window stream ends at once (R244, R256). -/
def State.cancelWin (s : State) (cluster wg : Nat) : State :=
  match (s.liveWin cluster).filter fun u => u.wg == wg with
  | none => s
  | some u => { s with eng := { s.eng with wins := s.eng.wins.filter fun x => x.id != u.id } }.endWinPort u

/-- One lane's eng.cancel (R244): a stale identifier, one of an operation that has ended, an unbound port, a number that names no port and another workgroup's target have no effect. -/
def State.cancelOne (s : State) (k : CancelKind) (f : Focus) (w : Warp) (a : Word) : State :=
  match k with
  | .bt | .lay =>
    match s.opNamed w.wg a with
    | some o => if a.getLsbD 30 == (k == .lay) && o.failed.isNone then s.dropOp o else s
    | none => s
  | .strm =>
    if a.getLsbD 5 then s.cancelWin (clusterOf f.core) w.wg
    else if !a.getLsbD 4 && a.getLsbD 3 then s
    else
      let port := if a.getLsbD 4 then gridPort f.core (a.extractLsb' 0 4).toNat else qPort f.core f.slot (a.extractLsb' 0 3).toNat
      if s.portOwner port = some w.wg then s.unbindPort port else s

/-- eng.cancel (R244): what the stopped operation wrote happens before the thread's later operations, as at a join. -/
def execEngCancel (k : CancelKind) (o : Operands) (s : State) : Out :=
  .next (withSources o (fun f w act s =>
    let s1 := (lanesOf act).foldl (fun s l => s.cancelOne k f w (srcA32 f w o l)) s
    s1.joinAll f.core (s.ctxOf w)) s)

/-- HELD_FAULT_RETRY (R423): at least every 10 µs while the hold lasts, and when tlbsync or a CMD load of the context completes. -/
def execHeldFaultRetry (op : Nat) (s : State) : Out :=
  .next (match s.op? op with
    | some o =>
      let s1 := s.retryOp o
      if ((s1.op? op).map fun x => x.held != []).getD false then s1.retrySoon op else s1
    | none =>
      match s.eng.strms.find? fun x => x.id == op with
      | some x =>
        let s1 := if x.held.isNone then s else s.deliver x
        if (s1.eng.strms.any fun y => y.id == op && y.held.isSome) then s1.retrySoon op else s1
      | none =>
        match s.eng.wins.find? fun u => u.id == op with
        | some u =>
          let s1 := if u.held.isNone then s else s.emitRow u
          if (s1.eng.wins.any fun y => y.id == op && y.held.isSome) then s1.retrySoon op else s1
        | none => s)

/-- Held accesses of a context made again now (R423). -/
def State.retryHeld (s : State) (ctx : Nat) : State :=
  let ops := (s.eng.ops.filter fun o => o.ctx == ctx && o.held != []).map EngOp.id
  let strms := (s.eng.strms.filter fun x => x.ctx == ctx && x.held.isSome).map Strm.id
  let wins := (s.eng.wins.filter fun u => u.ctx == ctx && u.held.isSome).map WinUnit.id
  let nodes := (s.alm.graphs.filter fun g => g.ctx == ctx).flatMap fun g => (g.nodes.zipIdx.filter fun n => n.1.held.isSome).map fun n => (g.id, n.2)
  nodes.foldl (fun s n => (s.after 0 (.hostringRecordCopy n.1 n.2)).after 0 (.hostringCtimeExpiry n.1 n.2)) ((ops ++ strms ++ wins).foldl (fun s i => s.after 0 (.heldFaultRetry i)) s)

end Sys2Proof.Machine
end

