-- ==== Sys2Proof/Machine/Tile.lean ====
section
/-!
DEFINITION. Machine/Tile.lean: the arithmetic of the matrix engine: the alignment of R98, the K-block sums of R99, the combination of R100 and the
error tokens of R102 and R103 (04).
-/
namespace Sys2Proof

/-- Exponent tag of the initial value and of g (04 R102). -/
def tagInitial : Nat := 0x1FFFFF
/-- An error-token NaN with its tag (04 R103). -/
def errToken (tag : Nat) : Nat := 0x7FE00000 + tag % 2 ^ 21
/-- A binary32 word is an error token (04 R103). -/
def isToken (x : Nat) : Bool := x / 2 ^ 21 == 0x3FF

/-- The value is finite. -/
def FVal.finite : FVal → Bool
  | .num _ _ _ => true
  | _ => false

/-- Unbiased exponent of a finite non-zero element of a format with `t` trailing bits; a subnormal counts with the least (04 R98). -/
def topExp (t : Nat) : FVal → Option Int
  | .num _ m e => if m = 0 then none else some (e + (t : Int))
  | _ => none

/-- Alignment of a K-block of A (04 R98). -/
def alignBlock (t : Nat) (xs : List FVal) : List FVal :=
  match xs.filterMap (topExp t) with
  | [] => xs.map fun x => match x with
      | .num s _ _ => .num s 0 0
      | v => v
  | e :: es =>
    let emax := es.foldl max e
    xs.map fun x => match x with
      | .num s m k => .num s (roundScaled .rn s m (k + 14 - emax)) (emax - 14)
      | v => v

/-- The exact sum of one K-block for one result element (04 R99): `align` holds the trailing bits of a format that is aligned first. A block of A or
B that holds an infinity or a NaN is not aligned (R98): the products of row i and column j use the unaligned A where the 32 elements of the row or of that
column hold one (log entry 32, DEDUCED). -/
def blockSum (align : Option Nat) (as bs : List FVal) : FVal :=
  let plain := as.all FVal.finite && bs.all FVal.finite
  let as' := match align with
    | some t => if plain then alignBlock t as else as
    | none => as
  FVal.sum .rn (as'.zipWith FVal.mul bs)

/-- One K-block added to the accumulator (04 R99, R102). -/
def accStep (acc tag : Nat) (s : FVal) : Nat :=
  if isToken acc then acc
  else match s with
    | .nan => errToken tag
    | v =>
      let r := fmt32.add .rn acc (fmt32.round .rn false v)
      if fmt32.isNaN r then errToken tag else r

/-- The K-blocks of one result element in ascending tag order (04 R99). -/
def accBlocks (align : Option Nat) (acc : Nat) : Nat → List (List FVal) → List (List FVal) → Nat
  | tag, a :: as, b :: bs => accBlocks align (accStep acc tag (blockSum align a b)) (tag + 1) as bs
  | _, _, _ => acc

/-- An initial value (04 R103): a token keeps its tag, another NaN is an offender. -/
def initValue (x : Nat) : Nat := if isToken x then x else if fmt32.isNaN x then errToken tagInitial else x

/-- The initial value of a DECAY step (04 R101, R102). -/
def decayValue (g c : Nat) : Nat :=
  if isToken c then c
  else
    let p := fmt32.mul .rn g c
    if fmt32.isNaN p then errToken tagInitial else p

/-- A split's partial added (04 R100, R102): an offender in the combination has the lowest K-block tag of the split. -/
def combine (c tag p : Nat) : Nat :=
  if isToken c then c
  else if isToken p then p
  else
    let r := fmt32.add .rn c p
    if fmt32.isNaN r then errToken tag else r

/-- A list cut into pieces of `n`. -/
def chunksOf {α : Type} (n : Nat) : Nat → List α → List (List α)
  | 0, _ => []
  | k + 1, xs => xs.take n :: chunksOf n k (xs.drop n)

end Sys2Proof
end

