-- ==== Sys2Proof/Machine/Matrix.lean ====
section
/-!
DEFINITION. Machine/Matrix.lean: the matrix engine: block frames, the parameter block and its checks, the reservation table and its arbiter, operations
step by step, and the six instructions (06).
-/
namespace Sys2Proof.Machine

/-- How an operand's elements are written (06 R143): a published format, or a block format of magnitude width w. -/
inductive MxFmt where
  | pub (f : Fmt)
  | dx (w : Nat)
  deriving DecidableEq, Repr

/-- Bits of an element, and bytes of a block of 32 (04 R93). -/
def MxFmt.bits : MxFmt → Nat
  | .pub f => f.width
  | .dx w => w + 2
def MxFmt.block (m : MxFmt) : Nat := 4 * m.bits
/-- Bytes of a row of n elements. -/
def MxFmt.rowBytes (m : MxFmt) (n : Nat) : Nat := (n * m.bits + 7) / 8
def MxFmt.isDx : MxFmt → Bool
  | .dx _ => true
  | .pub _ => false
/-- Trailing bits of an A format that R98 aligns. -/
def MxFmt.align : MxFmt → Option Nat
  | .pub f => if f.width = 16 then some f.tbits else none
  | .dx _ => none
/-- Planes of an A element (06 R143). -/
def MxFmt.planes : MxFmt → Nat
  | .pub f => if f.width = 16 then 8 else 4
  | .dx w => (w + 2) / 2

/-- The format of an AFMT or BFMT code with its slot (06 R143); none for a reserved code, or a slot that holds no block format. -/
def mxFmtOf (code : Nat) (slot : Slot) : Option MxFmt :=
  match code with
  | 0x8 => some (.pub fmt16)
  | 0x9 => some (.pub fmtB16)
  | 0xB => some (.pub fmtE4M3)
  | 0xC => some (.pub fmtE5M2)
  | 0xF => (slot.format?.bind SlotFmt.dxWidth).map .dx
  | _ => none
/-- A code that names a format. -/
def mxCode (c : Nat) : Bool := c == 8 || c == 9 || c == 0xB || c == 0xC || c == 0xF

/-- A format slot of a workgroup's launch, and its scale. -/
def State.wgSlot (s : State) (g : Wg) (n : Nat) : Slot := (((s.launch? g.launch).map Launch.slots).bind fun l => l[n]?).getD Slot.none
def State.wgScale (s : State) (g : Wg) (sl : Slot) : Int :=
  sl.scaleExp fun i => match s.launch? g.launch with
    | some l => smGet l.k i
    | none => 0

/-- A member that one of some matrix stage addresses names is without a core: an operation that uses them waits until it resumes (06 R144, R160). -/
def State.mxAway (s : State) (g : Wg) (as : List Nat) : Bool :=
  g.group.isSome && as.any fun a => (s.member g (a / 2 ^ 18 % 4)).isNone && (s.memberAny g (a / 2 ^ 18 % 4)).isSome

/-- A matrix stage address (06 R144): the workgroup and the offset there, if the bytes lie wholly in its allocation. -/
def State.mxPlace (s : State) (g : Wg) (a : Nat) (off n : Int) : Option (Nat × Nat) :=
  let m := a / 2 ^ 18 % 4
  let target := if g.group.isNone then (if m = 0 then some g else none) else s.memberAny g m
  let start : Int := ((a % 2 ^ 18 : Nat) : Int) + off
  match target with
  | none => none
  | some t => if start < 0 || start + n > ((t.stageKiB * 1024 : Nat) : Int) then none else some (t.id, start.toNat)
def State.mxOk (s : State) (g : Wg) (a : Nat) (off n : Int) : Bool := (s.mxPlace g a off n).isSome
/-- Bytes at a matrix stage address; none outside. -/
def State.mxBytes (s : State) (g : Wg) (a : Nat) (off : Int) (n : Nat) : List Byte :=
  match s.mxPlace g a off n with
  | some (w, p) => s.stageBytes w p n
  | none => []
def State.mxWrite (s : State) (g : Wg) (a : Nat) (off : Int) (bs : List Byte) : State :=
  match s.mxPlace g a off bs.length with
  | some (w, p) => s.stageWrite w p bs
  | none => s

/-- An operand's place: its base, its format, its slot's scale and exponent offset (06 R145). -/
structure MxOperand where
  base : Nat
  fmt : MxFmt
  scale : Int
  eoff : Int
  deriving DecidableEq, Repr

/-- An operand read through a slot. -/
def State.mxOperand (s : State) (g : Wg) (base : Nat) (f : MxFmt) (slot : Nat) : MxOperand :=
  let sl := s.wgSlot g slot
  { base := base, fmt := f, scale := s.wgScale g sl, eoff := sl.eoff.toInt }

/-- The values of `n` elements of a row at an offset from the base (06 R145, 04 R92, R93). -/
def State.mxRow (s : State) (g : Wg) (x : MxOperand) (off n : Nat) : List FVal :=
  let bs := s.mxBytes g x.base off (x.fmt.rowBytes n)
  match x.fmt with
  | .pub f => (List.range n).map fun i => f.decode (fieldAt bs (i * (f.width / 8)) (f.width / 8))
  | .dx w =>
    (List.range n).map fun i =>
      let b := off / x.fmt.block + i / 32
      let e := s.mxBytes g x.base (x.eoff + ((2 * b : Nat) : Int)) 2
      let code := bitsAt (leOf ((bs.drop (i / 32 * x.fmt.block)).take x.fmt.block)) ((w + 2) * (i % 32)) (w + 2)
      dxValue code (fieldAt e 0 1) (fieldAt e 1 1) w x.scale

/-- The rows of a region and, for a block format, their exponent pairs lie in the allocation (06 R144, R145): the last row starts at `last`. -/
def State.mxRegion (s : State) (g : Wg) (x : MxOperand) (last n : Nat) : Bool :=
  s.mxOk g x.base 0 ((last + x.fmt.rowBytes n : Nat) : Int)
    && (!x.fmt.isDx || s.mxOk g x.base x.eoff ((2 * (last / x.fmt.block + n / 32) : Nat) : Int))

-- Parameter block fields (06 R149 to R151) ---------------------------------------------------------------------------------------------------------

def pbCtl (b : List Byte) : Nat := fieldAt b 0 4
def pbMode (b : List Byte) : Nat := bitsAt (pbCtl b) 0 2
def pbInit (b : List Byte) : Bool := bitsAt (pbCtl b) 2 1 == 1
def pbAwin (b : List Byte) : Bool := bitsAt (pbCtl b) 3 1 == 1
def pbAfmt (b : List Byte) : Nat := bitsAt (pbCtl b) 4 4
def pbAslot (b : List Byte) : Nat := bitsAt (pbCtl b) 8 3
def pbOconv (b : List Byte) : Bool := bitsAt (pbCtl b) 11 1 == 1
def pbOslot (b : List Byte) : Nat := bitsAt (pbCtl b) 12 3
def pbOutlast (b : List Byte) : Bool := bitsAt (pbCtl b) 15 1 == 1
def pbShape (b : List Byte) : Nat := fieldAt b 4 4
def pbM (b : List Byte) : Nat := bitsAt (pbShape b) 0 7 + 1
def pbN (b : List Byte) : Nat := bitsAt (pbShape b) 8 7 + 1
def pbKb (b : List Byte) : Nat := bitsAt (pbShape b) 16 4 + 1
def pbSteps (b : List Byte) : Nat := bitsAt (pbShape b) 24 8 + 1
def pbBlk (b : List Byte) (i : Nat) : Nat := bitsAt (fieldAt b 8 4) (4 * i) 4
def pbKbt (b : List Byte) : Nat := fieldAt b 0xC 4
/-- A reference word: address and stride (AREF, CREF, OREF). -/
def pbAddr (b : List Byte) (off : Nat) : Nat := bitsAt (fieldAt b off 4) 0 20
def pbStr (b : List Byte) (off : Nat) : Nat := 8 * bitsAt (fieldAt b off 4) 20 12
def pbAstep (b : List Byte) : Nat := fieldAt b 0x14 4
def pbOstep (b : List Byte) : Nat := fieldAt b 0x24 4
def pbCoop (b : List Byte) : Nat := fieldAt b 0x30 4
def pbKs (b : List Byte) : Nat := bitsAt (pbCoop b) 0 2
def pbSpk (b : List Byte) : Nat := bitsAt (pbCoop b) 4 2
def pbMsel (b : List Byte) : Nat := bitsAt (pbCoop b) 6 1
def pbNsel (b : List Byte) : Nat := bitsAt (pbCoop b) 7 1
def pbGroup (b : List Byte) : Nat := bitsAt (pbCoop b) 16 16

/-- The stage addresses that an operation reads and writes before its reduction. -/
def pbUses (b : List Byte) : List Nat :=
  (if pbAwin b then [] else [pbAddr b 0x10]) ++ (if pbInit b then [pbAddr b 0x18] else []) ++ (if pbMode b = 2 then [pbAddr b 0x28] else [])
    ++ (if pbKs b = 0 then [pbAddr b 0x20] else [])

/-- The offset of step t's row i from an operand's base. -/
def rowOff (step str t i : Nat) : Nat := t * step + i * str

/-- The block descriptor of a frame: its format code, slot, K rows and columns (06 R146). -/
def bdFmt (d : Nat) : Nat := bitsAt d 0 4
def bdSlot (d : Nat) : Nat := bitsAt d 4 3
def bdK (d : Nat) : Nat := bitsAt d 8 9
def bdN (d : Nat) : Nat := bitsAt d 17 6 + 1
def bdAddr (d : Nat) : Nat := bitsAt d 32 20
def bdStr (d : Nat) : Nat := 8 * bitsAt d 52 12

/-- A block frame of a cluster. -/
def State.mxFrame (s : State) (cluster frame : Nat) : Option MxFrame := s.mx.frames.find? fun x => x.cluster == cluster && x.frame == frame
def State.setMxFrame (s : State) (x : MxFrame) : State :=
  { s with mx := { s.mx with frames := upsert (fun y => y.cluster == x.cluster && y.frame == x.frame) x s.mx.frames } }

/-- The frame that a block handle of a workgroup names, if it is held (06 R147). -/
def Wg.blkFrame (g : Wg) (h : Nat) : Option Nat := (g.blks[h]?).bind Handle.op

/-- The posted split-0 member of the group that a parameter block names in a launch (06 R155). -/
def State.mxZero (s : State) (launch : Nat) (b : List Byte) : Option MxEntry :=
  s.mx.entries.find? fun x =>
    x.launch == launch && pbGroup x.pb == pbGroup b && pbMsel x.pb == pbMsel b && pbNsel x.pb == pbNsel b && pbSpk x.pb == 0 && pbKs x.pb > 0

/-- Where a member with SPK > 0 writes its partial in the buffer that its RBUF names, and the length (06 R155). -/
def pbPartOff (b : List Byte) : Nat := (pbSpk b - 1) * pbM b * pbN b * 4
def pbPartLen (b : List Byte) : Nat := pbM b * pbN b * 4

/-- RBUF of a member with SPK > 0 is relative to the workgroup that posts the split-0 member (06 R144): it is checked where that member has been
posted already (log entry 32, DESIGN CHOICE). -/
def State.mxPartialOk (s : State) (g : Wg) (b : List Byte) : Bool :=
  match (s.mxZero g.launch b).bind fun z => s.wg? z.wg with
  | none => true
  | some zg => s.mxOk zg (pbAddr b 0x34) (pbPartOff b : Nat) (pbPartLen b : Nat)

/-- The checks of 06 R152 on a parameter block's contents, in the order of its table: the status, 0 where all pass. -/
def State.mxStatus (s : State) (g : Wg) (b : List Byte) : Nat :=
  let cl := clusterOf g.core
  let aslot := s.wgSlot g (pbAslot b)
  let oslot := s.wgSlot g (pbOslot b)
  let afmt := mxFmtOf (pbAfmt b) aslot
  let ofmt : Option MxFmt := if pbOconv b then match oslot.format? with
    | some f => (f.dxWidth.map MxFmt.dx).or (f.published.map MxFmt.pub)
    | none => none else some (.pub fmt32)
  let steps := pbSteps b
  let outs := if pbOutlast b then 1 else steps
  let dxBad (f : Option MxFmt) (x : Nat) : Bool := match f with
    | some (.dx w) => x % (4 * (w + 2)) != 0
    | _ => false
  let far (steps step : Nat) : Bool := steps > 1 && step % 8 ≠ 0
  let named := (List.range 4).filter fun i => pbBlk b i != 0xF
  let frames := named.map fun i => (g.blkFrame (pbBlk b i)).bind fun f => s.mxFrame cl f
  let descs := frames.filterMap fun f => f.map MxFrame.desc
  let kmax := if named.any (fun i => decide (2 ≤ i)) then 512 else 256
  let nmax := if named.any (fun i => i % 2 == 1) then 128 else 64
  let odx := (ofmt.map MxFmt.isDx).getD false
  let a := s.mxOperand g (pbAddr b 0x10) (afmt.getD (.pub fmt16)) (pbAslot b)
  let o := s.mxOperand g (pbAddr b 0x20) (ofmt.getD (.pub fmt32)) (pbOslot b)
  if (!pbAwin b && (pbAddr b 0x10 % 8 ≠ 0 || far steps (pbAstep b) || dxBad afmt (pbStr b 0x10) || dxBad afmt (pbAstep b)))
      || (pbInit b && pbAddr b 0x18 % 8 ≠ 0) || pbAddr b 0x20 % 8 ≠ 0 || far outs (pbOstep b)
      || (odx && (dxBad ofmt (pbStr b 0x20) || dxBad ofmt (pbOstep b)))
      || fieldAt b 0x28 4 % 4 ≠ 0 then 0x0201
  else if bitsAt (pbCtl b) 16 16 ≠ 0 || pbMode b = 3 || !mxCode (pbAfmt b) || (pbAfmt b ≠ 0xF && pbAslot b ≠ 0) || (!pbOconv b && pbOslot b ≠ 0)
      || bitsAt (pbShape b) 7 1 ≠ 0 || bitsAt (pbShape b) 15 1 ≠ 0 || bitsAt (pbShape b) 20 4 ≠ 0 || bitsAt (fieldAt b 8 4) 16 16 ≠ 0
      || pbKbt b ≥ 2 ^ 21 || nonzero b 0x1C 4 || nonzero b 0x2C 4 || nonzero b 0x38 8 || bitsAt (fieldAt b 0x28 4) 20 12 ≠ 0
      || bitsAt (fieldAt b 0x34 4) 20 12 ≠ 0 || bitsAt (pbCoop b) 8 8 ≠ 0 || (pbAwin b && (nonzero b 0x10 4 || nonzero b 0x14 4))
      || pbKbt b + pbKb b > 0x1FFFFF then 0x0202
  else if afmt.isNone || ofmt.isNone then 0x0203
  else if named = [] || frames.any Option.isNone || descs.any (fun d => bdFmt d != bdFmt (descs.headD 0) || bdSlot d != bdSlot (descs.headD 0)) then
    0x0204
  else if pbKb b * 32 > kmax || pbN b > nmax || (odx && pbN b % 32 ≠ 0) then 0x0205
  else if (pbKs b + 1) * (bitsAt (pbCoop b) 2 1 + 1) * (bitsAt (pbCoop b) 3 1 + 1) > 4 || pbSpk b > pbKs b || pbMsel b > bitsAt (pbCoop b) 2 1
      || pbNsel b > bitsAt (pbCoop b) 3 1 || (pbKs b > 0 && (pbMode b ≠ 0 || steps > 1)) || (pbInit b && pbSpk b ≠ 0) then 0x0206
  else if (!pbAwin b && !s.mxRegion g a (rowOff (pbAstep b) (pbStr b 0x10) (steps - 1) (pbM b - 1)) (32 * pbKb b))
      || (pbInit b && !s.mxOk g (pbAddr b 0x18) 0 (((pbM b - 1) * pbStr b 0x18 + 4 * pbN b : Nat) : Int))
      || (pbMode b = 2 && !s.mxOk g (pbAddr b 0x28) 0 ((4 * pbN b : Nat) : Int))
      || !s.mxRegion g o (rowOff (pbOstep b) (pbStr b 0x20) (outs - 1) (pbM b - 1)) (pbN b)
      || (pbKs b > 0 && pbSpk b = 0 && !s.mxOk g (pbAddr b 0x34) 0 ((pbKs b * pbM b * pbN b * 4 : Nat) : Int))
      || (pbSpk b > 0 && !s.mxPartialOk g b) then 0x0207
  else 0

-- Identifiers and handles (06 R147, R156, R161) ------------------------------------------------------------------------------------------------------

/-- A handle list with its lowest free handle bound: the handle, its generation. -/
def bindHandle (hs : List Handle) (op : Nat) : Option (Nat × Nat × List Handle) :=
  match hs.findIdx? fun h => h.op.isNone with
  | none => none
  | some i =>
    let gen := ((hs[i]?).getD {}).gen + 1
    some (i, gen, hs.set i { gen := gen, op := some op })

/-- The request that an identifier names: its entry's number; none where it is stale. -/
def Wg.reqNamed (g : Wg) (a : Word) : Option Nat :=
  if a.getLsbD 31 || a.getLsbD 30 then none
  else match g.reqs[(a.extractLsb' 0 5).toNat]? with
    | some h => if h.gen % 2 ^ 25 == (a.extractLsb' 5 25).toNat then h.op else none
    | none => none
/-- The block handle that an identifier names, with its frame; none where it is stale. -/
def Wg.blkNamed (g : Wg) (a : Word) : Option (Nat × Nat) :=
  if a.getLsbD 31 || !a.getLsbD 30 then none
  else
    let i := (a.extractLsb' 0 3).toNat
    match g.blks[i]? with
    | some h => if h.gen % 2 ^ 27 == (a.extractLsb' 3 27).toNat then h.op.map fun f => (i, f) else none
    | none => none

/-- Frames that nothing holds are free (06 R147). -/
def Mx.sweep (m : Mx) : Mx :=
  let used (x : MxFrame) : Bool := m.entries.any fun e => e.cluster == x.cluster && e.frames.contains (some x.frame)
  { m with frames := m.frames.filter fun x => !x.unbound || used x }

/-- An entry by number, and a change of it. -/
def State.updMx (s : State) (id : Nat) (g : MxEntry → MxEntry) : State :=
  { s with mx := { s.mx with entries := mapFirst (fun e => e.id == id) g s.mx.entries } }

/-- A request completes (06 R156): its entry and handle are free, and the arbiter looks again. -/
def State.mxDone (s : State) (e : MxEntry) : State :=
  let s1 := { s with mx := { s.mx with entries := s.mx.entries.filter fun x => x.id != e.id }.sweep }
  let s2 := match s1.wg? e.wg with
    | some g => s1.setWg { g with reqs := g.reqs.set e.handle { (g.reqs[e.handle]?).getD {} with op := none } }
    | none => s1
  (s2.later (.mxGrant e.cluster)).wgTry e.wg

-- The arbiter (06 R157) --------------------------------------------------------------------------------------------------------------------------------

/-- Effective PRIO and MXSH of an entry's region (02 R35), and the region: its context and address. -/
def State.mxRegionOf (s : State) (e : MxEntry) : Nat × Nat × (Nat × DWord) :=
  match s.launch? e.launch with
  | none => (0, 1, (e.ctx, 0))
  | some l => match s.regionOf l with
    | none => (0, 1, (l.ctx, l.rcb))
    | some c => (effective 4 Rcb.prio c, max 1 (effective 3 Rcb.mxsh c), (l.ctx, l.rcb))

/-- Effective priority of an entry. -/
def State.mxPrio (s : State) (e : MxEntry) : Nat := min ((s.mxRegionOf e).1 + e.passed / 8) 31

/-- Every block that an entry names is loaded, and so is every frame that a resume of its workgroup loads again (R148), and every workgroup whose stage
memory it uses has a core (R160). -/
def State.mxLoaded (s : State) (e : MxEntry) : Bool :=
  (e.frames.all fun f => match f with
    | none => true
    | some n => ((s.mxFrame e.cluster n).map MxFrame.loaded).getD false)
    && s.mx.frames.all fun x => x.loaded || !(x.resumed && x.wg == e.wg && x.cluster == e.cluster)
    && !(s.wg? e.wg).any fun g => s.mxAway g (pbUses e.pb)

/-- Pending entries of a cluster, oldest first. -/
def State.mxPend (s : State) (cluster : Nat) : List MxEntry := s.mx.entries.filter fun e => e.cluster == cluster && e.stage == .pending
/-- Some pending entry of another region has the effective priority of an entry. -/
def State.mxRival (s : State) (e : MxEntry) : Option MxEntry :=
  (s.mxPend e.cluster).find? fun x => (s.mxRegionOf x).2.2 != (s.mxRegionOf e).2.2 && s.mxPrio x == s.mxPrio e
/-- Grants in a row that the region of an entry has received while a rival was pending. -/
def State.mxRun (s : State) (e : MxEntry) : Nat :=
  match s.mx.last.find? fun x => x.1 == e.cluster with
  | some (_, r, n) => if r == (s.mxRegionOf e).2.2 then n else 0
  | none => 0

/-- The pending entry that is granted next: of the loaded ones the highest effective priority, ties to the oldest. Under the share limit of R157 the
grant goes to the oldest pending entry of another region of the same priority; while that one's blocks are loading nothing is granted. -/
def State.mxChoice (s : State) (cluster : Nat) : Option MxEntry :=
  let best := ((s.mxPend cluster).filter s.mxLoaded).foldl (fun b e => match b with
    | none => some e
    | some x => if s.mxPrio x < s.mxPrio e then some e else b) none
  match best with
  | none => none
  | some e =>
    if s.mxRun e ≥ (s.mxRegionOf e).2.1 then
      match s.mxRival e with
      | some x => if s.mxLoaded x then some x else none
      | none => some e
    else some e

/-- The initial values that an operation reads from CREF, once, at its grant (06 R153); empty without INIT. -/
def State.mxC0 (s : State) (g : Wg) (pb : List Byte) : SMap 32 :=
  if !pbInit pb then []
  else (List.range (pbM pb * pbN pb)).foldl (fun m x =>
    let i := x / pbN pb
    let j := x % pbN pb
    smSet m (128 * i + j) (BitVec.ofNat 32 (leOf (s.mxBytes g (pbAddr pb 0x18) ((i * pbStr pb 0x18 + 4 * j : Nat) : Int) 4)))) []

/-- MX_GRANT (06 R157): g and C(0) are read at the grant (R153, R159). -/
def execMxGrant (cluster : Nat) (s : State) : Out :=
  .next (if s.mx.entries.any fun e => e.cluster == cluster && e.stage == .running then s
    else match s.mxChoice cluster with
      | none => s
      | some e =>
        let region := (s.mxRegionOf e).2.2
        let run := if (s.mxRival e).isSome then s.mxRun e + 1 else 0
        let g := s.wg? e.wg
        let gs := if e.step > 0 then e.g else match g with
          | some w => if pbMode e.pb = 2 then (List.range (pbN e.pb)).map fun j => BitVec.ofNat 32 (leOf (s.mxBytes w (pbAddr e.pb 0x28) ((4 * j : Nat) : Int) 4)) else []
          | none => []
        let c0 := if e.step > 0 then e.c0 else match g with
          | some w => s.mxC0 w e.pb
          | none => []
        let pass (x : MxEntry) : MxEntry :=
          if x.id == e.id then { x with stage := .running, g := gs, c0 := c0 }
          else if x.cluster == cluster && x.stage == .pending then { x with passed := x.passed + 1 } else x
        let s1 := { s with mx := { s.mx with
          entries := s.mx.entries.map pass, last := upsert (fun x => x.1 == cluster) (cluster, region, run) s.mx.last } }
        let s2 := match g with
          | some w => s1.setWg { w with mxgrant := w.mxgrant + 1 }
          | none => s1
        let planes := match g with
          | some w => ((mxFmtOf (pbAfmt e.pb) (s.wgSlot w (pbAslot e.pb))).map MxFmt.planes).getD 8
          | none => 8
        s2.after (128 + pbM e.pb * planes) (.mxOperationComplete cluster))

-- One step (06 R153 to R155) --------------------------------------------------------------------------------------------------------------------------

/-- Column j of the active set (06 R141): the elements of `kb` K-blocks. -/
def State.mxColumn (s : State) (e : MxEntry) (j kb : Nat) : List (List FVal) :=
  (List.range kb).map fun b => (List.range 32).map fun i =>
    let k := 32 * b + i
    let blk := (if k ≥ 256 then 2 else 0) + (if j ≥ 64 then 1 else 0)
    match (e.frames[blk]?).getD none with
    | none => .num false 0 0
    | some f =>
      let cols := ((s.mxFrame e.cluster f).map MxFrame.cols).getD []
      (((cols[j % 64]?).bind fun col => col[k % 256]?)).getD (.num false 0 0)

/-- Rows of A for step t, from stage memory. -/
def State.mxRowsStage (s : State) (g : Wg) (e : MxEntry) (t : Nat) : List (List FVal) :=
  match mxFmtOf (pbAfmt e.pb) (s.wgSlot g (pbAslot e.pb)) with
  | none => []
  | some f =>
    let x := s.mxOperand g (pbAddr e.pb 0x10) f (pbAslot e.pb)
    (List.range (pbM e.pb)).map fun i => s.mxRow g x (rowOff (pbAstep e.pb) (pbStr e.pb 0x10) t i) (32 * pbKb e.pb)

/-- The window stream that feeds an entry (06 AWIN, 09 R255): of the entry's workgroup or its cluster group, with A's element size. -/
def State.mxWindow (s : State) (g : Wg) (e : MxEntry) : Option WinUnit :=
  let fits (u : WinUnit) : Bool :=
    u.cluster == e.cluster && !winDest u.cfg && u.failed.isNone && !s.winOver u
      && (u.wg == g.id || (g.group.isSome && (s.wg? u.wg).any fun x => x.launch == g.launch && x.group == g.group))
      && match mxFmtOf (pbAfmt e.pb) Slot.none with
         | some (.pub f) => f.width == 8 * winSize u.cfg
         | _ => false
  s.eng.wins.find? fits

/-- A window row as A values (09 R255): truncated or padded with zero elements. -/
def winValues (f : Fmt) (n : Nat) (row : List Nat) : List FVal := (List.range n).map fun i => f.decode ((row[i]?).getD 0)

/-- Rows of A for a step from the window unit: none where they have not been emitted yet, else the rows and the unit without them. -/
def State.mxRowsWin (s : State) (g : Wg) (e : MxEntry) : Option (List (List FVal) × State) :=
  let m := pbM e.pb
  let n := 32 * pbKb e.pb
  let zero : List FVal := List.replicate n (.num false 0 0)
  match s.mxWindow g e with
  | none => some (List.replicate m zero, s)
  | some u =>
    if u.rows.length < m && !u.emitted then none
    else
      let f := match mxFmtOf (pbAfmt e.pb) Slot.none with
        | some (.pub f) => f
        | _ => fmt16
      let rows := (u.rows.take m).map (winValues f n)
      let rest := u.rows.drop m
      let s1 := s.updWin u.id fun x => { x with rows := rest }
      some (rows ++ List.replicate (m - rows.length) zero, s1)

/-- The initial value of element (i, j) of step t (06 R153, 04 R101); `t` counts from 0. R101 multiplies by g at every step, the first included, and
R153 from the second: the promise governs (00 R2; log entry 32, DEDUCED). -/
def mxInit (e : MxEntry) (t i j : Nat) : Nat :=
  let v := initValue (smGet e.c0 (128 * i + j)).toNat
  let c := if t = 0 then v else initValue (smGet e.acc (128 * i + j)).toNat
  match pbMode e.pb with
  | 1 => c
  | 2 => decayValue ((e.g[j]?).getD 0).toNat c
  | _ => v

/-- The result of step t: C[i][j] (06 R153). -/
def State.mxStep (s : State) (g : Wg) (e : MxEntry) (t : Nat) (rows : List (List FVal)) : List (List Nat) :=
  let kb := pbKb e.pb
  let align := (mxFmtOf (pbAfmt e.pb) (s.wgSlot g (pbAslot e.pb))).bind MxFmt.align
  let cols := (List.range (pbN e.pb)).map fun j => s.mxColumn e j kb
  rows.zipIdx.map fun r => cols.zipIdx.map fun c => accBlocks align (mxInit e t r.2 c.2) (pbKbt e.pb) (chunksOf 32 kb r.1) c.1

/-- One output row written (06 R154): binary32 unchanged, or through OSLOT. -/
def State.mxOutRow (s : State) (g : Wg) (e : MxEntry) (off : Nat) (row : List Nat) : State :=
  let base := pbAddr e.pb 0x20
  let sl := s.wgSlot g (pbOslot e.pb)
  let scale := s.wgScale g sl
  if !pbOconv e.pb then s.mxWrite g base off (row.flatMap (bytesOf 4))
  else match sl.format?.bind SlotFmt.dxWidth, sl.format?.bind SlotFmt.published with
    | some w, _ =>
      let size := 4 * (w + 2)
      (chunksOf 32 (row.length / 32) row).zipIdx.foldl (fun s b =>
        let (codes, e0, e1) := dxEncode sl w scale (b.1.map fmt32.decode)
        let x := codes.zipIdx.foldl (fun x c => x + c.1 * 2 ^ ((w + 2) * c.2)) 0
        let n := off / size + b.2
        (s.mxWrite g base ((off + size * b.2 : Nat) : Int) (bytesOf size x)).mxWrite g base (sl.eoff.toInt + ((2 * n : Nat) : Int)) (bytesOf 1 e0 ++ bytesOf 1 e1)) s
    | none, some f => s.mxWrite g base off (row.flatMap fun x => bytesOf (f.width / 8) (f.round sl.mode sl.sat ((fmt32.decode x).scale (-scale))))
    | none, none => s

/-- The outputs of step t (06 R154). -/
def State.mxOut (s : State) (g : Wg) (e : MxEntry) (t : Nat) (rows : List (List Nat)) : State :=
  if pbOutlast e.pb && t + 1 < pbSteps e.pb then s
  else
    let at_ := if pbOutlast e.pb then 0 else t
    rows.zipIdx.foldl (fun s r => s.mxOutRow g e (rowOff (pbOstep e.pb) (pbStr e.pb 0x20) at_ r.2) r.1) s

/-- The accumulator store after a step. -/
def accOf (rows : List (List Nat)) : SMap 32 :=
  rows.zipIdx.foldl (fun m r => r.1.zipIdx.foldl (fun m c => smSet m (128 * r.2 + c.2) (BitVec.ofNat 32 c.1)) m) []

/-- MX_OPERATION_COMPLETE (06 R153): the running operation's step is done and its outputs are written; after the last step the operation completes, or
gives its partial to the reduction (R155). -/
def execMxOperationComplete (cluster : Nat) (s : State) : Out :=
  .next (match s.mx.entries.find? fun e => e.cluster == cluster && e.stage == .running with
    | none => s
    | some e =>
      match s.wg? e.wg with
      | none => s
      | some g =>
        match (if s.mxAway g (pbUses e.pb) then none else if pbAwin e.pb then s.mxRowsWin g e else some (s.mxRowsStage g e e.step, s)) with
        | none => s.later (.mxOperationComplete cluster)
        | some (rows, s1) =>
          let c := s1.mxStep g e e.step rows
          let acc (x : MxEntry) : MxEntry := { x with acc := accOf c, step := x.step + 1 }
          if pbKs e.pb > 0 then
            ((s1.updMx e.id fun x => { acc x with stage := .reducing }).later (.mxReduction cluster)).later (.mxGrant cluster)
          else
            let s2 := (s1.updMx e.id acc).mxOut g e e.step c
            if e.step + 1 < pbSteps e.pb then
              let planes := ((mxFmtOf (pbAfmt e.pb) (s.wgSlot g (pbAslot e.pb))).map MxFmt.planes).getD 8
              s2.after (pbM e.pb * planes) (.mxOperationComplete cluster)
            else s2.mxDone e)

-- Split K (06 R155) ------------------------------------------------------------------------------------------------------------------------------------

/-- The split-0 entry of a member's group. -/
def State.mxSplit0 (s : State) (e : MxEntry) : Option MxEntry := s.mxZero e.launch e.pb

/-- A member's partial written at the RBUF that it names, relative to the workgroup of the split-0 member, and the member complete; it waits where split
0 is not posted. Where the bytes lie outside that workgroup's reach nothing is written (log entry 32, DESIGN CHOICE). -/
def State.mxPartial (s : State) (e : MxEntry) : State :=
  match s.mxSplit0 e with
  | none => s.later (.mxReduction e.cluster)
  | some z =>
    match s.wg? z.wg with
    | none => s
    | some g =>
      if s.mxAway g [pbAddr e.pb 0x34] then s.later (.mxReduction e.cluster)
      else
      let n := pbN e.pb
      let bytes := (List.range (pbM e.pb * n)).flatMap fun x => bytesOf 4 (smGet e.acc (128 * (x / n) + x % n)).toNat
      let s1 := s.mxWrite g (pbAddr e.pb 0x34) (pbPartOff e.pb : Nat) bytes
      let p : MxPartial :=
        { launch := e.launch, group := pbGroup e.pb, msel := pbMsel e.pb, nsel := pbNsel e.pb, spk := pbSpk e.pb, kbt := pbKbt e.pb }
      (({ s1 with mx := { s1.mx with partials := s1.mx.partials ++ [p] } }).mxDone e).later (.mxReduction z.cluster)

/-- The partials that a split-0 entry has been given. -/
def State.mxGiven (s : State) (e : MxEntry) : List MxPartial :=
  s.mx.partials.filter fun p => p.launch == e.launch && p.group == pbGroup e.pb && p.msel == pbMsel e.pb && p.nsel == pbNsel e.pb

/-- The combination of 04 R100 in ascending split-tag order, once every partial is there. -/
def State.mxCombine (s : State) (e : MxEntry) : State :=
  match s.wg? e.wg with
  | none => s
  | some g =>
    let given := s.mxGiven e
    let splits := (List.range (pbKs e.pb)).map (· + 1)
    if !splits.all (fun k => given.any fun p => p.spk == k) then s
    else if s.mxAway g [pbAddr e.pb 0x34, pbAddr e.pb 0x20] then s.later (.mxReduction e.cluster)
    else
      let n := pbN e.pb
      let m := pbM e.pb
      let word (k i j : Nat) : Nat := leOf (s.mxBytes g (pbAddr e.pb 0x34) (((k - 1) * m * n * 4 + (i * n + j) * 4 : Nat) : Int) 4)
      let tag (k : Nat) : Nat := ((given.find? fun p => p.spk == k).map MxPartial.kbt).getD 0
      let c := (List.range m).map fun i => (List.range n).map fun j =>
        splits.foldl (fun acc k => combine acc (tag k) (word k i j)) (smGet e.acc (128 * i + j)).toNat
      let s1 := { s with mx := { s.mx with partials := s.mx.partials.filter fun p => !given.contains p } }
      (s1.mxOut g e 0 c).mxDone e

/-- MX_REDUCTION (06 R155). -/
def execMxReduction (cluster : Nat) (s : State) : Out :=
  .next ((s.mx.entries.filter fun e => e.cluster == cluster && e.stage == .reducing).foldl (fun s e =>
    if pbSpk e.pb = 0 then s.mxCombine e else s.mxPartial e) s)

-- Block loads (06 R145 to R148) ---------------------------------------------------------------------------------------------------------------------

/-- MX_BLOCK_LOAD_COMPLETE: the frame holds the block's values, and entries that waited for it may be granted (06 R157). -/
def execMxBlockLoadComplete (cluster frame : Nat) (s : State) : Out :=
  .next (match s.mxFrame cluster frame with
    | none => s
    | some x =>
      match s.wg? x.wg with
      | none => s
      | some g =>
        if x.loaded then s
        else if s.mxAway g [bdAddr x.desc] then s.later (.mxBlockLoadComplete cluster frame)
        else match mxFmtOf (bdFmt x.desc) (s.wgSlot g (bdSlot x.desc)) with
          | none => s
          | some f =>
            let op := s.mxOperand g (bdAddr x.desc) f (bdSlot x.desc)
            let cols := (List.range (bdN x.desc)).map fun n => s.mxRow g op (n * bdStr x.desc) (bdK x.desc)
            ((s.setMxFrame { x with loaded := true, again := false, resumed := false, cols := cols }).later (.mxGrant cluster)).wgTry x.wg)

/-- The checks of 06 R163 on a block descriptor, in the order of its table. -/
def State.mxBlockStatus (s : State) (g : Wg) (d : Nat) : Nat :=
  let fmt := mxFmtOf (bdFmt d) (s.wgSlot g (bdSlot d))
  let x := s.mxOperand g (bdAddr d) (fmt.getD (.pub fmt16)) (bdSlot d)
  if bdAddr d % 8 ≠ 0 || (match fmt with
      | some (.dx w) => bdStr d % (4 * (w + 2)) != 0
      | _ => false) then 0x0201
  else if bitsAt d 7 1 ≠ 0 || bitsAt d 23 9 ≠ 0 || bitsAt d 64 64 ≠ 0 || !mxCode (bdFmt d) || (bdFmt d ≠ 0xF && bdSlot d ≠ 0) || bdK d = 0 || bdK d > 256
      || (bdFmt d = 0xF && bdK d % 32 ≠ 0) then 0x0202
  else if fmt.isNone then 0x0203
  else if !s.mxRegion g x ((bdN d - 1) * bdStr d) (bdK d) then 0x0207
  else 0

-- Instructions (06 R161 to R165) ----------------------------------------------------------------------------------------------------------------------

/-- The address checks of a block or descriptor in stage memory (06 R152, R163): the bytes, or the status. -/
def State.mxRead (s : State) (g : Wg) (a : Word) (align n : Nat) : Except Nat (List Byte) :=
  if a.toNat % align ≠ 0 then .error 0x0201
  else match s.stageAddr g a 0 0 n true with
    | .ok (w, p) => .ok (s.stageBytes w p n)
    | .error _ => .error 0x0207

/-- The block that a lane of mx.post or mx.bload names, as the engine reads it: its bytes, or the status of a bad address. -/
def State.mxFetch (s : State) (i : Nat) (a : Word) (align n : Nat) : Nat × List Byte :=
  match s.wg? i with
  | none => (0x0207, [])
  | some g => match s.mxRead g a align n with
    | .error c => (c, [])
    | .ok b => (0, b)

/-- One lane's mx.post (06 R163): none while the table or the workgroup's handles are full. -/
def State.postOne (s : State) (i : Issuer) (status : Nat) (b : List Byte) : Option Word × State :=
  match s.wg? i.wg with
  | none => (some 0, s)
  | some g =>
    let c := if status ≠ 0 then status else s.mxStatus g b
    let cl := clusterOf i.core
    if c ≠ 0 then (some (excStatus c), s)
    else if (s.mx.entries.filter fun e => e.cluster == cl).length ≥ 32 then (none, s)
    else match bindHandle g.reqs s.nonce with
      | none => (none, s)
      | some (h, gen, hs) =>
        let frames := (List.range 4).map fun n => if pbBlk b n = 0xF then none else g.blkFrame (pbBlk b n)
        let e : MxEntry :=
          { id := s.nonce, cluster := cl, core := i.core, wg := g.id, handle := h, ctx := i.ctx, launch := g.launch, ltag := i.ltag, pb := b,
            frames := frames }
        let s1 := { s with nonce := s.nonce + 1 }.setWg { g with reqs := hs }
        (some (BitVec.ofNat 32 (h + 32 * (gen % 2 ^ 25))),
          ({ s1 with mx := { s1.mx with entries := s1.mx.entries ++ [e] } }).later (.mxGrant cl))

/-- One lane's mx.bload (06 R163, R147): the lowest free handle, the lowest free frame. -/
def State.bloadOne (s : State) (i : Issuer) (status : Nat) (b : List Byte) : Option Word × State :=
  match s.wg? i.wg with
  | none => (some 0, s)
  | some g =>
    let d := leOf b
    let c := if status ≠ 0 then status else s.mxBlockStatus g d
    let cl := clusterOf i.core
    let free := (List.range 8).find? fun n => (s.mxFrame cl n).isNone
    if c ≠ 0 then (some (excStatus c), s)
    else match free with
      | none => (some (excStatus 0x0208), s)
      | some n => match bindHandle g.blks n with
        | none => (some (excStatus 0x0208), s)
        | some (h, gen, hs) =>
          let x : MxFrame := { cluster := cl, frame := n, wg := g.id, handle := h, ctx := i.ctx, desc := d }
          (some (BitVec.ofNat 32 (h + 8 * (gen % 2 ^ 27) + 2 ^ 30)),
            ((s.setWg { g with blks := hs }).setMxFrame x).later (.mxBlockLoadComplete cl n))

/-- The acceptance of a matrix post or block load. -/
def State.acceptMx (s : State) (i : Issuer) (c : EngCmd) : Option Word × State :=
  match c with
  | .post st b => s.postOne i st b
  | .bload st b => s.bloadOne i st b
  | _ => (some 0, s)

/-- mx.post (06 R163). -/
def execMxPost (o : Operands) (s : State) : Out :=
  .next (withLL o (fun f w act s =>
    engineIssue o f w act [o.d.toNat] (fun i c s => s.acceptMx i c) (fun s l =>
      let b := s.mxFetch w.wg (srcA32 f w o l) 64 64
      .post b.1 b.2) s) s)

/-- mx.bload (06 R163). -/
def execMxBload (o : Operands) (s : State) : Out :=
  .next (withLL o (fun f w act s =>
    engineIssue o f w act [o.d.toNat] (fun i c s => s.acceptMx i c) (fun s l =>
      let b := s.mxFetch w.wg (srcA32 f w o l) 16 16
      .bload b.1 b.2) s) s)

/-- The acceptance of any engine command (09 R235, R249, R254; 06 R163). -/
def State.accept (s : State) (i : Issuer) (c : EngCmd) : Option Word × State :=
  match c with
  | .move _ _ _ _ _ => s.acceptMove i c
  | .strm _ _ _ _ => s.acceptStrm i c
  | .win _ _ _ => s.acceptWin i c
  | .post _ _ | .bload _ _ => s.acceptMx i c

/-- What an identifier of a matrix request or block load makes a thread wait for; none where it has completed or is stale (06 R164). -/
def State.mxPending (s : State) (g : Wg) (a : Word) : Wait :=
  match g.reqNamed a with
  | some id => if s.matrixDone id then .none else .matrix id
  | none => match g.blkNamed a with
    | some (_, f) =>
      let id := loadWait (clusterOf g.core) f
      if s.matrixDone id then .none else .matrix id
    | none => .none

/-- mx.wait (06 R164): a join is an acquire (07 R189). -/
def execMxWait (o : Operands) (s : State) : Out :=
  .next (withSources o (fun f w act s =>
    match s.wg? w.wg with
    | none => s
    | some g =>
      let wait (l : Nat) : Wait := s.mxPending g (srcA32 f w o l)
      if (lanesOf act).any fun l => wait l != .none then s.retryEach f w f.lanes (fun l => if act.getLsbD l then wait l else .none)
      else s.joinAll f.core (s.ctxOf w)) s)

/-- mx.poll (06 R164). -/
def execMxPoll (o : Operands) (s : State) : Out :=
  .next (withSources o (fun f w act s =>
    match s.wg? w.wg with
    | none => s
    | some g =>
      let done (l : Nat) : Bool := s.mxPending g (srcA32 f w o l) == .none
      let s1 := s.setWarp (w.setPred act o.d.toNat done)
      if (lanesOf act).any done then s1.joinAll f.core (s.ctxOf w) else s1) s)

/-- One lane's mx.bfree (06 R147, R164). -/
def State.bfreeOne (s : State) (wg : Nat) (a : Word) : State :=
  match s.wg? wg with
  | none => s
  | some g => match g.blkNamed a with
    | none => s
    | some (h, f) =>
      let cl := clusterOf g.core
      let s1 := s.setWg { g with blks := g.blks.set h { (g.blks[h]?).getD {} with op := none } }
      let free (x : MxFrame) : MxFrame := if x.cluster == cl && x.frame == f then { x with unbound := true } else x
      { s1 with mx := { s1.mx with frames := s1.mx.frames.map free }.sweep }

/-- mx.bfree (06 R164). -/
def execMxBfree (o : Operands) (s : State) : Out :=
  .next (withSources o (fun f w act s => (lanesOf act).foldl (fun s l => s.bfreeOne w.wg (srcA32 f w o l)) s) s)

/-- mx.accrd (06 R165). -/
def execMxAccrd (o : Operands) (s : State) : Out :=
  .next (withLL o (fun f w act s =>
    let sl := s.slotOf w o.fs.toNat
    match sl.format?.bind SlotFmt.published with
    | none => s.trapHere f w act { kind := kSlotFormat }
    | some fm =>
      let xs := stageAddrs s w act (srcA32 f w o) (fun _ => 0) 4 4 true
      match stageTrap xs with
      | some (k, m) => s.trapHere f w act { kind := k, lmask := m }
      | none =>
        match s.wg? w.wg with
        | none => s
        | some g =>
          let wait (l : Nat) : Wait := s.mxPending g (srcBn s f w o l)
          if !f.grid && (lanesOf act).any (fun l => wait l != .none) then
            s.retryEach f w f.lanes (fun l => if act.getLsbD l then wait l else .none)
          else
            let ws : List RegWrite := xs.filterMap fun x => match x.2 with
              | .ok (g', p) =>
                some { lane := x.1, reg := o.d.toNat, val := BitVec.ofNat 32 (fm.round sl.mode sl.sat
                  ((fmt32.decode (s.stageRead g' p 4)).scale (-(sl.scaleExp (s.kreg w))))) }
              | .error _ => none
            (s.llResult f w act o.fsel [o.d.toNat] ws).joinAll f.core (s.ctxOf w)) s)

end Sys2Proof.Machine
end

