-- ==== Sys2Proof/Machine/Suspend.lean ====
section
/-!
DEFINITION. Machine/Suspend.lean: taking a workgroup off its core with everything that the module holds for it, and putting it on a core again
(06 R148, R160; 08 R229; 09 R245, R251, R256; 12 R306; 17 R408, R409, R412).
-/
namespace Sys2Proof.Machine

/-- Requests of a warp that have not been performed, and its outstanding instructions: a workgroup is taken off its core when there are none. -/
def State.quiet (s : State) (w : Warp) : Bool :=
  !(s.fe.llops.any fun o => o.core == w.core && o.slot == w.slot)
    && !(s.mem.reqs.any fun r => r.core == w.core && r.slot == w.slot && !(r.performed && r.error.isNone))
    && !(s.fe.issues.any fun i => i.core == w.core && i.slot == w.slot)
    && !(s.grid.iters.any fun i => i.core == w.core && i.slot == w.slot)

/-- The lines that a workgroup locks with the numbers of their locking, in that order (08 R229). -/
def State.locksOf (s : State) (id : Nat) : List (Nat × Nat) :=
  let all := s.mem.fab.filterMap fun l => (l.locks.find? fun x => x.1 == id).map fun x => (x.2, l.vline)
  let put (xs : List (Nat × Nat)) (x : Nat × Nat) : List (Nat × Nat) := (xs.filter fun y => y.1 < x.1) ++ [x] ++ xs.filter fun y => x.1 < y.1
  all.foldl put []

/-- Elements that a stream has read ahead of a port's reader and that have not been popped are given up: it reads them again (09 R251). -/
def Port.rewound (p : Port) : Port := if p.queue.isEmpty then p else { p with queue := [], ended := false }
def State.rewindStrm (s : State) (x : Strm) : Strm :=
  match s.portAt x.port with
  | some p =>
    if x.started then
      { x with
        next := x.next - p.queue.length, delivered := x.delivered && p.queue.isEmpty, met := none, held := none, noted := [],
        failed := if p.queue.isEmpty then x.failed else none }
    else x
  | none => x
/-- A grid ingress port as a save keeps it: a stream's elements are given up; a window stream's tokens, whose rows have been emitted, are kept
(log entry 20, DEDUCED). -/
def State.savedPort (s : State) (x : Nat × Port) : Nat × Port :=
  (x.1, if s.eng.strms.any fun y => y.port == x.1 && y.started then x.2.rewound else x.2)

/-- A thread as a save keeps it: waits that end with their instruction, and sleeps, are given up; barriers, rendezvous and children stay
(14 R354, R360, R362; 08 R232). -/
def Thread.kept (t : Thread) : Thread :=
  { t with
    wait := match t.wait with
      | .bar b p => .bar b p
      | .castle => .castle
      | .child c => .child c
      | _ => .none
    waddrDeadline := none, waddrDone := none, laneDone := none }

/-- A workgroup taken off its core. -/
def State.suspendWg (s : State) (g : Wg) : Parked × State :=
  let mine (o : EngOp) : Bool := match o.owner with
    | .handle x _ => x == g.id
    | _ => false
  let ws := (s.fe.warps.filter fun w => w.wg == g.id).map fun w =>
    { w with threads := w.threads.map Thread.kept, ports := w.ports.map Port.rewound, bundles := [] }
  let p : Parked :=
    { wg := g, warps := ws, ops := s.eng.ops.filter mine, strms := (s.eng.strms.filter fun x => x.wg == g.id).map s.rewindStrm,
      gports := (s.eng.gports.filter fun x => x.2.bound && x.2.wg == g.id).map s.savedPort,
      wins := (s.eng.wins.filter fun u => u.wg == g.id).map fun u => { u with line := [], met := none, held := none, noted := [] },
      entries := (s.mx.entries.filter fun e => e.wg == g.id).map fun e =>
        { e with stage := if e.stage = .running then .pending else e.stage, passed := 0 },
      frames := (s.mx.frames.filter fun x => x.wg == g.id).map fun x => { x with loaded := false, again := x.again || x.loaded, cols := [] },
      locks := s.locksOf g.id }
  (p, s.removeWg g.id)

/-- The usage of the workgroup's region is given back (12 R306). -/
def State.uncharge (s : State) (g : Wg) : State :=
  match s.launch? g.launch with
  | some l => s.releaseRegion l g
  | none => s

/-- The core's dirty lines of the workgroup's context are at home, and so is every write of the core (07 R166, R169). -/
def State.flushed (s : State) (g : Wg) : Bool :=
  let slots := (s.fe.warps.filter fun w => w.wg == g.id).map Warp.slot
  let own (ws : List Writer) : Bool := ws.any fun x => slots.contains x.slot
  !(s.mem.fab.any fun l => l.core == g.core && l.dirty != 0 && own l.writers)
    && !s.mem.reqs.any fun r => r.core == g.core && !r.performed && ((r.from_ == .thread && slots.contains r.slot) || own r.writers)

/-- Workgroups of a die whose warps are all parked in dwait or have exited, with nothing outstanding, are parked once their stores are at home (12 R306,
07 R169). -/
def State.parkReady (s : State) (die : Nat) : State :=
  let ready (g : Wg) : Bool :=
    let ws := s.fe.warps.filter fun w => w.wg == g.id
    dieOf g.core == die && !ws.isEmpty && ws.all fun w => w.atDwait && s.quiet w
  (s.fe.wgs.filter ready).foldl (fun s g =>
    if !s.flushed g then s.writeBackAll g.core (((s.launch? g.launch).map Launch.ctx).getD 0)
    else
      let (p, s1) := (s.uncharge g).suspendWg g
      { s1 with saved := { s1.saved with parked := s1.saved.parked ++ [p] } }.pokeAll) s

/-- Some workgroup of a die is about to be parked. -/
def State.parkPending (s : State) (die : Nat) : Bool :=
  s.fe.wgs.any fun g =>
    let ws := s.fe.warps.filter fun w => w.wg == g.id
    dieOf g.core == die && !ws.isEmpty && ws.all Warp.atDwait

/-- A workgroup without a core may go on: every child that it waits for has completed, or it is not parked in dwait (12 R306, 17 R412). -/
def State.parkedReady (s : State) (p : Parked) : Bool :=
  match s.launch? p.wg.launch with
  | none => false
  | some l => !p.warps.all Warp.atDwait || p.warps.all fun w => w.threads.all fun t => t.exited || match t.wait with
      | .child c => s.childDone l.ctx c
      | _ => true

-- Room on a core (02 R30) ---------------------------------------------------------------------------------------------------------------------------

/-- Free warp slots of a core, lowest first. -/
def State.freeSlots (s : State) (core : Nat) : List Nat := (List.range Config.warpSlots).filter fun n => (s.warp? core n).isNone
/-- Frame-store bytes in use on a core, as intervals: front-end frames, and the iteration frames of its configurations (02 R30, R31). -/
def State.framesUsed (s : State) (core : Nat) : List (Nat × Nat) :=
  ((s.fe.wgs.filter fun g => g.core == core).map fun g => (g.frameLo, g.frameLo + g.frameLen))
    ++ (s.grid.cfgs.filter fun c => c.core == core).flatMap fun c => c.bases.map fun b => (b.1, b.1 + b.2)
/-- An interval of a store of `top` bytes that meets none in use. -/
def frameFree (used : List (Nat × Nat)) (top lo len : Nat) : Bool :=
  decide (lo + len ≤ top) && used.all fun u => decide (lo + len ≤ u.1 ∨ u.2 ≤ lo)
/-- The lowest place for contiguous frame bytes on a core (02 R30: upward from the bottom). -/
def State.frameFit (s : State) (core len : Nat) : Option Nat :=
  let used := s.framesUsed core
  ((0 :: used.map Prod.snd).filter fun lo => frameFree used Config.frameBytes lo len).foldl (fun b x => match b with
    | none => some x
    | some y => some (min x y)) none
/-- The highest place for the frames of a tag space (02 R30: downward from the top). -/
def frameHigh (used : List (Nat × Nat)) (len : Nat) : Option Nat :=
  ((Config.frameBytes :: used.map Prod.fst).filter fun hi => decide (len ≤ hi) && frameFree used Config.frameBytes (hi - len) len).foldl (fun b x => match b with
    | none => some (x - len)
    | some y => some (max (x - len) y)) none
/-- Stage memory in use on a core, in KiB. -/
def State.stageUsed (s : State) (core : Nat) : Nat := (s.fe.wgs.filter fun g => g.core == core).foldl (fun n g => n + g.stageKiB) 0
/-- A workgroup of `w` warps with `len` frame bytes and `kib` of stage memory fits a core. -/
def State.coreFits (s : State) (core w len kib : Nat) : Bool :=
  decide (w ≤ (s.freeSlots core).length) && (s.frameFit core len).isSome && decide (s.stageUsed core + kib ≤ Config.stageKiB)
/-- Free block frames of a core's matrix engine (06 R148). -/
def State.freeFrames (s : State) (core : Nat) : List Nat := (List.range 8).filter fun n => (s.mxFrame (clusterOf core) n).isNone

-- Putting a workgroup on a core -------------------------------------------------------------------------------------------------------------------------

/-- A saved lock taken again, or silently dropped where it would fail (08 R228, R229). -/
def State.relock (s : State) (core ctx wg n vline : Nat) : State :=
  match s.translate core ctx true .read vline with
  | .error _ => s
  | .ok x => (((s.keepXlat x).fillFab core ctx vline (lineOf x.pa) x.page (s.plainLine (lineOf x.pa))).lockAs core ctx wg n vline).2

/-- Commands that wait for a port counted anew. -/
def State.countQueued (s : State) (port : Nat) : State :=
  match s.portAt port with
  | some p => s.setPort port { p with queued := (s.eng.strms.filter fun x => x.port == port && !x.started).length }
  | none => s

/-- Chunks of an operation that have not been written start again (09 R245). -/
def State.restartOp (s : State) (o : EngOp) : State :=
  if o.failed.isSome then s
  else if o.inOrder then s.later (.btChunkComplete o.id o.done.length)
  else ((List.range o.total).filter fun c => !o.done.contains c).foldl (fun s c => s.later (.btChunkComplete o.id c)) s

/-- An entry reinstated: before the entries of its context that were posted after it, else as the youngest (06 R160). -/
def reinstate (es : List MxEntry) (e : MxEntry) : List MxEntry :=
  match es with
  | [] => [e]
  | x :: t => if x.ctx == e.ctx && decide (e.id < x.id) then e :: x :: t else x :: reinstate t e

/-- A workgroup placed on a core that it fits: new slots, frames, ports and block frames; its operations go on (17 R412). Its entries of the reservation
table come back whether or not the table has room for them: R412 asks for none (log entry 35, DESIGN CHOICE). -/
def State.placeWg (s : State) (p : Parked) (core : Nat) : State :=
  let g := p.wg
  let cl := clusterOf core
  let slots := p.warps.zip (s.freeSlots core)
  let slotOf (sub : Nat) : Nat := ((slots.find? fun x => x.1.sub == sub).map Prod.snd).getD 255
  let ctx := ((s.launch? g.launch).map Launch.ctx).getD 0
  let port (sub q : Nat) : Nat := if q < 2 ^ 20 then qPort core (slotOf sub) (q % 8) else gridPort core (q % 16)
  let frames := p.frames.zip (s.freeFrames core)
  let frameOf (f : Nat) : Nat := ((frames.find? fun x => x.1.frame == f).map Prod.snd).getD f
  let g' : Wg :=
    { g with
      core := core, frameLo := (s.frameFit core g.frameLen).getD 0,
      blks := g.blks.map fun h => { h with op := h.op.map frameOf } }
  let ops := p.ops.map fun o => { o with core := core, slot := slotOf o.sub, met := [], held := [], noted := [] }
  let strms := p.strms.map fun x => { x with core := core, slot := slotOf x.sub, port := port x.sub x.port }
  let s1 : State :=
    { s with
      fe := { s.fe with
        wgs := s.fe.wgs ++ [g'], warps := s.fe.warps ++ slots.map fun x => { x.1 with core := core, slot := x.2 } },
      eng := { s.eng with
        ops := s.eng.ops ++ ops, strms := s.eng.strms ++ strms,
        gports := p.gports.foldl (fun l x => upsert (fun y => y.1 == gridPort core (x.1 % 16)) (gridPort core (x.1 % 16), x.2) l) s.eng.gports,
        wins := s.eng.wins ++ p.wins.map fun u => { u with cluster := cl, core := core, slot := slotOf u.sub } },
      mx := { s.mx with
        entries := (p.entries.map fun e => { e with cluster := cl, core := core, frames := e.frames.map fun f => f.map frameOf }).foldl reinstate s.mx.entries,
        frames := s.mx.frames ++ frames.map fun x => { x.1 with cluster := cl, frame := x.2, resumed := true } } }
  let s2 := ops.foldl State.restartOp s1
  let s2 := (strms.map Strm.port).foldl State.countQueued s2
  let s3 := strms.foldl (fun s x => s.later (if x.started then .streamElementDelivery x.port else .streamStart x.port)) s2
  let s4 := frames.foldl (fun s x => s.later (.mxBlockLoadComplete cl x.2)) s3
  let s5 := if p.wins.isEmpty then s4 else s4.later (.windowRowEmit cl)
  let s6 := if p.entries.isEmpty && g.group.isNone then s5 else (s5.later (.mxGrant cl)).later (.mxReduction cl)
  ((p.locks.foldl (fun s k => s.relock core ctx g.id k.1 k.2) s6).joinAll core ctx).dropConsts fun x => x.cluster == cl

end Sys2Proof.Machine
end

