-- ==== Sys2Proof/Machine/Grid.lean ====
section
/-!
DEFINITION. Machine/Grid.lean: configurations and their arming, entering the grid, tags and frames, tokens on their way, and drains (02 R31, R45 to R48;
13 R316, R320 to R324, R326, R330 to R334; 17 R407; log entry 22, DEDUCED for nested levels).
-/
namespace Sys2Proof.Machine

-- Names ----------------------------------------------------------------------------------------------------------------------------------------------

def State.gcfg? (s : State) (core half : Nat) : Option GCfg := s.grid.cfgs.find? fun c => c.core == core && c.half == half
def State.setGcfg (s : State) (c : GCfg) : State :=
  { s with grid := { s.grid with cfgs := upsert (fun x => x.core == c.core && x.half == c.half) c s.grid.cfgs } }
def State.grun? (s : State) (core slot : Nat) : Option GRun := s.grid.runs.find? fun r => r.core == core && r.slot == slot
def State.updRun (s : State) (core slot : Nat) (f : GRun → GRun) : State :=
  { s with grid := { s.grid with runs := mapFirst (fun r => r.core == core && r.slot == slot) f s.grid.runs } }
def State.giter? (s : State) (id : Nat) : Option GIter := s.grid.iters.find? fun i => i.id == id
def State.updIter (s : State) (id : Nat) (f : GIter → GIter) : State :=
  { s with grid := { s.grid with iters := mapFirst (fun i => i.id == id) f s.grid.iters } }
/-- Iterations of a warp. -/
def State.gitersOf (s : State) (core slot : Nat) : List GIter := s.grid.iters.filter fun i => i.core == core && i.slot == slot
/-- A step of the grid owed unless it is owed already. -/
def State.owe (s : State) (i : Instr) : State := if s.agenda.any fun m => m.what == i then s else s.later i

/-- The constant registers of a warp's launch. -/
def State.kmap (s : State) (core slot : Nat) : SMap 32 := (((s.warp? core slot).bind s.launchOf).map Launch.k).getD []

/-- The iteration at level 0 that an iteration stands in. -/
def State.topOf (s : State) : Nat → GIter → GIter
  | 0, i => i
  | n + 1, i => match i.parent.bind s.giter? with
    | some p => State.topOf s n p
    | none => i
/-- The handlers of an iteration: those of its level and replica (R335). -/
def State.handsOf (s : State) (c : GCfg) (i : GIter) : List GHand :=
  let rep := (s.topOf 4 i).ord % GRec.repl c.bytes
  (GRec.hands c.bytes).filter fun h => h.level c.bytes == i.level && h.repn == rep
/-- The next iteration at an iteration's level (R321). -/
def State.nextIter (s : State) (i : GIter) : Option GIter :=
  s.grid.iters.find? fun x => x.core == i.core && x.slot == i.slot && x.level == i.level && x.parent == i.parent && x.ord == i.ord + 1
/-- Iterations of an inner level opened by an iteration. -/
def State.kidsOf (s : State) (i : GIter) : List GIter := s.grid.iters.filter fun x => x.parent == some i.id
/-- The least ordinal among iterations. -/
def eldest (is : List GIter) : Option GIter :=
  is.foldl (fun b x => match b with
    | none => some x
    | some y => if x.ord < y.ord then some x else b) none

/-- The iterations around an iteration, from it outward. -/
def State.chainOf (s : State) : Nat → GIter → List GIter
  | 0, i => [i]
  | n + 1, i => i :: match i.parent.bind s.giter? with
    | some p => State.chainOf s n p
    | none => []

/-- Two places in a warp's program order compared, from the outermost level in. -/
def lexLt : List Nat → List Nat → Bool
  | [], [] => false
  | [], _ :: _ => true
  | _ :: _, [] => false
  | a :: s, b :: t => decide (a < b) || (a == b && lexLt s t)
/-- A place in a warp's program order (R327): the ordinal of each iteration around, with the place of the level inside it there, and a position in the
iteration itself. -/
def State.orderKey (s : State) (at_ : Nat → Nat) (i : GIter) (pos : Nat) : List Nat :=
  (s.chainOf 4 i).reverse.flatMap fun x => if x.id = i.id then [x.ord, pos] else [x.ord, at_ (x.level + 1)]
/-- That of a memory operation, by static indices and splits. -/
def State.memKey (s : State) (c : GCfg) (i : GIter) (midx : Nat) : List Nat := s.orderKey (fun l => 2 * GRec.split c.bytes l) i (2 * midx + 1)

/-- The record's level has an inner level. -/
def GIter.hasInner (i : GIter) (c : GCfg) : Bool := decide (i.level + 1 < GRec.levels c.bytes)
/-- A handler of a key stands after its level's inner loop. -/
def GCfg.postKey (c : GCfg) (key : Nat) : Bool := ((GRec.hands c.bytes)[key]?).any fun h => h.post c.bytes
/-- Everything before an iteration's inner level has been done. -/
def State.preDone (s : State) (c : GCfg) (i : GIter) : Bool :=
  (i.writes.all fun x => c.postKey x.key) && (i.replies.all fun x => c.postKey x.key) && (i.parked.all fun x => c.postKey x.key)
    && ((s.handsOf c i).filter fun h => h.isMem && !h.post c.bytes).all fun h => i.fired.contains h.key
/-- An iteration that a drain waits for (R425): it has begun to commit, and nothing inside it is left to come back to. -/
def GIter.mustFinish (i : GIter) : Bool := i.committing || (i.begun && i.inner == 2)

/-- The oldest unretired iteration of a warp in program order (R327, R328): an outer one until what comes before its inner level is done, then the
inner ones. -/
def State.oldestFrom (s : State) (c : GCfg) : Nat → GIter → GIter
  | 0, i => i
  | n + 1, i =>
    if i.inner = 1 && s.preDone c i then
      match eldest (s.kidsOf i) with
      | some k => State.oldestFrom s c n k
      | none => i
    else i
def State.oldestIter (s : State) (core slot : Nat) : Option GIter :=
  match eldest ((s.gitersOf core slot).filter fun i => i.level == 0) with
  | none => none
  | some t => match s.gcfg? core t.half with
    | some c => some (s.oldestFrom c 4 t)
    | none => some t

-- Frames ------------------------------------------------------------------------------------------------------------------------------------------------

/-- Words of a token written into a slot and those after it, in its lanes; into a packed predicate slot, one bit (R321). -/
def writeSlot (r : GRec) (fr : SMap 32) (sl : Nat) (t : GTok) : SMap 32 :=
  (lanesOf t.mask).foldl (fun m l =>
    if r.isPred sl then
      let p := (t.pbit.getD 0)
      let old := smGet m (32 * sl + l)
      let bit := (1#32) <<< p
      smSet m (32 * sl + l) (if smGet t.words l != 0 then old ||| bit else old &&& ~~~bit)
    else (List.range t.width).foldl (fun m i => smSet m (32 * (sl + i) + l) (smGet t.words (32 * i + l))) m) fr

/-- The register slots of a frame filled from a warp's registers and predicates (R320). -/
def frameOfWarp (r : GRec) (w : Warp) : SMap 32 :=
  r.regSlots.foldl (fun m sl => (List.range 32).foldl (fun m l =>
    smSet m (32 * sl + l)
      (if r.isPred sl then (List.range 7).foldl (fun v p => if w.pred l p then v ||| ((1#32) <<< p) else v) 0
       else w.reg l (r.slotMap sl % 256))) m) []

/-- The register slots of a frame written back to a warp's registers and predicates in some lanes (R323, 17 R407). -/
def frameToWarp (r : GRec) (fr : SMap 32) (m : LaneMask) (w : Warp) : Warp :=
  r.regSlots.foldl (fun w sl =>
    if r.isPred sl then (List.range 7).foldl (fun w p => w.setPred m p fun l => (smGet fr (32 * sl + l)).getLsbD p) w
    else w.setReg m (r.slotMap sl % 256) fun l => smGet fr (32 * sl + l)) w

/-- Register slots alone. -/
def regSlotsOnly (r : GRec) (fr : SMap 32) : SMap 32 := fr.filter fun x => !r.isTmp (x.1 / 32)

-- Firing: when ------------------------------------------------------------------------------------------------------------------------------------------

/-- Lanes of the token present at a port. -/
def GIter.at? (i : GIter) (key port : Nat) : Option (LaneMask × Nat) := (i.present.find? fun p => p.1 == 4 * key + port).map Prod.snd
/-- Ports that a handler's PK marks. -/
def GHand.ports (h : GHand) : List Nat := (List.range 4).filter fun p => h.pk.getLsbD p

/-- Outputs of some handlers that write the next frame (mode 10): 4 key + output. -/
def carriesOf (hs : List GHand) : List Nat :=
  hs.flatMap fun h => (h.dsts.zipIdx.filter fun d => dstValid d.1 && dstMode d.1 == 2).map fun d => 4 * h.key + d.2
/-- All of an iteration's tokens of mode 10 have come. -/
def State.allCarried (s : State) (c : GCfg) (i : GIter) : Bool := (carriesOf (s.handsOf c i)).all fun x => i.carried.contains x
/-- Those of the handlers before its inner level have come. -/
def State.preCarried (s : State) (c : GCfg) (i : GIter) : Bool :=
  (carriesOf ((s.handsOf c i).filter fun h => !h.post c.bytes)).all fun x => i.carried.contains x
/-- Some slots of some lanes copied from one frame over another. -/
def copySlots (slots : List Nat) (m : LaneMask) (src dst : SMap 32) : SMap 32 :=
  slots.foldl (fun d sl => (lanesOf m).foldl (fun d l => smSet d (32 * sl + l) (smGet src (32 * sl + l))) d) dst
/-- The frame that a handler of an iteration reads (R322): after the inner level, with the register slots as they are there (log entry 22, DEDUCED). -/
def GIter.frameFor (i : GIter) (c : GCfg) (h : GHand) : SMap 32 :=
  if i.hasInner c && h.post c.bytes then copySlots (GRec.regSlots c.bytes) 0xFFFFFFFF i.inside i.frame else i.frame

/-- Slots that a handler after its level's inner loop reads have their values: those that nothing inside writes, once what stands before has written. -/
def State.slotsCame (s : State) (c : GCfg) (i : GIter) (h : GHand) (slots : List Nat) : Bool :=
  let written (hs : List GHand) : Bool := slots.any fun x => (carriedSlots hs).contains x
  !h.post c.bytes || !i.hasInner c || i.inner == 2
    || (!written ((GRec.hands c.bytes).filter fun g => decide (i.level < g.level c.bytes))
      && (!written ((s.handsOf c i).filter fun g => !g.post c.bytes) || s.preCarried c i))

/-- A handler can fire for an iteration (R322). The `tag.open` of a level that holds another fires after that one has ended (log entry 22, DEDUCED). -/
def State.ready (s : State) (c : GCfg) (i : GIter) (h : GHand) : Bool :=
  i.tag.isSome && !h.isClose && !(i.parked.any fun p => p.key == h.key)
    && (if h.pk = 0 then i.opened && !i.fired.contains h.key else h.ports.all fun p => (i.at? h.key p).isSome)
    && s.slotsCame c i h (h.slotsRead c.bytes) && (!(h.isOpen && h.ops.c.toNat == i.level) || !i.hasInner c || i.inner == 2)

/-- Firings owed for the handlers that are ready. -/
def State.wake (s : State) (id : Nat) : State :=
  match s.giter? id with
  | none => s
  | some i => match s.gcfg? i.core i.half with
    | none => s
    | some c => ((s.handsOf c i).filter (s.ready c i)).foldl (fun s h => s.owe (.handlerFire i.core i.half (h.cell + 64 * h.hdie) h.hidx id)) s

-- Tags (R324) -------------------------------------------------------------------------------------------------------------------------------------------

/-- Tags of a level in use. -/
def State.tagsAt (s : State) (core half level : Nat) : List Nat :=
  (s.grid.iters.filter fun i => i.core == core && i.half == half && i.level == level).filterMap GIter.tag

-- Tokens (R321, R325, R326) -------------------------------------------------------------------------------------------------------------------------------

/-- The iteration that a token of an iteration goes to, for a handler of a level: its own, one around it, or the first inside it. -/
def State.iterAt (s : State) : Nat → GIter → Nat → Option GIter
  | 0, _, _ => none
  | n + 1, i, level =>
    if level = i.level then some i
    else if level < i.level then (i.parent.bind s.giter?).bind fun p => State.iterAt s n p level
    else (eldest (s.kidsOf i)).bind fun k => State.iterAt s n k level

/-- The core whose grid holds the cells of a relative die (R332). -/
def GCfg.coreAt (c : GCfg) (hdie : Nat) : Nat :=
  if hdie = 0 then c.core else (dieOf c.core + hdie) % 4 * Config.coresPerDie + c.core % Config.coresPerDie
/-- The cell that holds a level's `tag.open`: core and cell. -/
def GCfg.openCell (c : GCfg) (level : Nat) : Nat × Nat :=
  (((GRec.hands c.bytes).find? fun h => h.isOpen && h.ops.c.toNat == level).map fun h => (c.coreAt h.hdie, h.cell)).getD (c.core, 0)
/-- The handler that sent a token is one after its level's inner loop; the level of the iteration that a token goes to. -/
def State.goalLevel (c : GCfg) (t : GTok) (own : Nat) : Nat :=
  let hs := GRec.hands c.bytes
  if dstMode t.dst = 1 || dstMode t.dst = 2 then own
  else ((hs[t.src]?.bind fun h => GRec.target c.bytes hs h.hdie t.dst).map fun x => x.1.level c.bytes).getD own

/-- Entries of a cell's matching store in use, for both configurations (R318): tokens for a tag that is not open, and `tag.open`s that wait for one; guard
tokens; parked tokens; and firings that wait for the datapath. -/
def State.storeFill (s : State) (core cell : Nat) : Nat :=
  s.grid.cfgs.foldl (fun n c =>
    let here := (GRec.hands c.bytes).filter fun h => c.coreAt h.hdie == core && h.cell == cell
    let keys := here.map GHand.key
    if keys.isEmpty then n
    else
      let is := s.grid.iters.filter fun i => i.core == c.core && i.half == c.half
      let opens (l : Nat) : Bool := c.openCell l == (core, cell)
      let waits := s.grid.waiting.filter fun t => is.any fun i =>
        (t.goal == some i.id && opens i.level) || (t.goal.isNone && t.iter == i.id && opens (State.goalLevel c t i.level))
      let fires := s.agenda.filter fun m => match m.what with
        | .handlerFire k half x hidx _ => k == c.core && half == c.half && here.any fun h =>
            x == h.cell + 64 * h.hdie && hidx == h.hidx && !h.ops.qa && !h.held
        | _ => false
      is.foldl (fun n i =>
        n + (i.guards.filter fun g => g.1 % 4 == 3 && keys.contains (g.1 / 4)).length + (i.parked.filter fun p => keys.contains p.key).length
          + (if i.tag.isNone && opens i.level then 1 else 0)) (n + waits.length + fires.length)) 0
/-- The store of a cell is full: the cell lowers ready on every input channel. -/
def State.storeFull (s : State) (cell : Nat × Nat) : Bool := decide (Config.cellEntries ≤ s.storeFill cell.1 cell.2)

/-- A token put to a port of a handler for an iteration; none where the port or the matching store is full, or an end marker stands at the port (R329). -/
def State.putPort (s : State) (c : GCfg) (i : GIter) (h : GHand) (port : Nat) (t : GTok) : Option State :=
  if (i.at? h.key port).isSome || s.storeFull (c.coreAt h.hdie, h.cell)
      || (s.gcfg? c.core c.half).any (fun x => x.marks.any fun m => m.key == h.key && m.port == port) then none
  else
    let use := h.portUse port
    let frame := match use with
      | .slot sl n => writeSlot c.bytes i.frame sl { t with width := min n t.width }
      | _ => i.frame
    let guards := match use with
      | .pred _ => (4 * h.key + port, maskOf ((lanesOf t.mask).filter fun l => smGet t.words l != 0)) :: i.guards
      | _ => i.guards
    some ((s.updIter i.id fun x => { x with frame := frame, guards := guards, present := (4 * h.key + port, t.mask, t.midx) :: x.present }).wake i.id)

/-- A token of mode 10 (R321): into the frame after its iteration and, from before its inner level, into the slots there; and into the frame of the next
iteration, or of the first one inside, that is there already. -/
def State.putSlot (s : State) (c : GCfg) (i : GIter) (t : GTok) : State :=
  let sl := dstSlot t.dst
  let x := 4 * t.src + t.out
  let pre := !c.postKey t.src
  let s1 := s.updIter i.id fun y =>
    { y with after := writeSlot c.bytes y.after sl t, inside := if pre then writeSlot c.bytes y.inside sl t else y.inside, carried := x :: y.carried }
  let give (s : State) (n : GIter) (full : Bool) : State :=
    (s.updIter n.id fun y =>
      { y with frame := writeSlot c.bytes y.frame sl t, after := writeSlot c.bytes y.after sl t, inside := writeSlot c.bytes y.inside sl t,
               opened := y.opened || full }).wake n.id
  match s1.giter? i.id with
  | none => s1
  | some j =>
    let s2 := match (if pre then eldest (s1.kidsOf j) else none) with
      | some k => if k.opened then s1 else give s1 k (s1.preCarried c j)
      | none => s1
    let s3 := match s2.nextIter j with
      | some n => give s2 n (s2.allCarried c j)
      | none => s2
    s3.wake i.id

/-- A token in its matching store until its iteration has a tag (R321). -/
def State.storeTok (s : State) (t : GTok) : State := { s with grid := { s.grid with waiting := s.grid.waiting ++ [t] } }
/-- A data token delivered; none where it must wait on its channel. A token of mode 01 or 10 whose iteration has no tag yet waits in the store of the
level's `tag.open`; one of mode 10 from after an inner level comes after that level (log entry 22, DEDUCED). -/
def State.deliverTok (s : State) (c : GCfg) (t : GTok) : Option State :=
  let store (level : Nat) : Option State := if s.storeFull (c.openCell level) then none else some (s.storeTok t)
  match s.giter? t.iter with
  | none => some s
  | some i =>
    if dstMode t.dst = 2 then
      if c.postKey t.src && i.hasInner c && i.inner ≠ 2 then none
      else if i.taken == some 0 || (s.nextIter i).any (fun n => n.tag.isSome) then some (s.putSlot c i t)
      else (store i.level).map fun s => s.putSlot c i t
    else
      let hs := GRec.hands c.bytes
      match hs[t.src]?.bind fun h => GRec.target c.bytes hs h.hdie t.dst with
      | none => some s
      | some (h, port) =>
        match (if dstMode t.dst = 1 then s.nextIter i else s.iterAt 5 i (h.level c.bytes)) with
        | some x => if x.tag.isSome then s.putPort c x h port t else store x.level
        | none =>
          if (i.taken == some 0 && dstMode t.dst == 1) || (i.inner = 2 && i.level < h.level c.bytes) then some s else store (State.goalLevel c t i.level)

/-- A token whose own iteration has retired, delivered to the one it waits for. -/
def State.deliverTo (s : State) (c : GCfg) (t : GTok) (x : GIter) : Option State :=
  let hs := GRec.hands c.bytes
  if x.tag.isNone then none
  else if dstMode t.dst = 2 then some s
  else match hs[t.src]?.bind fun h => GRec.target c.bytes hs h.hdie t.dst with
    | none => some s
    | some (h, port) => s.putPort c x h port t

/-- Waiting tokens of a configuration delivered where their iteration has its tag. -/
def State.releaseWaiting (s : State) (c : GCfg) : State :=
  let try_ (s : State) (t : GTok) : State :=
    match t.goal.bind s.giter?, s.giter? t.iter with
    | some x, _ => if x.core = c.core ∧ x.half = c.half then (s.deliverTo c t x).getD (s.storeTok t) else s.storeTok t
    | none, some i =>
      if i.core ≠ c.core || i.half ≠ c.half then s.storeTok t
      else if dstMode t.dst = 2 then (if i.taken == some 0 || (s.nextIter i).any (fun n => n.tag.isSome) then s else s.storeTok t)
      else (s.deliverTok c t).getD (s.storeTok t)
    | none, none => s
  s.grid.waiting.foldl try_ { s with grid := { s.grid with waiting := [] } }

/-- One waiting `tag.open` granted its tag, if it may be. -/
def State.grantOne (s : State) (c : GCfg) (i : GIter) : State :=
  let used := s.tagsAt c.core c.half i.level
  let free := (List.range (GRec.tags c.bytes i.level)).filter fun t => !used.contains t
  let mine := (s.gitersOf i.core i.slot).filter fun x => x.level == i.level && x.tag.isSome
  let first := if i.level = 0 then decide (mine.length ≤ 1) else
    match i.parent.bind s.giter? with
    | some p => (eldest ((s.gitersOf i.core i.slot).filter fun x => x.level == p.level)).any fun e => e.id == p.id
    | none => true
  if mine.length ≥ 64 || free.length < (if first then 1 else 2) then s
  else ((s.updIter i.id fun x => { x with tag := free.head? }).releaseWaiting c).wake i.id

/-- Waiting requests of a configuration served in order of arrival. -/
def State.grantTags (s : State) (core half : Nat) : State :=
  match s.gcfg? core half with
  | none => s
  | some c =>
    (s.grid.iters.filter fun i => i.core == core && i.half == half && i.tag.isNone).foldl (fun s i => s.grantOne c i) s

/-- The channel of an output: a virtual circuit has one for all its producers. -/
def chanKey (h : GHand) (out : Nat) (d : BitVec 16) : Nat × Nat := if dstMode d = 3 then (4096 + dstCircuit d, 0) else (h.key, out)

/-- The channel is full: two tokens in its skid buffer (R326). -/
def State.chanFull (s : State) (c : GCfg) (h : GHand) : Bool :=
  h.dsts.zipIdx.any fun d => dstValid d.1 && s.grid.chans.any fun x =>
    x.core == c.core && x.half == c.half && (x.src, x.out) == chanKey h d.2 d.1 && decide (2 ≤ x.toks.length)

/-- A token sent on its channel; it transfers at a time the manual does not state, or after `delay` clocks (gdly). -/
def State.sendTok (s : State) (c : GCfg) (h : GHand) (out : Nat) (t : GTok) (delay : Option Nat := none) : State :=
  let key := chanKey h out t.dst
  let old := s.grid.chans.find? fun x => x.core == c.core && x.half == c.half && (x.src, x.out) == key
  let ch : GChan := old.getD { id := s.nonce, core := c.core, half := c.half, src := key.1, out := key.2 }
  let s1 := { s with nonce := s.nonce + 1, grid := { s.grid with chans := upsert (fun x => x.id == ch.id) { ch with toks := ch.toks ++ [t] } s.grid.chans } }
  match delay with
  | some n => s1.after n (.tokenTransfer c.core ch.id)
  | none => s1.later (.tokenTransfer c.core ch.id)

-- Iterations opened (R320, R324) -----------------------------------------------------------------------------------------------------------------------------

/-- `tag.open` of a level fired in an iteration, with the lanes of its token: the next iteration of the level, or the first inside. With no lane, none
follows. -/
def State.openIter (s : State) (c : GCfg) (i : GIter) (level : Nat) (m : LaneMask) : State :=
  let inside := level = i.level + 1
  let s0 := if inside then s.updIter i.id fun x => { x with inner := if m = 0 then 2 else 1 } else s.updIter i.id fun x => { x with taken := some m }
  let s1 :=
    if m = 0 then s0
    else
      let run := (s0.grun? i.core i.slot).getD { core := i.core, slot := i.slot, half := i.half, ctx := c.ctx }
      let ord := (run.ords[level]?).getD 0
      let frame := regSlotsOnly c.bytes (if inside then i.inside else i.after)
      let n : GIter :=
        { id := s0.nonce, core := i.core, half := i.half, slot := i.slot, level := level, ord := ord, parent := if inside then some i.id else i.parent,
          mask := m, frame := frame, after := frame, inside := frame, opened := if inside then s0.preCarried c i else s0.allCarried c i }
      ({ s0 with nonce := s0.nonce + 1, grid := { s0.grid with iters := s0.grid.iters ++ [n] } }).updRun i.core i.slot fun r =>
        { r with ords := r.ords.set level (ord + 1) }
  ((s1.releaseWaiting c).grantTags i.core i.half).wake i.id

-- Drains (17 R407) ---------------------------------------------------------------------------------------------------------------------------------------------

/-- Elements put back at the heads of their ports, in the order in which they were popped (02 R47). -/
def State.returnPops (s : State) (core slot : Nat) (pops : List (Nat × PortElem)) : State :=
  pops.reverse.foldl (fun s p =>
    if p.1 < 2 ^ 20 then
      match s.warp? core slot with
      | some w => match w.ports[p.1 % 8]? with
        | some x => s.setWarp { w with ports := w.ports.set (p.1 % 8) { x with queue := p.2 :: x.queue, popped := x.popped - 1 } }
        | none => s
      | none => s
    else { s with eng := { s.eng with gports := s.eng.gports.map fun g =>
        if g.1 == p.1 then (g.1, { g.2 with queue := p.2 :: g.2.queue, popped := g.2.popped - 1 }) else g } }) s

/-- The stall count of R326 runs: a tag is open, no memory port has an unanswered request, and nothing is parked. -/
def State.stallRuns (s : State) (c : GCfg) : Bool :=
  let is := s.grid.iters.filter fun i => i.core == c.core && i.half == c.half
  (is.any fun i => i.tag.isSome) && !(is.any fun i => (i.replies.any GReply.sent) || i.parked != [])
/-- The stall count of a configuration brought up to now. -/
def State.stallTick (s : State) (core half : Nat) : State :=
  match s.gcfg? core half with
  | none => s
  | some c => s.setGcfg { c with stall := c.stall + (if c.counting then s.now - c.mark else 0), mark := s.now, counting := s.stallRuns c }

/-- A configuration unloaded: its record stays in the cache, with its constants (R329). -/
def State.unload (s : State) (c : GCfg) : State :=
  let keep (r : PlaceRec) : PlaceRec := if r.ctx == c.ctx && r.head == c.head && r.bytes == c.bytes then { r with consts := c.consts } else r
  let s1 : State :=
    { s with
      grid := { s.grid with
        cfgs := s.grid.cfgs.filter fun x => !(x.core == c.core && x.half == c.half), recs := s.grid.recs.map keep,
        chans := s.grid.chans.filter fun x => !(x.core == c.core && x.half == c.half) },
      iso := { s.iso with tlb := s.iso.tlb.filter fun t => !(t.cell.isSome && ((c.core, c.half) :: c.cut).contains (t.core, t.half)) } }
  s1.rebank s c.core

/-- The warp holds nothing in the grid any more: its tokens and iterations go, and waiting tags are granted. A configuration that the last warp has left
holds no token, so the barrier token passes to its sinks at once: it is drained, and dirty lines are written back (R329). -/
def State.leaveGrid (s : State) (core slot half ctx : Nat) : State :=
  let ids := (s.gitersOf core slot).map GIter.id
  let iters := s.grid.iters.filter fun i => !(i.core == core && i.slot == slot)
  let runs := s.grid.runs.filter fun r => !(r.core == core && r.slot == slot)
  let waiting := s.grid.waiting.filter fun t => !ids.contains t.iter && !(t.goal.any ids.contains)
  let strip (c : GChan) : GChan := { c with toks := c.toks.filter fun t => !ids.contains t.iter }
  let s1 := { s with grid := { s.grid with iters := iters, runs := runs, waiting := waiting, chans := s.grid.chans.map strip } }
  let s2 := if s1.grid.runs.any fun r => r.core == core && r.half == half then s1 else s1.writeBackAll core ctx
  let s3 := (s2.grantTags core half).stallTick core half
  match s3.gcfg? core half with
  | some c => if c.leaving && !s3.grid.runs.any (fun r => r.core == core && r.half == half) then s3.unload c else s3
  | none => s3

/-- The lanes of a chain of iterations rebuilt on the front end, each with its frame (R407): those of the first stand at its level's head; those of an
outer one alone at the exit of the level inside it, with what they left there. -/
def rebuild (r : GRec) (head : DWord) : List (GIter × SMap 32) → LaneMask → Option Nat → Warp → Warp
  | [], _, _, w => w
  | (i, fr) :: t, done, inner, w =>
    let m := i.mask &&& ~~~done
    let pc := match inner with
      | none => head + BitVec.ofNat 64 (r.ihead i.level)
      | some l => head + BitVec.ofNat 64 (r.iend l)
    let w1 := (frameToWarp r fr m w).mapThreads m fun _ x =>
      if x.inGrid then { x with pc := pc, clh := none, wait := .none, inGrid := false, gridFault := none } else x
    rebuild r head t (done ||| i.mask) (some i.level) w1

/-- R407: the warp drains to the boundary before its oldest unretired iteration. `cause` is the level-0 ordinal of the iteration that the front end must
run (02 R46). -/
def State.drainNow (s : State) (core slot : Nat) (cause : Option Nat) : State :=
  match s.grun? core slot, s.oldestIter core slot, s.warp? core slot with
  | some run, some j, some w =>
    match s.gcfg? core run.half with
    | none => s.leaveGrid core slot run.half run.ctx
    | some c =>
      let chain := match s.chainOf 4 j with
        | i :: t => (i, i.frame) :: t.map fun x => (x, x.inside)
        | [] => []
      let outer := (chain.drop 1).map fun x => x.1.id
      let gone := (s.gitersOf core slot).filter fun i => !outer.contains i.id
      let n := match cause with
        | none => 0
        | some k => k + (if j.level = 0 then 1 else 0) - (s.topOf 4 j).ord
      let lanes := maskOf ((List.range 32).filter fun l => (w.thread l).inGrid)
      let w1 := rebuild c.bytes c.head chain (~~~lanes) none w
      let back (l : Nat) (x : Thread) : Thread :=
        { x with inGrid := false, gridFault := none, sup := if (w.thread l).gridFault.isSome then false else x.sup,
                 gskip := if n = 0 then x.gskip else some (c.head, n) }
      let w2 := w1.mapThreads lanes back
      ((s.setWarp { w2 with drains := w2.drains + 1 }).returnPops core slot (gone.flatMap GIter.pops)).leaveGrid core slot run.half run.ctx
  | some run, _, _ => s.leaveGrid core slot run.half run.ctx
  | none, _, _ => s

/-- A drain of a warp requested (R407, R425): at once, unless its oldest iteration has begun to commit or a grid-fault handler runs. -/
def State.drainWarp (s : State) (core slot : Nat) (cause : Option Nat) : State :=
  match s.grun? core slot with
  | none => s
  | some run =>
    let wait := run.handler.isSome || (s.oldestIter core slot).any GIter.mustFinish
    if wait then s.updRun core slot fun r => { r with drain := true, cause := max r.cause (cause.getD 0) }
    else s.drainNow core slot cause

/-- WARP_DRAIN (17 R407). -/
def execWarpDrain (core slot : Nat) (s : State) : Out := .next (s.drainWarp core slot none)

-- Arming (R330, R332, R333) -------------------------------------------------------------------------------------------------------------------------------------

/-- The configuration that uses a half of a core, its own or a part of a cut. -/
def State.halfUser (s : State) (core half : Nat) : Option GCfg :=
  s.grid.cfgs.find? fun c => (c.core == core && c.half == half) || c.cut.contains (core, half)
/-- Warps of a configuration are in the grid. -/
def State.cfgBusy (s : State) (c : GCfg) : Bool := s.grid.runs.any fun r => r.core == c.core && r.half == c.half

/-- A half of a core that is free for another configuration: an empty one, else the older of those that no warp uses. -/
def State.freeHalf (s : State) (core : Nat) : Option Nat :=
  match (List.range 2).find? fun h => (s.halfUser core h).isNone with
  | some h => some h
  | none =>
    (((List.range 2).filterMap fun h => (s.halfUser core h).map fun c => (h, c)).filter fun x => !s.cfgBusy x.2).foldl (fun b x => match b with
      | none => some x
      | some y => if x.2.armed < y.2.armed then some x else b) none |>.map Prod.fst

/-- Bases and bytes of the frames of a record's tag spaces, level by level from the top (02 R31); none where a level's are not free. -/
def placeFrames (r : GRec) : List Nat → List (Nat × Nat) → Option (List (Nat × Nat))
  | [], _ => some []
  | l :: t, used =>
    let len := GRec.tags r l * 128 * GRec.frame r
    (frameHigh used len).bind fun lo => (placeFrames r t ((lo, lo + len) :: used)).map fun bs => (lo, len) :: bs
/-- Where a record's frames would lie on a core; none where tags or frame bytes are not free (02 R31, 13 R324). -/
def State.gridPlace (s : State) (core : Nat) (r : GRec) : Option (List (Nat × Nat)) :=
  let other := (s.grid.cfgs.filter fun c => c.core == core).foldl (fun n c => n + GRec.allTags c.bytes) 0
  if GRec.allTags r + other > Config.coreTags then none else placeFrames r (List.range (GRec.levels r)) (s.framesUsed core)
/-- Where the frame of an iteration lies in its core's frame store (02 R31): B + t x 32 x F x 4. -/
def GIter.place (i : GIter) (c : GCfg) : Option Nat :=
  i.tag.bind fun t => (c.bases[i.level]?).map fun b => b.1 + t * 32 * GRec.frame c.bytes * 4

/-- Bytes that the page-table entry where a walk ends covers. -/
def State.walkSpan (s : State) (core va : Nat) : Nat → Nat → Nat
  | 0, _ => 4096
  | l + 1, table =>
    let idx := if l + 1 = 4 then (va / 2 ^ 48) % 256 else (va / 2 ^ (12 + 9 * (l + 1))) % 512
    let e : DWord := match s.walkEntry core (table + 8 * idx) with
      | .ok e => e
      | .error _ => 0
    if !e.getLsbD 0 || pteBad (l + 1) e || e.getLsbD 1 then 2 ^ (12 + 9 * (l + 1))
    else State.walkSpan s core va l ((e.extractLsb' 12 40).toNat * 4096)

/-- Extents of a range hint (R333): the pages from an address up, each run that is contiguous both ways and of one permission joined; no more are looked
for once there are more than a cell can hold. -/
def State.extents (s : State) (core half cell ctx lim : Nat) (perm : Nat) : Nat → Nat → List TlbEntry → List TlbEntry
  | 0, _, done => done
  | n + 1, va, done =>
    if lim ≤ va || done.length > 16 then done
    else match s.ctx? ctx with
      | none => done
      | some c => match s.walk core va 4 c.ptroot with
        | .error _ =>
          let span := s.walkSpan core va 4 c.ptroot
          State.extents s core half cell ctx lim perm n (va - va % span + span) done
        | .ok (e, size) =>
          let base := (e.extractLsb' 12 40).toNat * 4096
          let next := va - va % size + size
          let r := e.getLsbD 2 && perm % 2 == 1
          let w := e.getLsbD 3 && perm / 2 == 1
          if !s.windowOk ctx base size r w || e.getLsbD 6 then State.extents s core half cell ctx lim perm n next done
          else
            let x : TlbEntry :=
              { core := core, cell := some cell, half := half, ctx := ctx, va := va, size := min next lim - va, pa := base + va % size, r := r, w := w,
                x := false, sup := false }
            match done.getLast? with
            | some l =>
              if l.va + l.size = va && l.pa + l.size = x.pa && l.r == r && l.w == w then
                State.extents s core half cell ctx lim perm n next (done.dropLast ++ [{ l with size := l.size + x.size }])
              else State.extents s core half cell ctx lim perm n next (done ++ [x])
            | none => State.extents s core half cell ctx lim perm n next [x]

/-- The range entries of a half's memory-port cells filled from a record's hints, in its order (R333): a cell has 16, for both its configurations. -/
def State.fillHalf (s : State) (core half ctx : Nat) (r : GRec) : State :=
  let all := (List.range r.nrng).flatMap fun i => let (cell, perm, va, lim) := r.hint i
    s.extents core half cell ctx lim perm ((lim - va) / 4096 + 1) va []
  let used (cell : Nat) : Nat := (s.iso.tlb.filter fun t => t.core == core && t.cell == some cell).length
  let kept := (List.range 64).flatMap fun cell => (all.filter fun e => e.cell == some cell).take (16 - used cell)
  { s with iso := { s.iso with tlb := kept ++ s.iso.tlb } }
/-- Those of a configuration, on every core that holds a part of it. -/
def State.fillRanges (s : State) (c : GCfg) : State := ((c.core, c.half) :: c.cut).foldl (fun s x => s.fillHalf x.1 x.2 c.ctx c.bytes) s

/-- The half of a core that a record may be loaded into, its idle occupant unloaded. -/
def State.emptyHalf (s : State) (core : Nat) : Option (Nat × State) :=
  (s.freeHalf core).map fun half => (half, match s.halfUser core half with
    | some c => s.unload c
    | none => s)

/-- A record armed in a core for a launch (R330, R332): its half, or none where the launch's caps bar it (02 R39), a half, tags or frame bytes are not
free, or a die of its cut is not there. -/
def State.arm (s : State) (core : Nat) (p : PlaceRec) (tagh : List Nat) : Option (Nat × State) :=
  if GRec.tagBad p.bytes tagh then none
  else match s.grid.cfgs.find? fun c => c.core == core && c.ctx == p.ctx && c.head == p.head && c.bytes == p.bytes && !c.leaving with
  | some c => some (c.half, s)
  | none =>
    match s.emptyHalf core with
    | none => none
    | some (half, s1) =>
      let r := p.bytes
      let dies := (((GRec.hands r).map GHand.hdie).filter fun d => d ≠ 0).eraseDups
      let far := dies.map fun d => (dieOf core + d) % 4 * Config.coresPerDie + core % Config.coresPerDie
      let halves := far.map fun k => if s1.links.lost.contains (dieOf k) then none else s1.freeHalf k
      if halves.any Option.isNone then none
      else (s1.gridPlace core r).map fun bases =>
        let cut := (far.zip halves).map fun x => (x.1, x.2.getD 0)
        let s2 := cut.foldl (fun s x => match s.halfUser x.1 x.2 with
          | some c => s.unload c
          | none => s) s1
        let c : GCfg :=
          { core := core, half := half, ctx := p.ctx, head := p.head, entry := p.entry, bytes := r, consts := p.consts, heads := p.heads, bases := bases,
            cut := cut, armed := s.nonce }
        (half, (({ s2 with nonce := s2.nonce + 1 }.setGcfg c).rebank s2 core).fillRanges c)

/-- The launch that a workgroup belongs to has these caps (02 R39). -/
def State.taghOf (s : State) (wg : Nat) : List Nat :=
  ((((s.wg? wg).bind fun g => s.launch? g.launch)).map Launch.tagh).getD []

/-- The status of a record against the kernel it stands for (R337). -/
def State.recStatus (s : State) (core ctx : Nat) (entry head : DWord) (k : SMap 32) (tagh : List Nat) (bs : GRec)
    (heads : List Nat) : Nat :=
  let headOk := entry + BitVec.ofInt 64 bs.head == head && match s.fetchWord core ctx false head.toNat with
    | .error _ => false
    | .ok w => match decodeHeader head w with
      | .ok h => h.lmid == bs.lmid
      | .error _ => false
  bs.status heads k tagh headOk

/-- The bytes of a supplied record: as many as its header says, up to what a record can hold. -/
def State.readRecord (s : State) (ctx die va : Nat) : GRec :=
  if va % 64 ≠ 0 then []
  else match s.almRead ctx die va 224 with
    | .error _ => []
    | .ok hd =>
      let n := fieldAt hd 4 4
      if n < 224 || n > 2 ^ 18 then hd
      else match s.almRead ctx die va n with
        | .ok bs => bs
        | .error _ => hd

/-- A record entered into the placement cache, ARMED or REFUSED (02 R45). -/
def State.enterRec (s : State) (core ctx : Nat) (entry head : DWord) (k : SMap 32) (tagh : List Nat) (bs : GRec) : State :=
  let heads := s.clauseHeads core ctx head.toNat (head.toNat + bs.bodyb) (bs.bodyb + 1) head.toNat
  let c := s.recStatus core ctx entry head k tagh bs heads
  s.setPlaceRec
    { ctx := ctx, head := head, pages := s.codePages core ctx entry.toNat head.toNat (head.toNat + max 8 (GRec.bodyb bs)), entry := entry,
      status := if c = 0 then none else some c, bytes := bs, heads := heads }

/-- The cache's entry for a head, a supplied record being found at the arrival (R316). -/
def State.findRec (s : State) (w : Warp) (head : DWord) : State :=
  let ctx := s.ctxOf w
  match s.placeRec ctx head, s.launchOf w with
  | none, some l => match l.placed.find? fun p => p.1 == head with
    | some (_, va) => s.enterRec w.core ctx l.entry head l.k l.tagh (s.readRecord ctx (dieOf w.core) va)
    | none => s
  | _, _ => s

-- Entering (02 R46, R320) ---------------------------------------------------------------------------------------------------------------------------------------

/-- The lanes of a bundle enter the grid at the head of an armed configuration. -/
def State.enterGrid (s : State) (w : Warp) (m : LaneMask) (c : GCfg) : State :=
  let id := s.nonce
  let frame := frameOfWarp c.bytes w
  let i : GIter :=
    { id := id, core := w.core, half := c.half, slot := w.slot, level := 0, ord := 0, mask := m, frame := frame, after := frame, inside := frame, opened := true }
  let run : GRun := { core := w.core, slot := w.slot, half := c.half, ctx := c.ctx, ords := [1, 0, 0, 0] }
  let w1 := w.mapThreads m fun _ t => { t with inGrid := true, wait := .none, lastIssue := s.nonce, gskip := none }
  let s1 := { s with nonce := id + 1, grid := { s.grid with iters := s.grid.iters ++ [i], runs := s.grid.runs ++ [run] } }
  let s2 := (s1.setWarp { w1 with bundles := w1.bundles.filter fun b => b != m }).grantTags w.core c.half
  let s3 := s2.stallTick w.core c.half
  if s3.agenda.any fun x => x.what == .gridStall w.core c.half then s3 else s3.after Config.stallClocks (.gridStall w.core c.half)

/-- An arrival of a bundle at a clause (02 R45, R46): none where it runs on the front end, which is so unless the loop is ARMED, the warp may enter,
and a half, tags and frame bytes are free. Lanes in supervisor mode never enter (log entry 33, DESIGN CHOICE). A workgroup for which the loop
has been refused enters all the same once the cache holds it ARMED: its refusal kept it from asking for a placement, and R45 gives the cache's entry to
every workgroup (log entry 35, DESIGN CHOICE). The bundle first waits for results on their way to it (03 R61). -/
def State.tryEnter (s : State) (w : Warp) (lanes : LaneMask) (head : DWord) : Option State :=
  let s1 := s.findRec w head
  match s1.placeRec (s1.ctxOf w) head with
  | none => none
  | some p =>
    let skip := (lanesOf lanes).any fun l => (w.thread l).gskip.any fun g => g.1 == head
    if p.status.isSome || w.capd || skip || (s1.grun? w.core w.slot).isSome || (w.thread (ctzV lanes)).sup
        || ((GRec.regSlots p.bytes).any fun sl => !GRec.isPred p.bytes sl && decide (w.budget ≤ GRec.slotMap p.bytes sl % 256)) then none
    else
      match (s1.fe.llops.filter fun o => o.core == w.core && o.slot == w.slot && (o.lanes &&& lanes) != 0).map LLOp.id with
      | x :: t => some ((s1.setWarp (w.mapThreads lanes fun _ y => { y with wait := .llRegs (x :: t) })).dropLanes w.core w.slot lanes)
      | [] =>
        match s1.arm w.core p (s1.taghOf w.wg) with
        | none => none
        | some (half, s2) => (s2.gcfg? w.core half).map fun c => s2.enterGrid w lanes c

/-- The arrival of a bundle at a clause on the front end, counted for its lanes that must run a loop there after a drain (02 R46); a lane that has come out
of the loop need not. -/
def State.countSkip (s : State) (w : Warp) (m : LaneMask) (hdr : DWord) : State :=
  let left (head : DWord) : Bool := match s.placeRec (s.ctxOf w) head with
    | some p => decide (hdr.toNat < head.toNat ∨ head.toNat + GRec.bodyb p.bytes ≤ hdr.toNat)
    | none => true
  let count (t : Thread) : Thread := match t.gskip with
    | some (h, n) => if t.sup then t else if h = hdr then { t with gskip := if n ≤ 1 then none else some (h, n - 1) } else
        if left h then { t with gskip := none } else t
    | none => t
  if (lanesOf m).any fun l => (w.thread l).gskip.isSome then s.setWarp (w.mapThreads m fun _ => count) else s

-- Records that come (R316, 18 R421) -------------------------------------------------------------------------------------------------------------------------------

/-- The loop is no longer in PLACE. -/
def State.placed (s : State) (wg : Nat) (head : DWord) : State :=
  { s with grid := { s.grid with placing := s.grid.placing.filter fun p => !(p.wg == wg && p.head == head) } }

/-- PLACEMENT_RECORD_READY (R316, 18 R421): the loop becomes ARMED, even where every warp of the workgroup has left it or captures no more; where tags or
frame bytes are not free on its core, it is REFUSED for the workgroup and no entry is left (02 R45). -/
def execPlacementRecordReady (wg : Nat) (head : DWord) (rec_ : List Byte) (s : State) : Out :=
  .next (match s.grid.placing.find? fun p => p.wg == wg && p.head == head with
    | none => s
    | some p =>
      let s1 := s.placed wg head
      let core := ((s1.wg? wg).map Wg.core).getD 0
      let scarce := (s1.wg? wg).isSome && (s1.emptyHalf core).any fun x => (x.2.gridPlace core rec_).isNone
      let s2 := s1.enterRec core p.ctx p.entry head p.k p.tagh rec_
      if scarce && (s2.placeRec p.ctx head).any fun r => r.status.isNone then s1.refuseFor wg head 0x0A05
      else s2.later (.configurationArm wg head))

/-- PLACER_DECLINE (R316): kept for the workgroup only, with its status (R337). -/
def execPlacerDecline (wg : Nat) (head : DWord) (s : State) : Out :=
  .next (if s.inPlace wg head then (s.placed wg head).refuseFor wg head 0x0A09 else s)

/-- CONFIGURATION_ARM (R330): the record loaded into a free half of the workgroup's core, if it can be. -/
def execConfigurationArm (wg : Nat) (head : DWord) (s : State) : Out :=
  .next (match s.wg? wg with
    | none => s
    | some g =>
      match s.placeRec (((s.launch? g.launch).map Launch.ctx).getD 0) head with
      | some p => if p.status.isSome then s else ((s.arm g.core p (s.taghOf wg)).map Prod.snd).getD s
      | none => s)

/-- A configuration's warps drain (R326; 16 R390; 17 R419), and it is unloaded with the last of them. -/
def State.drainCfg (s : State) (c : GCfg) : State :=
  if s.cfgBusy c then
    (s.grid.runs.filter fun r => r.core == c.core && r.half == c.half).foldl (fun s r => s.drainWarp r.core r.slot none)
      (s.setGcfg { c with leaving := true })
  else s.unload c

/-- GRID_STALL (R326): the stall count of a configuration is looked at; at 65,536 ck its warps drain and its loop is REFUSED with PL_STALL. -/
def execGridStall (core cfg : Nat) (s : State) : Out :=
  .next (
    let s0 := s.stallTick core cfg
    match s0.gcfg? core cfg with
    | none => s0
    | some c =>
      if !s0.cfgBusy c then s0
      else if c.stall < Config.stallClocks then s0.after (Config.stallClocks - c.stall) (.gridStall core cfg)
      else
        let s1 := s0.drainCfg c
        s1.setPlaceRec { ctx := c.ctx, head := c.head, pages := s1.codePages core c.ctx c.entry.toNat c.head.toNat (c.head.toNat + max 8 (GRec.bodyb c.bytes)), entry := c.entry, status := some 0x0A08 })

/-- The placement cache of a context flushed (16 R390, command 0x04; 02 R45, R48): its loops are in MONITOR again for every workgroup, one that holds no core
too, and the translations of its kernels go (15 R373). -/
def State.flushPlaces (s : State) (ctx : Nat) : State :=
  let s2 := (s.grid.cfgs.filter fun c => c.ctx == ctx).foldl State.drainCfg s
  let stale (x : Xlated) : Xlated := if x.ctx == ctx then { x with live := false } else x
  let clear (g : Wg) : Wg := if (s2.launch? g.launch).any fun l => l.ctx == ctx then { g with refused := [] } else g
  { s2 with
    grid := { s2.grid with recs := s2.grid.recs.filter fun r => r.ctx != ctx, placing := s2.grid.placing.filter fun p => p.ctx != ctx },
    fe := { s2.fe with wgs := s2.fe.wgs.map clear }, alm := { s2.alm with xlated := s2.alm.xlated.map stale },
    saved := { s2.saved with parked := s2.saved.parked.map fun p => { p with wg := clear p.wg } } }

end Sys2Proof.Machine
end

