-- ==== Sys2Proof/Machine/Clause.lean ====
section
/-!
DEFINITION. Machine/Clause.lean: the bundler, the issue of clauses, the completion of long-latency instructions, and what the module does next
(02 R26, R27; 03 R59 to R65, R77; 08 R212; 12 R310).
-/
namespace Sys2Proof.Machine

/-- What a thread waits for has come (02 R26). Barriers, castles and sleeps end by their own events. -/
def State.waitOver (s : State) (w : Warp) (t : Thread) : Bool :=
  match t.wait with
  | .none => true
  | .bar _ _ | .castle | .sleep _ => false
  | .flags m => w.flagsClear m
  | .flagFull n => w.flagCount n < 63
  | .llRegs ids => ids.all fun i => (s.llop? i).isNone
  | .word m _ _ _ => (lanesOf m).all fun l => match (w.thread l).wait with
    | .word _ _ _ _ => (w.thread l).waddrDone.isSome || s.fe.matched.contains (w.core, w.slot, l)
    | _ => true
  | .turn => true
  | .port q => match w.ports[q]? with
    | some p => p.queue != [] || !((p.bound && !p.ended) || p.queued ≠ 0)
    | none => true
  | .chunks op js => s.chunksSet op js
  | .matrix id => s.matrixDone id
  | .child ident => s.childDone (s.ctxOf w) ident
  | .writes n => !s.olderThan w.core w.slot n
  | .handler => !(s.fe.llops.any fun o => o.core == w.core && o.slot == w.slot)
  | .op id => (s.llop? id).isNone

/-- A thread at the head of a clause does not wait on the clause's WAIT mask (02 R26, 03 R61). -/
def State.headClear (s : State) (w : Warp) (t : Thread) : Bool :=
  t.clh.isSome || ((List.range 12).all fun n => w.flagCount n = 0) || match s.fetchWord w.core (s.ctxOf w) t.sup t.pc.toNat with
    | .error _ => true
    | .ok word => match decodeHeader t.pc word with
      | .error _ => true
      | .ok hd => w.flagsClear hd.wait

/-- A thread may issue (02 R26, 13 R323, 17 R405, R408). -/
def State.runnable (s : State) (w : Warp) (t : Thread) : Bool :=
  !t.exited && (!t.inGrid || t.gridFault.isSome) && (t.gridFault.isSome || !s.isDraining (s.ctxOf w)) && s.waitOver w t && s.headClear w t

/-- Where a thread stands: threads of one bundle stand at one place (02 R26), and those that issue an instruction again hold one element for it (03 R53)
or have their waddr resolved (08 R232). -/
def Thread.place (t : Thread) : DWord × Option DWord × Bool × Option Nat × Bool :=
  (t.pc, t.clh, t.sup, (t.popped.filter fun x => x.pc == t.pc).map Popped.serial, t.waddrDeadline.isSome)

/-- Lanes grouped by the place of their threads, in order of the lowest lane. -/
def groupLanes (w : Warp) (ls : List Nat) : List LaneMask :=
  ((ls.map fun l => (w.thread l).place).eraseDups).map fun p => maskOf (ls.filter fun l => (w.thread l).place == p)

/-- The lanes of a warp that run a clause in progress. -/
def State.running (s : State) (w : Warp) : LaneMask :=
  s.fe.issues.foldl (fun m i => if i.core == w.core && i.slot == w.slot then m ||| i.lanes else m) 0
/-- The lanes of a warp that may issue. -/
def State.readyLanes (s : State) (w : Warp) : List Nat :=
  (List.range 32).filter fun l => !(s.running w).getLsbD l && s.runnable w (w.thread l)

/-- BUNDLER_REGROUP (02 R26): the runnable threads of each warp of the core grouped by place. -/
def execBundlerRegroup (core : Nat) (s : State) : Out :=
  .next
    { s with fe := { s.fe with
        warps := s.fe.warps.map fun w => if w.core == core then { w with bundles := groupLanes w (s.readyLanes w) } else w,
        regrouped := upsert (fun x => x.1 == core) (core, s.now) s.fe.regrouped } }

/-- The bundles of a warp as they stand: each split where its threads no longer stand at one place. -/
def State.bundlesOf (s : State) (w : Warp) : List LaneMask :=
  w.bundles.flatMap fun b => groupLanes w ((lanesOf b).filter fun l => s.runnable w (w.thread l))

/-- What issuing a bundle's clause comes to (03 R59 to R61): the clause, a trap with where it is precise, or its WAIT condition not yet met. -/
inductive Head where
  | clause (i : Issue)
  | trap (pc clh : DWord) (lmid : BitVec 8) (kind va : Nat)
  | wait
  deriving DecidableEq, Repr

/-- The words of a clause after its header, fetched as one unit (03 R78): the fault of the first that cannot be fetched, and its address. -/
def State.clauseWords (s : State) (core ctx : Nat) (sup : Bool) (h : DWord) (n : Nat) : Except (Nat × Nat) (List DWord) :=
  (List.range n).mapM fun i => match s.fetchWord core ctx sup (h.toNat + 8 * (i + 1)) with
    | .ok w => .ok w
    | .error k => .error (k, h.toNat + 8 * (i + 1))

/-- The clause that a bundle issues next. -/
def State.headOf (s : State) (w : Warp) (b : LaneMask) : Head :=
  let t := w.thread (ctzV b)
  let h := t.clh.getD t.pc
  let ctx := s.ctxOf w
  match (if h.toNat % 8 ≠ 0 then .error kIllegalClause else s.fetchWord w.core ctx t.sup h.toNat) with
  | .error k => .trap t.pc h 0 k (if k = kIllegalClause then 0 else h.toNat)
  | .ok word =>
    match decodeHeader h word with
    | .error .reservedField => .trap h h (headerOf word).lmid kReservedField 0
    | .error _ => .trap h h (headerOf word).lmid kIllegalClause 0
    | .ok hd =>
      if t.clh.isNone && !w.flagsClear hd.wait then .wait
      else match s.clauseWords w.core ctx t.sup h hd.cnt.toNat with
        | .error (k, va) => .trap t.pc h hd.lmid k va
        | .ok ws =>
          .clause { core := w.core, slot := w.slot, lanes := b, hdr := h, header := hd, words := ws,
                    idx := if t.clh.isSome then ((t.pc - h).toNat / 8) - 1 else 0 }

/-- A bundle can issue: its clause's WAIT condition holds, or it has a trap to take. -/
def State.issuable (s : State) (w : Warp) (b : LaneMask) : Bool :=
  match s.headOf w b with
  | .wait => false
  | _ => true

/-- Time of the oldest last issue among a bundle's threads (02 R27, the age rule). -/
def ageOf (w : Warp) (b : LaneMask) (now : Nat) : Nat := (lanesOf b).foldl (fun m l => min m (w.thread l).lastIssue) now

/-- The bundle of a warp that issues next (02 R27). -/
def State.nextBundle (s : State) (w : Warp) : Option LaneMask :=
  ((s.bundlesOf w).filter (s.issuable w)).foldl (fun best b => match best with
    | none => some b
    | some x => if ageOf w b s.nonce < ageOf w x s.nonce then some b else best) none

/-- The leaky bucket of a core's issue stage is empty: it issues nothing (01 R19, 12 R310). -/
def State.throttled (s : State) (core : Nat) : Bool := s.fe.buckets.any fun b => b.core == core && b.port == 0 && b.credit == 0

/-- Warps of a core with an issuable bundle; none while its leaky bucket is empty (12 R310). -/
def State.issuers (s : State) (core : Nat) : List (Warp × LaneMask) :=
  if s.throttled core then []
  else (s.fe.warps.filter fun w => w.core == core).filterMap fun w => (s.nextBundle w).map fun b => (w, b)

/-- The warp that issues next (02 R27, 03 R65): the one that issued least recently, after those that do not prefer others. Of warps that have never
issued the first in the list of warps goes (log entry 7, DESIGN CHOICE). -/
def State.nextIssuer (s : State) (core : Nat) : Option (Warp × LaneMask) :=
  let all := s.issuers core
  let pool := if (all.filter fun x => !x.1.yielded) = [] then all else all.filter fun x => !x.1.yielded
  pool.foldl (fun best x => match best with
    | none => some x
    | some y => if x.1.lastIssue < y.1.lastIssue then some x else best) none

/-- The bundle issues: its threads stand after the clause unless an instruction of it says otherwise (03 R60), they join a bundle again at the next
regrouping (02 R26), a preference for other warps ends (03 R65), and the counters of 14 R369 rise. -/
def State.startClause (s : State) (w : Warp) (i : Issue) : State :=
  let succ := i.hdr + BitVec.ofNat 64 (8 * (i.header.cnt.toNat + 1))
  let go (t : Thread) : Thread := { t with pc := succ, clh := none, wait := .none, lastIssue := s.nonce }
  let w1 : Warp := { (w.mapThreads i.lanes fun _ t => go t) with
    lastIssue := s.nonce, yielded := i.header.yld, bissue := w.bissue + 1, bundles := w.bundles.map fun b => b &&& ~~~i.lanes }
  let warps := s.fe.warps.map fun x =>
    if x.core == w.core then (if x.slot == w.slot then w1 else { x with yielded := false }) else x
  { s with nonce := s.nonce + 1, fe := { s.fe with warps := warps, issues := i :: s.fe.issues } }

/-- The clause issued by the warp as it stands now. -/
def State.startFrom (s : State) (core slot : Nat) (i : Issue) : State :=
  match s.warp? core slot with
  | some w => s.startClause w i
  | none => s

/-- The error responses that accesses of the grid got after their commit, and those of threads that were saved, in any mode, raised in the threads
concerned before the clause (17 R412, R426). -/
def State.raiseGridDue (s : State) (w : Warp) (b : LaneMask) : Option State :=
  let t := w.thread (ctzV b)
  match (lanesOf b).findSome? fun l => (w.thread l).deferred.find? fun d => d.now || (d.itag.isSome && !t.sup) with
  | none => none
  | some d =>
    let x := d.exc (dueOf w b d)
    some (s.takeTrap (w.raised b d) x.lmask x.lmask t.pc (t.clh.getD t.pc) d.lmid x)

/-- CLAUSE_ISSUE (03 R61, 02 R27): the next bundle of a core issues its clause, takes the trap of its header, or enters the grid (02 R46). A bundle that
stands inside a clause, after a return from a trap, does not arrive at its head. -/
def execClauseIssue (core : Nat) (s : State) : Out :=
  .next (if s.fe.issues.any fun i => i.core == core then s
    else match s.nextIssuer core with
      | none => s
      | some (w, b) =>
        match s.headOf w b with
        | .wait => s
        | .trap pc clh lmid kind va =>
          (s.noteRead (Who.core (s.ctxOf w) 0 core) core (w.thread (ctzV b)).sup .fetch (kind, va)).takeTrap w b b pc clh lmid
            { kind := kind, errs := if va = 0 then [] else (lanesOf b).map fun l => { lane := l, kind := kind, va := va, page := s.pageSize core (s.ctxOf w) va } }
        | .clause i =>
          match s.raiseGridDue w b with
          | some s1 => s1
          | none =>
          let arrives := (w.thread (ctzV b)).clh.isNone
          match (if arrives then s.tryEnter w b i.hdr else none) with
          | some s1 => s1
          | none => (if arrives then (s.findRec w i.hdr).countSkip w b i.hdr else s).startFrom w.core w.slot i)

/-- The instruction at hand of a clause in progress, with the state it meets: the word past, the time moved on, the bundle in focus. -/
def State.arrive (s : State) (i : Issue) (now : Nat) : State :=
  let last := i.idx + 1 ≥ i.words.length
  let same (x : Issue) : Bool := x.core == i.core && x.slot == i.slot && x.hdr == i.hdr && x.lanes == i.lanes
  let issues := if last then s.fe.issues.filter (fun x => !same x) else mapFirst same (fun x => { x with idx := x.idx + 1 }) s.fe.issues
  let count (w : Warp) : Warp :=
    if w.core == i.core then
      (if w.slot == i.slot then { w with issued := w.issued + 1 } else { w with stallck := w.stallck + (if s.readyLanes w = [] then 0 else 1) })
    else w
  let spend (b : Bucket) : Bucket := if b.core == i.core && b.port == 0 then { b with credit := b.credit - 1 } else b
  { s with
    now := now, turn := i.core + 1,
    focus := some
      { core := i.core, slot := i.slot, lanes := i.lanes, pc := i.hdr + BitVec.ofNat 64 (8 * (i.idx + 1)), hdr := i.hdr, cnt := i.header.cnt.toNat,
        fx := i.header.fx, fy := i.header.fy, lmid := i.header.lmid },
    fe := { s.fe with issues := issues, warps := s.fe.warps.map count, buckets := s.fe.buckets.map spend } }

/-- Kind of an encoding trap (03 R77, 17 R399). -/
def encKind : EncTrap → Nat
  | .illegalClause => kIllegalClause
  | .illegalOpcode => kIllegalOpcode
  | .privilege => kPrivilege
  | .reservedField => kReservedField
  | .regRange => kRegRange

/-- The instruction that a clause in progress runs now, after every check of 03 R77, or the trap kind of the first that fails. Of the two traps of check 4, a
misplaced transfer that also breaks a field raises RESERVED_FIELD (log entry 31, DESIGN CHOICE). -/
def instrOf (w : Warp) (i : Issue) : Except Nat Instr :=
  let user := !(w.thread (ctzV i.lanes)).sup
  match decodeWord { user := user } ((i.words[i.idx]?).getD 0) with
  | .error e => .error (encKind e)
  | .ok x =>
    if x.isTransfer && i.idx + 1 < i.words.length then .error kIllegalClause
    else if budgetRefused w.budget x then .error kRegRange
    else .ok x

/-- Outstanding instructions whose destinations an instruction names (03 R61). -/
def State.regHazard (s : State) (i : Issue) (x : Instr) : List Nat :=
  match x.form, x.operands with
  | some f, some o => s.llConflicts i.core i.slot i.lanes (f.spans o)
  | _, _ => []

/-- What the module does next: runs an instruction or event in a state, or settles by itself into a state. -/
inductive NextMove where
  | run (i : Instr) (s : State)
  | settle (s : State)
  deriving DecidableEq, Repr

/-- The next instruction of a clause in progress (03 R61). -/
def State.runIssue (s : State) (i : Issue) (now : Nat) : NextMove :=
  match s.warp? i.core i.slot with
  | none => .settle { s with fe := { s.fe with issues := s.fe.issues.filter fun x => !(x.core == i.core && x.slot == i.slot) } }
  | some w =>
    match instrOf w i with
    | .error k => .settle (withFocus (s.arrive i now) fun f w => (s.arrive i now).trapHere f w f.lanes { kind := k })
    | .ok x =>
      match s.regHazard i x with
      | h :: t => .settle (withFocus (s.arrive i now) fun f w => (s.arrive i now).retry f w (.llRegs (h :: t)))
      | [] => .run x (s.arrive i now)

/-- Some warp of the core has a thread that may issue and stands in no bundle, or bundles that a regrouping would change (02 R26). -/
def State.ungrouped (s : State) (core : Nat) : Bool := s.fe.warps.any fun w => w.core == core && w.bundles != groupLanes w (s.readyLanes w)

/-- A regrouping is due (02 R26): once in every 4 ck, where it changes something. -/
def State.regroupDue (s : State) (core now : Nat) : Bool :=
  now % 4 == 0 && (s.fe.regrouped.find? fun x => x.1 == core).map Prod.snd != some now && s.ungrouped core

/-- What the front end of a core does now, if anything. -/
def State.coreMove (s : State) (core now : Nat) : Option NextMove :=
  if s.regroupDue core now then some (.run (.bundlerRegroup core) { s with now := now, turn := core })
  else if s.throttled core then none
  else match s.fe.issues.find? fun i => i.core == core with
  | some i => some (s.runIssue i now)
  | none =>
    match s.nextIssuer core with
      | some _ => some (.run (.clauseIssue core) { s with now := now, turn := core })
      | none => none

/-- The cores that hold a warp, in order. -/
def State.busyCores (s : State) : List Nat :=
  (s.fe.warps.map Warp.core).foldl (fun cs c => if cs.contains c then cs else (cs.filter fun x => decide (x < c)) ++ [c] ++ cs.filter fun x => decide (c < x)) []

/-- The first move among some cores. -/
def State.firstMove (s : State) (now : Nat) : List Nat → Option NextMove
  | [] => none
  | c :: t => match s.coreMove c now with
    | some m => some m
    | none => State.firstMove s now t

/-- With nothing to issue, time passes to the next step that an agent owes, or by one clock where a regrouping or nothing else is owed; warps with a runnable thread have stalled (14 R369). -/
def State.idle (s : State) : State :=
  let goesTo := match s.agenda with
    | m :: _ => if s.busyCores.any s.ungrouped then s.now + 1 else max (s.now + 1) m.at_
    | [] => s.now + 1
  let stall (w : Warp) : Warp := if s.readyLanes w = [] then w else { w with stallck := w.stallck + (goesTo - s.now) }
  { s with now := goesTo, turn := 0, fe := { s.fe with warps := s.fe.warps.map stall } }

/-- What the module does next (log entry 2, DESIGN CHOICE): a step that is due, else the front ends in turn, one instruction of each core in a clock. -/
def State.nextMove (s : State) : NextMove :=
  match s.agenda with
  | m :: t =>
    if m.at_ ≤ s.now then .run m.what { s with agenda := t, focus := none }
    else
      if !s.boot.released then .settle s.idle
      else match s.firstMove s.now (s.busyCores.filter fun c => decide (s.turn ≤ c)) with
        | some x => x
        | none => match s.firstMove (s.now + 1) (s.busyCores.filter fun c => decide (c < s.turn)) with
          | some x => x
          | none => .settle s.idle
  | [] =>
    if !s.boot.released then .settle s.idle
    else match s.firstMove s.now (s.busyCores.filter fun c => decide (s.turn ≤ c)) with
      | some x => x
      | none => match s.firstMove (s.now + 1) (s.busyCores.filter fun c => decide (c < s.turn)) with
        | some x => x
        | none => .settle s.idle

-- Completion of long-latency instructions --------------------------------------------------------------------------------------------------------

/-- Engine commands of an outstanding instruction that still wait are offered again (06 R156; 09 R236, R249, R254): it completes once each has been
accepted or refused. -/
def State.offerCmds (s : State) (x : LLOp) (i : Issuer) (cmds : List (Nat × EngCmd)) : State :=
  let (s1, ws, rest) := s.tryCmds i x.id (fun c s => s.accept i c) cmds
  let writes := x.dests.flatMap fun d => ws.map fun y => ({ lane := y.1, reg := d, val := y.2 } : RegWrite)
  (s1.updLL x.id fun y => { y with writes := y.writes ++ writes, queue := if rest = [] then none else some (i, rest) }).later (.longLatencyComplete x.id)

/-- LONG_LATENCY_COMPLETE (03 R63, 08 R212): the registers are written, the flag falls, an acquire takes effect, and failed accesses raise their
fault in the threads of the instruction; an instruction with engine commands that wait offers them again instead. -/
def execLongLatencyComplete (id : Nat) (s : State) : Out :=
  .next (match s.llop? id with
    | none => s
    | some x =>
      match x.queue with
      | some (i, cmds) => s.offerCmds x i cmds
      | none =>
      if x.pending ≠ 0 then s
      else
        let s0 := { s with fe := { s.fe with llops := s.fe.llops.filter fun o => o.id != id } }
        match (s0.warp? x.core x.slot).filter fun w => w.wg == x.wg with
        | none => s0.wgTry x.wg
        | some w =>
          let w1 := ((w.applyWrites x.writes).subFlag x.flag).mapThreads x.lanes fun _ t => { t with seen := max t.seen x.wts }
          let s1 := s0.setWarp w1
          let s2 := if x.acquire.isSome then
              (s1.acquireFab x.core (s1.ctxOf w1)).setPts (dieOf x.core) x.wts else s1
          match byLane x.errors with
          | [] => s2
          | e :: t =>
            match s2.warp? x.core x.slot with
            | none => s2
            | some w2 =>
              let lanes := maskOf ((e :: t).map LaneErr.lane)
              s2.takeTrap w2 lanes lanes x.iaddr x.hdr x.lmid { kind := e.kind, errs := e :: t })

/-- Registers of a failed access that get poison (08 R212): those that the access would write, the status of a versioned form among them (log entry 6,
DESIGN CHOICE for the status of a write). -/
def Req.poison (r : Req) (accs : List Acc) : List RegWrite :=
  let status (a : Acc) : RegWrite := { lane := a.lane, reg := r.status, val := Config.poison }
  match r.kind with
  | .ldv _ => accs.flatMap fun a => accPoison a ++ [status a]
  | .stv _ | .reclaim _ => accs.map status
  | _ => accs.flatMap accPoison

/-- Failed accesses of a request delivered (08 R212): poison for the registers of a read or a versioned form, or a fault due in the threads of a store; that
of a write-back is due in every thread that has stored into the line since the last one. -/
def State.deliverError (s : State) (r : Req) (kind : Nat) (accs : List Acc) (mask : LineMask) : State :=
  let errs := accs.map fun a => ({ lane := a.lane, kind := kind, va := a.va, page := r.page } : LaneErr)
  match r.llop with
  | some n => s.updLL n fun x => { x with writes := x.writes ++ r.poison accs, errors := x.errors ++ errs }
  | none =>
    if r.kind == .read then s
    else if r.from_ == .writeback then s.writersDue r.core r.writers kind (r.vline + ctzV mask) r.page
    else s.addDue r.core { slot := r.slot, lanes := r.accs.foldl (fun m a => m ||| maskOf [a.lane]) 0, iaddr := r.iaddr, lmid := r.lmid } errs

/-- ERROR_RESPONSE_DELIVERY (08 R212). -/
def execErrorResponseDelivery (id : Nat) (s : State) : Out :=
  .next (match s.req? id with
    | none => s
    | some r =>
      let s1 := (s.dropReq id).deliverError r (r.error.getD 0) r.accs r.mask
      match r.llop with
      | some n => (s1.updLL n fun x => { x with pending := x.pending - 1 }).finishLL n
      | none => s1)

-- Power ------------------------------------------------------------------------------------------------------------------------------------------

/-- LEAKY_BUCKET_REFILL (12 R310): every 64 ck, up to the bucket's depth (log entry 16, DESIGN CHOICE). -/
def execLeakyBucketRefill (core port : Nat) (s : State) : Out :=
  .next (match s.fe.buckets.find? fun b => b.core == core && b.port == port with
    | none => s
    | some _ =>
      let fill (b : Bucket) : Bucket := if b.core == core && b.port == port then { b with credit := min 64 (b.credit + b.rate) } else b
      ({ s with fe := { s.fe with buckets := s.fe.buckets.map fill } }).after 64 (.leakyBucketRefill core port))

/-- POWER_RATE_CHANGE (12 R310): at most once in a microsecond, never below 1/16 of the full rate of one credit per clock. -/
def execPowerRateChange (core port rate : Nat) (s : State) : Out :=
  .next (
    let r := min 64 (max 4 rate)
    match s.fe.buckets.find? fun b => b.core == core && b.port == port with
    | some b =>
      if s.now < b.changed + 2000 then s.after (b.changed + 2000 - s.now) (.powerRateChange core port rate)
      else
        { s with fe := { s.fe with
            buckets := upsert (fun x => x.core == core && x.port == port) { b with rate := r, changed := s.now } s.fe.buckets } }
    | none =>
      ({ s with fe := { s.fe with
          buckets := { core := core, port := port, rate := r, credit := r, changed := s.now } :: s.fe.buckets } }).after 64
        (.leakyBucketRefill core port))

end Sys2Proof.Machine
end

