-- ==== Sys2Proof/Machine/Fetch.lean ====
section
/-!
DEFINITION. Machine/Fetch.lean: one resident warp about to issue a given word, for State.withFetchWord (log entry 17, DESIGN CHOICE).
-/
namespace Sys2Proof.Machine

/-- The threads of a warp of context 0 in supervisor mode. -/
def loadedThreads : List Thread := List.replicate 32 { sup := true, pc := 0x1010 }

/-- A warp alone in its workgroup, with the largest budget. -/
def loadedWarp : Warp := { core := 0, slot := 0, wg := 0, sub := 0, budget := 256, threads := loadedThreads }

/-- Its workgroup. -/
def loadedWg : Wg := { id := 0, launch := 0, core := 0, x := 0, y := 0, z := 0, warps := 1, stageKiB := 256, barriers := { e := 32 } :: List.replicate 15 {} }

/-- Its launch: context 0, one workgroup. -/
def loadedLaunch : Launch :=
  { id := 0, tag := 1, ctx := 0, home := 0, origin := .packet 0 0, entry := 0x1000, regb := 32, stage := 256, next := 1 }

/-- A clause of one instruction at 0x1000 that a bundle of every lane is issuing. -/
def loadedIssue (w : DWord) : Issue :=
  { core := 0, slot := 0, lanes := BitVec.allOnes 32, hdr := 0x1000,
    header := { wait := 0, fx := 15, fy := 15, cnt := 1, yld := false, lmid := 0 }, words := [w], idx := 0 }

/-- The state with that warp resident, cores released and nothing else due. -/
def State.placeWord (s : State) (w : DWord) : State :=
  { s with
    agenda := [], turn := 0,
    boot := { s.boot with released := true, bar0 := 0 },
    alm := { s.alm with launches := [loadedLaunch] },
    fe := { s.fe with warps := [loadedWarp], wgs := [loadedWg], issues := [loadedIssue w], llops := [] } }

end Sys2Proof.Machine
end

