-- ==== Sys2Proof/Machine/Openings.lean ====
section
/-!
DEFINITION. Machine/Openings.lean: the home's protocol engine: the tables of the openings, their actions, and what a home does at each event of a line
(10 R262 to R277; 11 R281, R282, R427).
-/
namespace Sys2Proof.Machine

/-- What an event of a line is about: a request of the K4, a move of an agent that waits, or a host message (its half's address, what it asks, the data it
writes). -/
inductive Cause where
  | none
  | req (r : Req)
  | move (i : Instr)
  | host (pa : Nat) (mark : HostMark) (data : Option (BitVec 512))
  deriving DecidableEq, Repr

/-- A host message's bytes in their line. -/
def halfBytes (pa : Nat) (d : BitVec 512) : LineMask × LineData :=
  (byteMask (pa % 128 - pa % 64) 64, (d.setWidth 1024) <<< (8 * (pa % 128 - pa % 64)))
/-- The bytes that a cause writes at a home. -/
def Cause.bytes (c : Cause) : LineMask × LineData :=
  match c with
  | .none | .move _ => (0, 0)
  | .req r => (r.mask, r.data)
  | .host pa _ (some d) => halfBytes pa d
  | .host _ _ _ => (0, 0)
/-- What a cause stands as among a home's waiters. -/
def Cause.waits (c : Cause) : Option Waiter :=
  match c with
  | .none => Option.none
  | .req r => some (.req r.id)
  | .move i => some (.move i)
  | .host pa m d => some (.host pa m d)
/-- The cause that a waiter is; a request that is gone is none. -/
def State.waiterCause (s : State) : Waiter → Cause
  | .req id => match s.req? id with
    | some r => .req r
    | none => .none
  | .host pa m d => .host pa m d
  | .move i => .move i
  | .biRsp _ _ => .none
/-- A cause taken off a home's waiters: it has been served. -/
def HomeLine.served (h : HomeLine) (c : Cause) : HomeLine := { h with waiters := h.waiters.filter fun x => c.waits != some x }

/-- Bytes of a line written at home, and nothing else (10 R265). -/
def State.putLine (s : State) (line : Nat) (mask : LineMask) (data : LineData) : State :=
  ({ s with mem := s.mem.poke line data mask }).clearPoison line mask

/-- The request is for the line itself: a read, or an RMW at .thr or .wg, which its core performs in its fabric cache (07 R182). -/
def Req.fetches (r : Req) : Bool :=
  match r.kind with
  | .read => true
  | .rmw _ => !Scope.wide r.scope
  | _ => false

/-- The old values of an RMW given to its instruction. -/
def State.giveOlds (s : State) (r : Req) (olds : List (Acc × Nat)) (wts : Nat) : State :=
  match r.llop with
  | none => s
  | some n => (s.updLL n fun x => { x with pending := x.pending - 1, writes := x.writes ++ olds.flatMap oldWrites, wts := max x.wts wts }).finishLL n

/-- What a core has written in its fabric cache for an RMW is before its younger accesses to the line that are on their way (07 R172). -/
def State.forward (s : State) (r : Req) (vline : Nat) (new : LineData) : State :=
  let on (x : Req) : Req :=
    let m := r.mask &&& ~~~x.fixed
    if x.core == r.core && x.ctx == r.ctx && x.vline == vline && decide (r.id < x.id) && x.fetches && !x.const then
      { x with data := mergeLine x.data new m, overlay := x.overlay ||| m } else x
  { s with mem := { s.mem with reqs := s.mem.reqs.map on } }

/-- A read's registers and caches served (08 R213, 10 R266), or an RMW performed in its core's fabric cache (07 R182). A line that its home serves
uncached leaves no copy (10 R267, R273). -/
def State.serveRead (s : State) (r : Req) (data : LineData) (wts : Nat) : State :=
  let s0 := s.dropReq r.id
  if r.from_ == .agent then s0 else
  let seen := mergeLine data r.data r.overlay
  let there := (s0.fab? r.core r.ctx r.vline).any fun l => l.pline == r.line
  let s1 := if s.uncached r.line then s0
    else if r.const then s0.fillConst r.core r.ctx r.vline r.line data
    else if there || r.fill then s0.fillFab r.core r.ctx r.vline r.line r.page data else s0
  match r.kind with
  | .rmw k =>
    let (new, olds) := rmwAll k seen r.accs
    let who : Writer := { slot := r.slot, lanes := maskOf (r.accs.map Acc.lane), iaddr := r.iaddr, lmid := r.lmid }
    let s2 := (s1.storeFab r.core r.ctx who r.vline r.line r.page (r.mask &&& ~~~r.later) new).forward r r.vline new
    (s2.press r.core r.ctx r.vline r.id).giveOlds r olds wts
  | _ =>
    match r.llop with
    | none => s1
    | some n =>
      (s1.updLL n fun x => { x with pending := x.pending - 1, writes := x.writes ++ r.accs.flatMap (accWrites seen), wts := max x.wts wts }).finishLL n

/-- The old values of an RMW given to its instruction, and the core's own copy brought up to date. -/
def State.serveRmw (s : State) (r : Req) (data : LineData) (olds : List (Acc × Nat)) (wts : Nat) : State :=
  if r.from_ == .agent then s else
  let s1 := match s.fab? r.core r.ctx r.vline with
    | some l => s.setFab { l with data := mergeLine l.data data (r.mask &&& ~~~l.dirty), valid := l.valid ||| r.mask }
    | none => s
  match r.kind with
  | .rmw _ => s1.giveOlds r olds wts
  | _ => s1

/-- A request performed; its acknowledgement is on its way (10 R266). The agent of an access made at once has it with the access. -/
def State.ackReq (s : State) (r : Req) (wts : Nat) : State :=
  if r.from_ == .agent then s.dropReq r.id else
  (s.updReq r.id fun x => { x with performed := true, wts := wts }).later (.writeAcknowledgement r.id)

/-- An error response on its way to the requester, with its violation-log entry (08 R212, 16 R388). -/
def State.refuseReq (s : State) (r : Req) (kind : Nat) : State :=
  if r.from_ == .agent then s.dropReq r.id else
  let s1 := s.logError r.who kind r.line r.mask
  (s1.updReq r.id fun x => { x with performed := true, error := some kind }).later (.errorResponseDelivery r.id)

/-- The RMW or write of a request on the line's data: the new line and the old values. What an agent has written at once is there already. -/
def Req.rmwOn (r : Req) (d : LineData) : LineData × List (Acc × Nat) :=
  match r.kind with
  | .rmw k => rmwAll k d r.accs
  | _ => if r.from_ == .agent then (d, []) else (mergeLine d r.data r.mask, [])
/-- The line that a request performed at its home works on (07 R182). -/
def State.reqBase (s : State) (r : Req) : LineData :=
  match r.kind with
  | .rmw _ => s.rmwBase (dieOf r.core) r.scope r.line
  | _ => s.lineNow r.line

/-- Lines of a die's near-home L2, or of its RDC (07 R166): the part of its last-level cache that a line lies in. -/
def State.nearLine (s : State) (die line : Nat) : Bool := !isHostPa line && s.homeOf line / 4 == die
/-- Room in a die's last-level cache (01 R8, R17): of the copies that are not already leaving, the one filled longest ago leaves (log entry 34, DESIGN
CHOICE). -/
def State.trimDie (s : State) (die line : Nat) : State :=
  let near := s.nearLine die line
  let leaving := s.agenda.filterMap fun m => match m.what with
    | .evictDirty d l | .evictClean d l => if d = die then some l else none
    | _ => none
  let mine := s.mem.die.filter fun d => d.die == die && d.line != line && s.nearLine die d.line == near && !leaving.contains d.line
  if mine.length < (if near then Config.l2Lines else Config.rdcLines) then s
  else match mine.foldl (fun b d => match b with
      | none => some d
      | some x => if d.filled < x.filled then some d else b) (none : Option DieLine) with
    | none => s
    | some d => s.after 0 (if d.dirty ≠ 0 then .evictDirty die d.line else .evictClean die d.line)

/-- The line sent to the requester's die with a permission (DATA_S, DATA_E). A write or RMW that receives write permission is performed on the copy, and
an RMW of scope .dev or .sys at the home as well (07 R182); one that receives none is served by a later event. -/
def State.sendData (s : State) (h : HomeLine) (c : Cause) (write : Bool) : State × HomeLine :=
  match c with
  | .none | .move _ | .host _ _ (some _) => (s, h)
  | .host pa m none =>
    let half := pa % 128 / 64
    let d : BitVec 512 := (s.homeData h.line).extractLsb' (512 * half) 512
    (s.toHost "MemData" pa d, (if m = .none then h else h.setMark half m).served c)
  | .req r =>
    let die := dieOf r.core
    let data := s.homeData h.line
    let holds (h : HomeLine) : HomeLine := { h with holders := (h.holders.filter (· != die)) ++ [die] }
    if r.performed then (s, h)
    else if r.fetches then
      let unwritten := s.writeOnce h.line && h.written != BitVec.allOnes 128
      let s1 := if unwritten then s else
        (s.setDieLine { die := die, line := h.line, data := data, writable := write, wts := h.wts, rts := h.rts, filled := s.cal die }).trimDie die h.line
      (s1.serveRead r data h.wts, (if unwritten then h else holds h).served c)
    else if !write then (s, h)
    else
      let (new, olds) := r.rmwOn data
      let home := r.kind != .write && (r.scope == .dev || r.scope == .sys)
      let wts := max h.wts (s.ptsOf die)
      let s1 := if home then s.putLine h.line r.mask new else s
      let d : DieLine := { die := die, line := h.line, data := new, writable := true, wts := wts, rts := h.rts, filled := s.cal die }
      let s2 := (s1.setDieLine { d with dirty := if home then 0 else r.mask }).trimDie die h.line
      ((s2.serveRmw r new olds h.wts).ackReq r wts, (holds h).served c)

/-- A write or RMW performed at home (WRITE_HOME); dirty data that has come home is written as well. Under an opening without a lease the copies that
stand hold the write from then on (10 R264). -/
def State.writeHome (s : State) (h : HomeLine) (c : Cause) : State × HomeLine :=
  let s0 := s.putLine h.line h.backMask h.back
  let h0 := { h with backMask := 0, back := 0 }
  let patch (s : State) (own : Option Nat) (mask : LineMask) (new : LineData) (wts : Nat) : State :=
    let keep (d : DieLine) : DieLine :=
      if d.line == h.line && (s.leaseOf h.line == 0 || own == some d.die) then
        { d with data := mergeLine d.data new mask, wts := if s.leaseOf h.line = 0 then max d.wts wts else d.wts } else d
    { s with mem := { s.mem with die := s.mem.die.map keep } }
  match c with
  | .host _ _ (some _) =>
    let wts := max h0.wts s.lineClock
    (patch (s0.putLine h.line c.bytes.1 c.bytes.2) none c.bytes.1 c.bytes.2 wts, { h0 with wts := wts })
  | .req r =>
    if r.performed || r.fetches then (s0, h0)
    else
      let (new, olds) := r.rmwOn (s0.reqBase r)
      let wts := max h0.wts (s.ptsOf (dieOf r.core))
      let s1 := patch (s0.putLine h.line r.mask new) (some (dieOf r.core)) r.mask new wts
      ((s1.serveRmw r new olds h.wts).updReq r.id fun x => { x with performed := true }, { h0 with wts := wts })
  | _ => (s0, h0)

/-- An acknowledgement to the requester (ACK): a core's read has none, a host message gets a Cmp (11 R281). -/
def State.ackCause (s : State) (h : HomeLine) (c : Cause) : State × HomeLine :=
  match c with
  | .req r => if r.fetches then (s, h) else (s.ackReq r h.wts, h.served c)
  | .host pa _ _ => (s.toHost "Cmp" pa 0, h.served c)
  | .none | .move _ => (s, h)

/-- Invalidations, update pushes or recalls sent to dies (INV_ALL, INV_OWNER, UPD_ALL, RECALL), in less than the time that 10 R263 allows; with nobody to
answer, the answer is in at once. -/
def State.callHolders (s : State) (h : HomeLine) (dies : List Nat) (awaitData : Bool) : State × HomeLine :=
  let h1 := { h with acks := dies, pushing := false, awaitData := if awaitData then dies.head? else none, holders := h.holders.filter fun d => !dies.contains d }
  if dies = [] then (s.within 1000 (if awaitData then .dataIn h.line else .ackIn h.line), h1)
  else (dies.foldl (fun s d => s.within 1000 (.invalidationReceived d h.line)) s, h1)

/-- The write of a cause pushed to every holder (UPD_ALL); the writer's own die has it at once. -/
def State.pushAll (s : State) (h : HomeLine) (c : Cause) : State × HomeLine :=
  let (mask, new) : LineMask × LineData := match c with
    | .req r => if r.fetches then (0, 0) else (r.mask, (r.rmwOn (s.reqBase r)).1)
    | c => c.bytes
  let own : Option Nat := match c with
    | .req r => some (dieOf r.core)
    | _ => none
  let dies := h.holders.filter fun d => own != some d
  let mine (d : DieLine) : DieLine := if d.line == h.line && own == some d.die then { d with data := mergeLine d.data new mask } else d
  let s1 := { s with mem := { s.mem with die := s.mem.die.map mine } }
  let h1 := { h with acks := dies, pushing := true, push := new, pushMask := mask, awaitData := none }
  if dies = [] then (s1.within 1000 (.ackIn h.line), h1)
  else (dies.foldl (fun s d => s.within 1000 (.invalidationReceived d h.line)) s1, h1)

/-- The error of an ERROR action, with its log entry (10 R269, 16 R388): LOST_HOME where a die is lost (10 R277), WO_VIOLATION under write-once (10 R267),
else PROTOCOL (17 R399). Without a cause it goes to everything that waits. -/
def State.errorCause (s : State) (h : HomeLine) (ev : Nat) (c : Cause) : State × HomeLine :=
  let kind := if s.homeLost h.line || ev == evLost then kLostHome else if s.writeOnce h.line then kWoViolation else kProtocol
  let one (s : State) : Cause → State
    | .req r => s.refuseReq r kind
    | .host pa _ _ => (s.logError Who.host kind (lineOf pa) (byteMask (pa % 128) 1)).toHost "Error" pa 0
    | .move i => s.first [i]
    | .none => s
  match c with
  | .none => (h.waiters.foldl (fun s x => one s (s.waiterCause x)) s, { h with waiters := [] })
  | c => (one s c, h.served c)

/-- The lease of R266: a read extends it from the requester's clock, a write stamps the line. -/
def State.extendLease (s : State) (h : HomeLine) (c : Cause) : State × HomeLine :=
  let l := (s.tableFor h.line).leasel
  match c with
  | .req r => (s.after (128 * (l + 1)) (.leaseEnd h.line), { h with rts := max h.rts (s.ptsOf (dieOf r.core) + l) })
  | _ => (s, h)
/-- STAMP: the write's timestamp, which the line's rts takes too, so that wts never falls; the manual's rule gives wts alone (10 R266; log entry 34, DESIGN
CHOICE). A host write follows everything that has been performed (07 R204; log entry 34, DESIGN CHOICE). -/
def State.stampLine (s : State) (h : HomeLine) (c : Cause) : State × HomeLine :=
  match c with
  | .req r =>
    let w := max (s.ptsOf (dieOf r.core)) (h.rts + 1)
    (s.setPts (dieOf r.core) w, { h with wts := w, rts := w })
  | .host _ _ (some _) =>
    let w := max s.lineClock (h.rts + 1)
    (s, { h with wts := w, rts := w })
  | .host _ _ none | .move _ => (s, h)
  | .none =>
    let w := max h.wts (h.rts + 1)
    (s, { h with wts := w, rts := w })

/-- One action of a transition entry (10 R269); WAIT holds the cause. -/
def State.act (s : State) (h : HomeLine) (ev : Nat) (c : Cause) (a : Nat) : State × HomeLine :=
  match a with
  | 1 => s.sendData h c false
  | 2 => s.sendData h c true
  | 3 => s.callHolders h h.holders false
  | 4 => s.callHolders h (h.holders.take 1) false
  | 5 => s.pushAll h c
  | 6 => s.writeHome h c
  | 7 => s.stampLine h c
  | 8 => s.extendLease h c
  | 9 => s.errorCause h ev c
  | 10 => (s, match c.waits with
      | some x => if h.waiters.contains x then h else { h with waiters := h.waiters ++ [x] }
      | none => h)
  | 11 => s.biHost h
  | 12 => s.callHolders h (h.holders.take 1) true
  | 13 => s.ackCause h c
  | 14 => (s, { h with written := h.written ||| c.bytes.1 })
  | _ => (s, h)

/-- The event by which a held request is presented again. -/
def Req.again (r : Req) : Instr :=
  match r.kind with
  | .read => .read r.id
  | .write => .write r.id
  | .rmw _ => .rmw r.id
  | .ldv _ | .stv _ | .reclaim _ => .versionedAccessAtHome r.id

/-- The event by which what waits is presented again; a request that is gone, or performed and waiting for its acknowledgement, has none. -/
def State.waiterAgain (s : State) : Waiter → Option Instr
  | .req id => match s.req? id with
    | some r => if r.performed then none else some r.again
    | none => none
  | .host pa _ (some d) => some (.m2sMemWr pa d)
  | .host pa m none => some (.m2sMemRd pa m)
  | .biRsp pa x => some (.m2sBiRsp pa x)
  | .move i => some i

/-- Events that answer what the home has asked for: they concern what has waited longest (11 R281). -/
def answers (ev : Nat) : Bool := ev == evAckIn || ev == evDataIn || ev == evBiDone
/-- What has waited longest at a line. -/
def State.firstCause (s : State) (h : HomeLine) : Cause := ((h.waiters.map s.waiterCause).find? (· != Cause.none)).getD .none

/-- An event of a line at its home (10 R269): the actions of its entry in order, then the next state and a time-out if the entry names one. Unless the
entry holds its cause or a back-invalidation is pending, what waits is then presented again, in order of arrival (11 R281). -/
def State.lineEvent (s : State) (line ev : Nat) (c : Cause) : State :=
  let h := s.homeLine line
  let e := s.entryAt line ev
  let next := entNext e
  let tmo := (e.extractLsb' 24 8).toNat
  let cause := if c == .none && answers ev then s.firstCause h else c
  let (s1, h1) := (entActs e).foldl (fun x a => x.1.act x.2 ev cause a) (s, h)
  let wake := !(entActs e).contains 10 && h1.bi.isEmpty
  let stays := (if next = h.st then h.tmo else []) ++ (if tmo = 0 then [] else [(next, s.now + 2000 * tmo)])
  let left := if wake then h1.waiters.filter fun x => (s1.waiterAgain x).isNone else h1.waiters
  let s2 := s1.setHomeLine { h1 with st := next, wwait := entWait e, tmo := stays, waiters := left }
  let s3 := if tmo = 0 then s2 else s2.after (2000 * tmo) (.timeout line)
  if wake then s3.first (h1.waiters.filterMap s1.waiterAgain) else s3

/-- A module event (17 R416): the link's counters, a record in context 0's ring, and vector 0 of the physical function. -/
def State.moduleEvent (s : State) (die link code : Nat) : State :=
  let upd (l : Link) : Link := if l.die == die && l.link == link then { l with lastev := code, laststamp := BitVec.ofNat 64 (s.cal die) } else l
  let s1 := { s with links := { s.links with links := s.links.links.map upd } }
  ((s1.putRecord 0 { kind := code, flags := 0x10, aux := link + 256 * die, die := die }).2).raiseIrq none 0

/-- An older request of the same core to the same line comes first (07 R172); a versioned load that waits holds its own thread alone (07 R199). -/
def State.mustWait (s : State) (r : Req) : Bool :=
  r.from_ != .agent && s.mem.reqs.any fun x => x.core == r.core && x.line == r.line && x.from_ != .agent && decide (x.id < r.id) && !x.performed
    && (match x.kind with
    | .ldv _ => false
    | _ => true)

/-- What arrives for a range that is being changed waits (10 R272). -/
def State.holdRange (s : State) (x : Waiter) : State :=
  let on (j : RangeJob) : RangeJob := if j.started then { j with held := j.held ++ [x] } else j
  { s with mem := { s.mem with ranging := s.mem.ranging.map on } }

/-- The waking link that a request would cross, if any. -/
def State.wakingFor (s : State) (r : Req) : Option (Nat × Nat) := s.wakingTo (dieOf r.core) r.line

/-- Room in a home slice (01 R8, R17; 10 R262): a record that nothing depends on leaves, else a held line is recalled (log entry 34, DESIGN CHOICE). -/
def State.trimHome (s : State) (line : Nat) : State :=
  let mine := s.sliceOf line
  if mine.length < Config.sliceLines then s
  else match mine.find? s.spare with
    | some h => s.dropRecord h
    | none => match mine.find? fun h => h.settled && h.holders != [] with
      | some h => s.lineEvent h.line evRecallReq .none
      | none => s

/-- A flush of a line to its home slice (08 R231): dirty bytes of the flush and of the die's copy are written there; the copy stays, clean, or goes. -/
def State.writeThrough (s : State) (r : Req) (d : DieLine) (drop : Bool) : State :=
  let h := s.homeLine r.line
  let dirty := d.dirty ||| r.mask
  let data := mergeLine d.data r.data r.mask
  let h1 := { h with back := data, backMask := dirty, wts := max h.wts (max d.wts (s.ptsOf d.die)) }
  let stays := !drop && (entActs (s.entryAt r.line evDataIn)).contains 6
  let s1 := if stays then
      ((s.setDieLine { d with data := data, dirty := 0 }).setHomeLine h1).lineEvent r.line evDataIn .none
    else
      ((s.dropDieLine d.die r.line).setHomeLine { h1 with holders := h.holders.filter (· != d.die) }).lineEvent r.line evEvictDirty .none
  (s1.serveRmw r data [] h1.wts).ackReq r h1.wts

/-- A request to host memory (10 R276): served by CD0's RDC, which holds the line from then on. An acquire of one follows everything that has been
performed (07 R204; log entry 34, DESIGN CHOICE). -/
def State.atHost (s : State) (r : Req) : State :=
  let base := s.lineNow r.line
  let d : DieLine := (s.dieLine? 0 r.line).getD { die := 0, line := r.line, data := base, filled := s.cal 0 }
  if r.fetches then ((s.setDieLine d).trimDie 0 r.line).serveRead r base s.lineClock
  else
    let (new, olds) := r.rmwOn base
    let s1 := (s.setDieLine { d with data := mergeLine base new r.mask, dirty := d.dirty ||| r.mask }).trimDie 0 r.line
    ((s1.clearPoison r.line r.mask).serveRmw r new olds s.lineClock).ackReq r 0

/-- The event that a request raises: an RMW that its core performs in its fabric cache reads the line; one at .cl or .die, performed at the die's last-level
cache, writes it; a flush is performed at the home slice (07 R182, 08 R231). -/
def State.eventOf (s : State) (r : Req) (ev : Nat) : Nat :=
  if r.fetches then evRead
  else match r.kind with
    | .rmw _ => if r.scope == .dev || r.scope == .sys then ev else evWrite
    | _ => if r.flush.isSome && (entActs (s.entryAt r.line evWrite)).contains 2 then evRmw else ev

/-- A request whose checks have passed, under its line's opening; a flush waits for an answer that the home awaits. -/
def State.underOpening (s : State) (r : Req) (ev : Nat) : State :=
  let own := if r.fetches then none else s.dieLine? (dieOf r.core) r.line
  match own with
  | some d =>
    if r.flush.isSome && !(s.homeLine r.line).settled then s.setHomeLine { s.homeLine r.line with waiters := (s.homeLine r.line).waiters ++ [.req r.id] }
    else if r.flush.isSome && (d.writable || d.dirty ≠ 0) then s.writeThrough r d (r.flush == some true)
    else if d.writable && ev != evRmw then
      let (new, olds) := r.rmwOn d.data
      let wts := max d.wts (s.ptsOf d.die)
      ((s.setDieLine { d with data := mergeLine d.data new r.mask, dirty := d.dirty ||| r.mask, wts := wts }).serveRmw r new olds d.wts).ackReq r wts
    else s.lineEvent r.line ev (.req r)
  | none => s.lineEvent r.line ev (.req r)

/-- The error response that a request gets at its home before its opening looks at it, if any (07 R202; 10 R267; 16 R387; 17 R419). Those of an agent's access were made with it. -/
def State.reqError (s : State) (r : Req) : Option Nat :=
  let w := r.who
  if r.from_ == .agent then none else
  match r.kind with
  | .read => s.readError w r.line r.mask
  | .rmw _ =>
    let bad := s.writeError w r.line r.mask true r.llop.isSome
    if bad.isNone && s.poisonHit r.line r.mask then some kEccUncorr else bad
  | _ => if r.mask = 0 then (if s.homeLost r.line then some kLostHome else none) else s.writeError w r.line r.mask false

/-- A request of which some accesses name a poisoned sector and others do not: those get the error response, the rest goes on; each lane fails on its own
(08 R212). -/
def State.splitReq (s : State) (r : Req) : State × Req :=
  let bad := s.poisonOf r.line r.mask (r.kind == .write)
  if bad = 0 || bad = r.mask || s.reqError r != some kEccUncorr then (s, r)
  else
    let (b, g) := splitAccs r.accs bad
    let lost := if r.from_ == .writeback then bad else b.foldl (fun m a => m ||| byteMask a.off a.size) 0
    let x := { r with accs := g, mask := r.mask &&& ~~~lost }
    if x.mask = 0 then (s, r) else ((s.deliverError r kEccUncorr b lost).updReq r.id fun _ => x, x)

/-- A request at its home. -/
def State.atHome (s : State) (id ev0 : Nat) : State :=
  match s.req? id with
  | none => s
  | some r =>
    if r.performed then s
    else if s.mustWait r then s.later r.again
    else match s.wakingFor r with
    | some via => (s.awaitLink (some id) (some r.line) via (s.wwaitOf r.line ev0)).later r.again
    | none =>
      let s := s.stopWait (some id) r.line
      if !s.homeLost r.line && s.rangingAt r.line then s.holdRange (.req id)
      else
      let (s, r) := s.splitReq r
      let ev := s.eventOf r ev0
      let again := r.kind == .write && r.from_ != .agent && s.writesAgain r.line r.mask
      match s.reqError r with
      | some k => if again && (k == kWoViolation || k == kProtocol) then s.after 0 (.writeAgain id) else s.refuseReq r k
      | none =>
        if isHostPa r.line then s.atHost r
        else if again then s.after 0 (.writeAgain id)
        else if (s.windowAt r.line).isSome then s.serveRead r (s.plainLine r.line) (s.homeLine r.line).wts
        else if r.kind == .write && r.mask = 0 && r.from_ != .agent && !((s.dieLine? (dieOf r.core) r.line).any fun d => d.dirty != 0) then s.ackReq r 0
        else
          let h := s.homeLine r.line
          if h.bi ≠ [] || s.hostHolds r.line (!r.fetches || (entActs (s.entryAt r.line ev)).contains 2) then
            let s1 := s.callHost r.line
            let h1 := s1.homeLine r.line
            s1.setHomeLine { h1 with waiters := h1.waiters ++ [.req id] }
          else (s.trimHome r.line).underOpening r ev

/-- READ (10 R269). -/
def execRead (id : Nat) (s : State) : Out := .next (s.atHome id evRead)
/-- WRITE. -/
def execWrite (id : Nat) (s : State) : Out := .next (s.atHome id evWrite)
/-- RMW. -/
def execRmw (id : Nat) (s : State) : Out := .next (s.atHome id evRmw)

/-- WRITE_AGAIN (10 R267): under write-once the write is dropped with WO_VIOLATION and logged. -/
def execWriteAgain (id : Nat) (s : State) : Out :=
  .next (match s.req? id with
    | none => s
    | some r => if r.performed then s else s.lineEvent r.line evWriteAgain (.req r))

/-- WRITE_ACKNOWLEDGEMENT (10 R266): the writer's die advances its clock, and what waited for the write may go on. The die's copy of a line flushed with
`inv` goes (08 R231). -/
def execWriteAcknowledgement (id : Nat) (s : State) : Out :=
  .next (match s.req? id with
    | none => s
    | some r =>
      if !r.performed || r.error.isSome then s
      else
        let s0 := s.dropReq id
        let s1 := if r.flush == some true then s0.later (if isHostPa r.line then .evictDirty 0 r.line else .evictClean (dieOf r.core) r.line) else s0
        if s.leaseOf r.line = 0 && s.slotAt r.line ≠ 0 then s1 else s1.setPts (dieOf r.core) r.wts)

end Sys2Proof.Machine
end

