-- ==== Sys2Proof/Machine/Homes.lean ====
section
/-!
DEFINITION. Machine/Homes.lean: what reaches a home beside the requests of cores: evictions, acknowledgements and data, host messages, changes of
ranges, links that wake and dies that are lost (10 R262 to R279; 11 R281, R282, R427).
-/
namespace Sys2Proof.Machine

-- Ranges ---------------------------------------------------------------------------------------------------------------------------------------------

/-- DEF of a transition entry. -/
def entDef (e : BitVec 64) : Bool := e.getLsbD 6

/-- States of a table in use. -/
def PTable.states (t : PTable) : List Nat := List.range (t.nst + 1)
def PTable.ent (t : PTable) (st e : Nat) : BitVec 64 := smGet t.entries (16 * st + e)

/-- A range descriptor of 32 bytes (10 R271). -/
def rangeOf (bs : List Byte) : RangeEntry × Nat :=
  let x := leOf bs
  ({ base := bitsAt x 0 64, lim := bitsAt x 64 64, slot := bitsAt x 128 4, near := bitsAt x 132 1 == 1, vwin := bitsAt x 133 1 == 1,
     hdm := bitsAt x 134 1 == 1 }, bitsAt x 135 2)

/-- The bytes of a range that lie in a compute die's near-first window (01 R16). -/
def State.nearBytes (s : State) (e : RangeEntry) (die : Nat) : Nat := match s.boot.near[die]? with
  | some (b, l) => min e.lim l - max e.base b
  | none => 0
/-- The share of a range on a memory-side die, at the interleave of 1 KiB (01 R15, R16). -/
def State.shareOf (s : State) (e : RangeEntry) (ms : Nat) : Nat :=
  s.nearBytes e (ms / 4) / 4 + (e.lim - e.base - ((List.range 4).map (s.nearBytes e)).foldl (· + ·) 0) / 16
/-- Some memory-side die's versioned share would exceed 16 MiB with a range (10 R273): counted with that die's other versioned windows. -/
def State.windowsFull (s : State) (e : RangeEntry) : Bool :=
  let all := e :: s.mem.ranges.filter fun r => r.vwin && !(r.base == e.base && r.lim == e.lim)
  (List.range 16).any fun m => !s.links.lost.contains (msDie m) && s.shareOf e m != 0 && decide (2 ^ 24 < (all.map fun r => s.shareOf r m).foldl (· + ·) 0)

/-- The range lies wholly in one near-first window (01 R16). -/
def State.oneNear (s : State) (e : RangeEntry) : Bool :=
  match s.nearDie e.base with
  | some n => match s.boot.near[n]? with
    | some (_, l) => decide (e.lim ≤ l)
    | none => false
  | none => false

/-- An opening that a host-managed range may select (10 R275): slot 4 answers host writes to written bytes with ERROR. -/
def PTable.hostOk (t : PTable) : Bool :=
  t.states.all fun st => [evHostRd, evHostWr, evBiDone].all fun e => !(entActs (t.ent st e)).contains 9

/-- The checks of 10 R279 on a set or clear, in their order. -/
def State.rangeStatus (s : State) (a : Nat) (bs : List Byte) : Nat :=
  let (e, opc) := rangeOf bs
  let same := s.mem.ranges.find? fun r => r.base == e.base && r.lim == e.lim
  let table := s.tableIn e.slot
  if a % 32 ≠ 0 || e.base % 2 ^ 16 ≠ 0 || e.lim % 2 ^ 16 ≠ 0 then 0x0711
  else if bitsAt (leOf bs) 137 119 ≠ 0 || opc > 1 || e.base ≥ 2 ^ 52 || e.lim ≥ 2 ^ 52 || e.lim ≤ e.base || e.lim > Config.dramBytes then 0x0712
  else if opc = 1 then (if same.isNone then 0x0718 else 0)
  else if (same.any fun r => r.near != e.near || r.vwin != e.vwin || r.hdm != e.hdm) then 0x0712
  else if table.isNone && e.slot > 4 || (e.hdm && (e.slot == 4 || !((table.map PTable.hostOk).getD true))) then 0x0713
  else if same.isNone && (s.mem.ranges.any fun r => decide (r.base < e.lim ∧ e.base < r.lim)) then 0x0714
  else if same.isNone && s.mem.ranges.length ≥ 64 then 0x0715
  else if e.near && !s.oneNear e then 0x0716
  else if e.vwin && s.windowsFull e then 0x0717
  else 0

/-- A job's set or clear, and whether a line lies in its range. -/
def RangeJob.entry (j : RangeJob) : RangeEntry := (rangeOf j.bs).1
def RangeJob.clears (j : RangeJob) : Bool := (rangeOf j.bs).2 == 1
def RangeJob.covers (j : RangeJob) (a : Nat) : Bool := decide (j.entry.base ≤ a ∧ a < j.entry.lim)
/-- The entry in force with a job's bounds. -/
def State.rangeSame (s : State) (j : RangeJob) : Option RangeEntry := s.mem.ranges.find? fun r => r.base == j.entry.base && r.lim == j.entry.lim

/-- RECALL_REQ on a line (10 R272): by its table where that answers it with an invalidation or a recall, else every copy comes home at once (log entry 9,
DESIGN CHOICE). -/
def State.recallLine (s : State) (line : Nat) : State :=
  let h := s.homeLine line
  let copies := s.mem.die.filter fun d => d.line == line
  let acts := entActs (s.entryAt line evRecallReq)
  if !h.settled then s
  else if (acts.contains 3 || acts.contains 4 || acts.contains 12) && copies.all fun d => h.holders.contains d.die then s.lineEvent line evRecallReq .none
  else
    let s1 := copies.foldl (fun s d => s.putLine line d.dirty d.data) s
    let wts := copies.foldl (fun m d => max m d.wts) h.wts
    ({ s1 with mem := { s1.mem with die := s1.mem.die.filter fun d => d.line != line } }).setHomeLine { h with holders := [], wts := wts }

/-- Steps 1 to 3 of 10 R272, as far as they can be taken now: every line of the range that a die holds is recalled, and every marked host half is
back-invalidated; a lost die's share is skipped (10 R279). -/
def State.recallRange (s : State) (j : RangeJob) : State :=
  let held := (s.mem.die.map DieLine.line ++ (s.mem.home.filter fun h => h.holders != []).map HomeLine.line).filter fun l => j.covers l && !s.homeLost l
  let s1 := held.eraseDups.foldl State.recallLine s
  (s1.mem.home.filter fun h => j.covers h.line && !s1.homeLost h.line && h.settled && (h.host0 != .none || h.host1 != .none)).foldl (fun s h => s.callHost h.line) s1

/-- Nothing of the range is held, and no answer is outstanding. -/
def State.rangeDone (s : State) (j : RangeJob) : Bool :=
  !j.closing && (s.mem.die.all fun d => !j.covers d.line || s.homeLost d.line)
    && s.mem.home.all fun h => !j.covers h.line || s.homeLost h.line || (h.settled && h.host0 == .none && h.host1 == .none)

/-- The head of the range changes replaced. -/
def State.setJob (s : State) (j : RangeJob) : State := { s with mem := { s.mem with ranging := j :: s.mem.ranging.tail } }

/-- The windows of a range closed (10 R272): versioned loads that wait are answered, and the range is cleared once the homes have answered. -/
def State.closeWindows (s : State) (base : Nat) : State :=
  let close (w : VWindow) : VWindow := if w.base == base then { w with closed := true, waiting := [] } else w
  let waiting := (s.mem.windows.filter fun w => w.base == base).flatMap VWindow.waiting
  (({ s with mem := { s.mem with windows := s.mem.windows.map close } }).first (waiting.map Instr.versionedAccessAtHome)).later (.ackIn base)

/-- A range change begins: its checks are passed. -/
def State.beginRange (s : State) (j : RangeJob) : State :=
  let closing := j.clears && (s.rangeSame j).any RangeEntry.vwin
  let s1 := s.setJob { j with started := true, closing := closing }
  if closing then s1.closeWindows j.entry.base else s1

/-- A lane's part of prange.set is done, with what it writes. -/
def State.endJob (s : State) (j : RangeJob) (v : Word) : State :=
  let s1 := { s with mem := { s.mem with ranging := s.mem.ranging.tail } }
  (s1.updLL j.llop fun x => { x with pending := x.pending - 1, writes := x.writes ++ [{ lane := j.lane, reg := j.reg, val := v }] }).finishLL j.llop

/-- The ordinary bytes of a range at zero: of a word that nothing has written the version is 0, of value zero (10 R273). -/
def State.zeroRange (s : State) (base lim : Nat) : State :=
  { s with mem := { s.mem with bytes := s.mem.bytes.filter (fun x => !decide (base ≤ x.1 ∧ x.1 < lim)), undef := carve s.mem.undef base lim } }

/-- Windows opened for a versioned range, one on each memory-side die that holds a share (10 R273). -/
def openWindows (e : RangeEntry) (n : Nat) : List VWindow := if e.vwin then (List.range 16).map fun i => { base := e.base, ms := i, serial := n + i } else []

/-- A range change applied (10 R272): data still on its way is at home, the latest versions of a range that is no longer versioned become ordinary bytes,
the range's lines start afresh under what now covers it, and what waited is presented again. -/
def State.applyRange (s : State) (j : RangeJob) : State :=
  let e := j.entry
  let old := s.rangeSame j
  let mine := s.mem.home.filter fun h => j.covers h.line
  let s1 := mine.foldl (fun s h => s.putLine h.line h.backMask h.back) s
  let words := ((s1.mem.windows.filter fun w => w.base == e.base).flatMap VWindow.words)
  let s2 := if j.clears && old.any RangeEntry.vwin then words.foldl (fun s x => s.putBytes x.addr 8 x.latest.2.toNat) (s1.zeroRange e.base e.lim)
    else if !j.clears && old.isNone && e.vwin then s1.zeroRange e.base e.lim else s1
  let windows := if j.clears then s2.mem.windows.filter fun w => w.base != e.base
    else if old.isNone then s2.mem.windows ++ openWindows e s2.nonce else s2.mem.windows
  let aged := mine.foldl (fun m h =>
    let ms := s.homeOf h.line
    smSet m ms (BitVec.ofNat 48 (max (smGet m ms).toNat (max h.wts h.rts)))) s2.mem.aged
  let ranges := (s2.mem.ranges.filter fun r => !(r.base == e.base && r.lim == e.lim)) ++ (if j.clears then [] else [e])
  let s3 := { s2 with nonce := s2.nonce + 16, mem := { s2.mem with
    ranges := ranges, windows := windows, aged := aged, home := s2.mem.home.filter fun h => !j.covers h.line } }
  (s3.first ((mine.flatMap HomeLine.waiters ++ j.held).filterMap s.waiterAgain)).endJob j 0

/-- Range changes carried on, one at a time, in the order in which they reached CD0 (10 R272, R279, R280). -/
def State.runRanges : Nat → State → State
  | 0, s => s
  | n + 1, s =>
    match s.mem.ranging with
    | [] => s
    | j :: _ =>
      if !j.started then
        let c := s.rangeStatus j.at_ j.bs
        State.runRanges n (if c ≠ 0 then s.endJob j (excStatus c) else s.beginRange j)
      else
        let s1 := s.recallRange j
        if s1.rangeDone j then State.runRanges n (s1.applyRange j) else s1
/-- The range change in progress carried on after a home has had an answer. -/
def State.settleRanges (s : State) : State := s.runRanges (2 * s.mem.ranging.length)

-- Evictions, acknowledgements and data -------------------------------------------------------------------------------------------------------------------

/-- EVICT_CLEAN: a die drops a clean copy. -/
def execEvictClean (die line : Nat) (s : State) : Out :=
  .next (match s.dieLine? die line with
    | none => s
    | some d =>
      if d.dirty ≠ 0 then s
      else if isHostPa line then s.dropDieLine die line
      else
        let s1 := s.dropDieLine die line
        let h := s1.homeLine line
        ((s1.setHomeLine { h with holders := h.holders.filter (· != die), wts := max h.wts d.wts }).lineEvent line evEvictClean .none).settleRanges)

/-- EVICT_DIRTY: a die's dirty bytes come home. -/
def execEvictDirty (die line : Nat) (s : State) : Out :=
  .next (match s.dieLine? die line with
    | none => s
    | some d =>
      if d.dirty = 0 then s
      else
        let s1 := s.dropDieLine die line
        if isHostPa line then s1.putLine line d.dirty d.data
        else
          let h := s1.homeLine line
          let h1 := { h with
            holders := h.holders.filter (· != die), back := mergeLine h.back d.data d.dirty, backMask := h.backMask ||| d.dirty, wts := max h.wts d.wts }
          ((s1.setHomeLine h1).lineEvent line evEvictDirty .none).settleRanges)

/-- INVALIDATION_RECEIVED (10 R264): the die drops its copy, or takes a pushed write, and its acknowledgement or data goes home. -/
def execInvalidationReceived (die line : Nat) (s : State) : Out :=
  .next (
    let h := s.homeLine line
    if !h.acks.contains die then s
    else match s.wakingOn (pathTo die (s.homeOf line)) with
    | some (a, b) =>
      let via := if farDie a b = die then (a, b) else (farEnd a b).getD (a, b)
      (s.awaitLink none (some line) via h.wwait).later (.invalidationReceived die line)
    | none =>
      let s := s.stopWait none line
      let d := s.dieLine? die line
      let dirty := if h.pushing then 0 else (d.map DieLine.dirty).getD 0
      let s1 := if h.pushing then
          (match d with
            | some x => s.setDieLine { x with data := mergeLine x.data h.push h.pushMask }
            | none => s)
        else s.dropDieLine die line
      let acks := h.acks.filter (· != die)
      let h1 := { h with
        acks := acks, back := mergeLine h.back ((d.map DieLine.data).getD 0) dirty, backMask := h.backMask ||| dirty,
        wts := max h.wts ((d.map DieLine.wts).getD 0) }
      let s2 := s1.setHomeLine h1
      if acks = [] then s2.within 500 (if h.awaitData.isSome then .dataIn line else .ackIn line) else s2)

/-- ACK_IN: every acknowledgement is in; dirty bytes that came with one are written home. The homes' answer that the windows of a range are closed is one
too (10 R272). -/
def execAckIn (line : Nat) (s : State) : Out :=
  .next (match s.mem.ranging.head? with
    | some j =>
      if j.started && j.closing && j.entry.base == line then (s.setJob { j with closing := false }).settleRanges
      else if (s.homeLine line).acks = [] then
        ((s.setHomeLine { s.homeLine line with pushing := false }).lineEvent line evAckIn .none).settleRanges
      else s
    | none =>
      if (s.homeLine line).acks = [] then (s.setHomeLine { s.homeLine line with pushing := false }).lineEvent line evAckIn .none else s)
/-- DATA_IN. -/
def execDataIn (line : Nat) (s : State) : Out :=
  .next (
    let h := s.homeLine line
    if h.acks ≠ [] then s else ((s.setHomeLine { h with awaitData := none }).lineEvent line evDataIn .none).settleRanges)
/-- TIMEOUT (10 R269): the line is still in the state that the time-out was set in. -/
def execTimeout (line : Nat) (s : State) : Out :=
  .next (
    let h := s.homeLine line
    let due (x : Nat × Nat) : Bool := decide (x.1 = h.st ∧ x.2 ≤ s.now)
    if h.tmo.any due then (s.setHomeLine { h with tmo := h.tmo.filter fun x => !due x }).lineEvent line evTimeout .none else s)
/-- LEASE_END. -/
def execLeaseEnd (line : Nat) (s : State) : Out := .next (s.lineEvent line evLeaseEnd .none)

/-- PTS_ADVANCE (10 R266): by 1 for every 64 ns. -/
def execPtsAdvance (die : Nat) (s : State) : Out := .next ((s.setPts die (s.ptsOf die + 1)).after 128 (.ptsAdvance die))

-- The host ---------------------------------------------------------------------------------------------------------------------------------------

/-- The half of a line that a CXL address names. -/
def halfOf (pa : Nat) : Nat := pa % 128 / 64

/-- A host message on its way to a home: to a lost home it gets an error, and while a link on its way from CD0 wakes it waits (01 R20; 10 R277). -/
def State.hostArrives (s : State) (pa ev : Nat) (x : Waiter) (k : State → State) : State :=
  let line := lineOf pa
  if s.homeLost line then s.toHost "Error" pa 0
  else match s.wakingTo 0 line with
  | some via => s.awaitLink none (some line) via (s.wwaitOf line ev) (some x)
  | none => k s

/-- A host message at its home: while its range is being changed it waits, and a line with a back-invalidation pending holds it (10 R272, 11 R282). -/
def State.hostMessage (s : State) (pa ev : Nat) (x : Waiter) (k : State → State) : State :=
  s.hostArrives pa ev x fun s =>
    let line := lineOf pa
    let h := s.homeLine line
    if s.rangingAt line then s.holdRange x
    else if h.bi ≠ [] then s.setHomeLine { h with waiters := h.waiters ++ [x] }
    else k (s.trimHome line)

/-- M2S_MEMRD (11 R281, R427). -/
def execM2sMemRd (pa : Nat) (mark : HostMark) (s : State) : Out :=
  .next (if !s.hdmAt pa then s.toHost "MemData poisoned" pa 0
    else s.hostMessage pa evHostRd (.host pa mark none) fun s => s.lineEvent (lineOf pa) evHostRd (.host pa mark none))

/-- M2S_MEMWR (11 R281, R427): under a pending back-invalidation of its half, the data comes home as DATA_IN; one that names written bytes is WRITE_AGAIN
(10 R269). -/
def execM2sMemWr (pa : Nat) (data : BitVec 512) (s : State) : Out :=
  .next (
    let line := lineOf pa
    let h := s.homeLine line
    let c : Cause := .host pa .none (some data)
    if !s.hdmAt pa then s.toHost "Cmp" pa 0
    else if h.bi.contains (halfOf pa) then
      s.hostArrives pa evDataIn (.host pa .none (some data)) fun s =>
        let acts := entActs (s.entryAt line evDataIn)
        let s1 := if acts.contains 6 then s else s.putLine line c.bytes.1 c.bytes.2
        let s2 := s1.lineEvent line evDataIn c
        if acts.contains 13 then s2 else s2.toHost "Cmp" pa 0
    else s.hostMessage pa evHostWr (.host pa .none (some data)) fun s =>
      let s1 := s.setHomeLine ((s.homeLine line).setMark (halfOf pa) .none)
      s1.lineEvent line (if s.writesAgain line c.bytes.1 then evWriteAgain else evHostWr) c)

/-- M2S_BIRSP (11 R281): the mark afterwards, and BI_DONE once no half is pending. -/
def execM2sBiRsp (pa : Nat) (shared : Bool) (s : State) : Out :=
  .next (
    let line := lineOf pa
    let h := s.homeLine line
    if !h.bi.contains (halfOf pa) then s
    else s.hostArrives pa evBiDone (.biRsp pa shared) fun s =>
      let h1 := { h.setMark (halfOf pa) (if shared then .s else .none) with bi := h.bi.filter (· != halfOf pa) }
      let s1 := s.setHomeLine h1
      if h1.bi = [] then (s1.lineEvent line evBiDone .none).settleRanges else s1)

/-- HOST_SNOOP (10 R276): answered from CD0's copy of a host-memory line, with the 64-byte half that it names. -/
def execHostSnoop (line : Nat) (inval : Bool) (s : State) : Out :=
  .next (
    let l := lineOf line
    match s.dieLine? 0 l with
    | none => s.toHost "RspMiss" line 0
    | some d =>
      let s1 := if d.dirty ≠ 0 then (s.putLine l d.dirty d.data).setDieLine { d with dirty := 0 } else s
      (if inval then s1.dropDieLine 0 l else s1).toHost (if d.dirty ≠ 0 then "RspFwd" else "RspHit") line
        (d.data.extractLsb' (512 * halfOf line) 512))

-- Waking and lost dies -----------------------------------------------------------------------------------------------------------------------------

/-- WAKE_LATE (10 R277): the event is logged and what waits keeps waiting. -/
def execWakeLate (id : Nat) (s : State) : Out :=
  .next (match s.links.waits.find? fun x => x.id == id with
    | none => s
    | some x =>
      (match x.line with
        | some l => s.lineEvent l evWakeLateLine .none
        | none => s).moduleEvent x.via.1 x.via.2 evWakeLate)

/-- Waits for links that are no longer waking are over: host messages are presented again, in order of arrival, the rest goes on by its own step. -/
def State.wokenMessages (s : State) : State :=
  let woken (x : WakeWait) : Bool := (s.wakingOn [x.via]).isNone
  ({ s with links := { s.links with waits := s.links.waits.filter fun x => !woken x } }).first
    (((s.links.waits.filter woken).filterMap WakeWait.msg).filterMap s.waiterAgain)

/-- The link through which a die is reached: the lowest-numbered compute die's that is not lost (log entry 15, DESIGN CHOICE). -/
def State.linkOf (s : State) (die : Nat) : Nat × Nat :=
  if die ≥ 4 then ((die - 4) / 4, (die - 4) % 4)
  else
    let a := ((List.range 4).find? fun d => d != die && !s.links.lost.contains d).getD 0
    (a, meshLink a die)

/-- Lanes of a link in each direction (01 R11). -/
def linkLanes (link : Nat) : Nat := if link < 4 then 2048 else 1024
/-- Every lane of a link to a die is retired (17 R416). -/
def State.severed (s : State) (die : Nat) : Bool :=
  s.links.links.any fun l => farDie l.die l.link == die && decide (linkLanes l.link ≤ l.retired.length)

/-- What waits at the homes that are lost is presented again, and gets the lost-die response: what they held, and versioned loads that waited (01 R10). -/
def State.releaseLost (s : State) : State :=
  let held := (s.mem.home.filter fun h => s.homeLost h.line).flatMap HomeLine.waiters
  let gone (w : VWindow) : Bool := s.links.lost.contains (w.ms / 4) || s.links.lost.contains (msDie w.ms)
  let loads := (s.mem.windows.filter gone).flatMap VWindow.waiting
  let home (h : HomeLine) : HomeLine := if s.homeLost h.line then { h with waiters := [] } else h
  let window (w : VWindow) : VWindow := if gone w then { w with waiting := [] } else w
  ({ s with mem := { s.mem with home := s.mem.home.map home, windows := s.mem.windows.map window } }).first
    (held.filterMap s.waiterAgain ++ loads.map Instr.versionedAccessAtHome)

/-- A die declared lost (10 R277, 17 R401): its links are lost, requests to it get the lost-die response, lines that await it raise LOST, invalidates
count as complete there, and every launch with a workgroup on it is killed with LOST_UNIT. -/
def State.loseDie (s : State) (die : Nat) : State :=
  let mark (l : Link) : Link := if farDie l.die l.link == die then { l with lost := true, up := false, waking := false } else l
  let sync (o : LLOp) : LLOp := if o.sync then { o with writes := o.writes.map fun x => { x with val := excStatus 0x0802 } } else o
  let s1 : State :=
    { s with
      links := { s.links with
        lost := die :: s.links.lost, links := s.links.links.map mark, waits := s.links.waits.filter fun x => x.die != die || x.msg.isSome },
      iso := { s.iso with invs := s.iso.invs.map fun x => { x with lost := true } },
      fe := { s.fe with llops := s.fe.llops.map sync } }
  let s2 := s1.moduleEvent (s1.linkOf die).1 (s1.linkOf die).2 evDieLost
  let waiting := (s2.mem.home.filter fun h => h.acks.contains die || h.awaitData == some die).map HomeLine.line
  let drop (h : HomeLine) : HomeLine :=
    { h with
      acks := h.acks.filter (· != die), holders := h.holders.filter (· != die), awaitData := if h.awaitData == some die then none else h.awaitData }
  let s3 := { s2 with mem := { s2.mem with home := s2.mem.home.map drop, die := s2.mem.die.filter fun d => d.die != die } }
  let s4 := waiting.foldl (fun s l => s.lineEvent l evLost .none) s3
  let s5 := (s4.releaseLost.wokenMessages).settleRanges
  let gone := (s5.fe.wgs.filter fun g => dieOf g.core == die).map Wg.launch
  (gone.foldl (fun s l => s.killLaunch l kLostUnit) s5).loseCopies die

/-- DIE_LOST (10 R277, 17 R416): declared when a request has waited 50 µs for a die, or when every module of a link to it is retired. -/
def execDieLost (die : Nat) (s : State) : Out :=
  .next (
    let late := s.links.waits.any fun x => x.die == die && decide (x.since + 100000 ≤ s.now)
    if s.links.lost.contains die || !(late || s.severed die) then s else s.loseDie die)

/-- Both ends of a link changed. -/
def State.mapLink (s : State) (die link : Nat) (g : Link → Link) : State :=
  let on (l : Link) : Link := if (l.die == die && l.link == link) || farEnd die link == some (l.die, l.link) then g l else l
  { s with links := { s.links with links := s.links.links.map on } }

/-- LINK_WAKE_COMPLETE (10 R277): the link is up, and nothing waits for it any longer. -/
def execLinkWakeComplete (die link : Nat) (s : State) : Out :=
  .next ((s.mapLink die link fun l => { l with up := !l.lost, waking := false }).wokenMessages)

end Sys2Proof.Machine
end

