-- ==== Sys2Proof/Machine/Versioned.lean ====
section
/-!
DEFINITION. Machine/Versioned.lean: versioned memory (07 R197 to R202; 08 R222 to R226) and the instructions that load tables and set ranges
(10 R268 to R273, R278 to R280).
-/
namespace Sys2Proof.Machine

/-- Version n is newer than version m (R197). -/
def newer (n m : Word) : Bool := decide (0 < (n - m).toNat ∧ (n - m).toNat < 2 ^ 31)

-- Status codes of the versioned forms (R222).
def vSeq : Word := 0x0301
def vFull : Word := 0x0302
def vStale : Word := 0x0303
def vClosed : Word := 0x0304
def vNoWin : Word := 0x0305

/-- The versions of a word that stay live under a floor (R223): the latest, and those not older than the floor. -/
def VWord.prune (x : VWord) (floor : Word) : VWord :=
  match x.versions with
  | [] => x
  | v :: t => { x with versions := v :: t.filter fun y => !newer floor y.1 }

/-- A word of a window replaced. -/
def VWindow.setWord (w : VWindow) (x : VWord) : VWindow := { w with words := upsert (fun y => y.addr == x.addr) x w.words }

/-- What an stv does at its word (R198): the status, and the word afterwards. -/
def VWord.offer (x : VWord) (n : Word) (value : DWord) (floor : Word) : Word × VWord :=
  if n != x.latest.1 + 1 then (vSeq, x)
  else if x.versions.length ≥ 4 then (vFull, x)
  else (0, { x with versions := (n, value) :: x.versions }.prune floor)

/-- What an ldv finds at its word (R199, R224): a value, a status, or none where it waits. A version that differs from the latest by exactly 2^31 is neither
newer nor older by the comparison of R197; it is answered STALE (log entry 36, DESIGN CHOICE). -/
def VWord.find (x : VWord) (n : Word) : Option (Except Word DWord) :=
  match x.versions.find? fun v => v.1 == n with
  | some v => some (.ok v.2)
  | none => if newer n x.latest.1 then none else some (.error vStale)

/-- A reclaim of a window (R200, R226). -/
def VWindow.reclaim (w : VWindow) (n : Word) : VWindow :=
  if newer n w.floor then { w with floor := n, words := w.words.map fun x => x.prune n } else w

/-- A versioned request answered: its registers, and an acquire where it returned a value. -/
def State.serveVersioned (s : State) (r : Req) (ws : List RegWrite) (acq : Bool) (wts : Nat) : State :=
  let s1 := s.dropReq r.id
  match r.llop with
  | none => s1
  | some n =>
    (s1.updLL n fun x => { x with
      pending := x.pending - 1, writes := x.writes ++ ws, wts := max x.wts wts,
      acquire := if acq then some r.scope else x.acquire }).finishLL n

/-- The error response that a versioned request gets at its home, if any. -/
def State.versionedError (s : State) (w : Who) (r : Req) : Option Nat :=
  match r.kind with
  | .ldv _ => s.readError w r.line r.mask
  | _ => if s.homeLost r.line then some kLostHome else if !s.windowAllows w r.line false true then some kTenantWindow else none

/-- VERSIONED_ACCESS_AT_HOME (R198 to R200): in order of arrival. -/
def execVersionedAccessAtHome (id : Nat) (s : State) : Out :=
  .next (match s.req? id with
    | none => s
    | some r =>
      if r.performed then s
      else if s.mustWait r then s.later r.again
      else match s.wakingFor r with
      | some via => (s.awaitLink (some id) r.line via 125).later r.again
      | none =>
        let s := s.stopWait (some id) r.line
        let a := r.accs.headD { lane := 0, off := 0, size := 8, va := 0 }
        let status (c : Word) : List RegWrite := [{ lane := a.lane, reg := r.status, val := c }]
        match s.versionedError r.who r with
        | some k => s.refuseReq r k
        | none =>
          match s.windowAt r.line with
          | none => s.serveVersioned r (status vNoWin) false 0
          | some w =>
            if w.closed then s.serveVersioned r (status vClosed) false 0
            else
              let addr := (r.line + a.off) - (r.line + a.off) % 8
              let x := w.word addr
              let h := s.homeLine r.line
              match r.kind with
              | .ldv n =>
                match x.find n with
                | none => s.setWindow { w with waiting := w.waiting ++ [id] }
                | some (.error c) => s.serveVersioned r (status c) false 0
                | some (.ok v) =>
                  s.serveVersioned r (accWrites (placeBytes (a.off - a.off % 8) v.toNat) a ++ status 0) true h.wts
              | .stv n =>
                let old := x.latest.2.toNat
                let v := if r.wide then a.b else
                  BitVec.ofNat 64 (takeBytes (mergeLine (placeBytes 0 old) (placeBytes (a.off % 8) (a.b.toNat % 2 ^ 32)) (byteMask (a.off % 8) 4)) 0 8)
                let (c, x1) := x.offer n v w.floor
                let w1 := w.setWord x1
                if c = 0 then
                  let s1 := (s.setWindow { w1 with waiting := [] }).setHomeLine { h with wts := max h.wts (s.ptsOf (dieOf r.core)) }
                  let s2 := s1.first (w.waiting.map Instr.versionedAccessAtHome)
                  s2.serveVersioned r (status c) false 0
                else s.serveVersioned r (status c) false 0
              | .reclaim n => (s.setWindow (w.reclaim n)).serveVersioned r (status 0) false 0
              | _ => s)

/-- A lane's wait of a firing for a version, with the number of its window. -/
def State.noteWait (s : State) (lane n : Nat) : State := { s with focus := s.focus.map fun f => { f with vwait := (lane, n) :: f.vwait } }

/-- A versioned form performed at once in the grid, when its turn comes: the same step at the home, with its registers in the firing's slots. A load that
waited at a window that has been closed since returns CLOSED (07 R199, 10 R272). -/
def State.versionedNow (s : State) (f : Focus) (w : Warp) (r : Req) : State :=
  let who := Who.front r.ctx f
  let a := r.accs.headD { lane := 0, off := 0, size := 8, va := 0 }
  let waited := (f.vwait.find? fun x => x.1 == a.lane).map Prod.snd
  let give (s : State) (ws : List RegWrite) : State := match s.warp? f.core f.slot with
    | some w1 => s.setWarp (w1.applyWrites ws)
    | none => s
  match s.wakingTo who.die r.line with
  | some via => (s.awaitLink none (some r.line) via 125).gridWait (maskOf [a.lane])
  | none =>
    let s := s.stopWait none r.line
    match s.versionedError who r with
    | some k =>
      (give (s.logError who k r.line r.mask) (r.poison r.accs)).gridFail k (r.accs.map fun a => { lane := a.lane, kind := k, va := a.va, page := r.page })
    | none =>
      if waited.any fun n => (s.windowAt r.line).all fun v => v.serial != n then give s [{ lane := a.lane, reg := r.status, val := vClosed }]
      else
        let op := llopOf f w (r.llop.getD 0) f.lanes false []
        let s1 : State :=
          { s with mem := { s.mem with reqs := s.mem.reqs ++ [r] }, fe := { s.fe with llops := { op with pending := 2 } :: s.fe.llops } }
        match execVersionedAccessAtHome r.id s1 with
        | .next s2 =>
          if (s2.req? r.id).isSome then
            match s.windowAt r.line with
            | some v => (s.gridWait (maskOf [a.lane])).noteWait a.lane v.serial
            | none => s.gridWait (maskOf [a.lane])
          else
            let ws := ((s2.llop? (r.llop.getD 0)).map LLOp.writes).getD []
            give { s2 with fe := { s2.fe with llops := s2.fe.llops.filter fun o => some o.id != r.llop } } ws
        | _ => s

/-- The shared operation of the versioned forms: one request for each lane (R222). -/
def versionedForm (o : Operands) (size : Nat) (dests : List Nat) (status : Nat) (hold : Bool) (kind : Word → ReqKind) (need : Need)
    (value : Warp → Nat → DWord) (s : State) : State :=
  withLL o (fun f w act s =>
    let go (s : State) (w : Warp) : State :=
      let xs := (lanesOf act).map fun l => (l, globalAddr (srcA64 w o l) 0 size)
      let acc (l va : Nat) : List Acc :=
        [{ lane := l, off := va % 128, size := size, va := va, reg := o.d.toNat, b := value w l }]
      withPieces s f w act need xs acc fun ps s =>
        let id := s.nonce
        let s1 := { s with nonce := id + 1 }
        let s2 := if f.grid then s1 else s1.beginLL f w (llopOf f w id act o.fsel (dests ++ [status]))
        let one (p : Piece) (s : State) (a : Acc) : State :=
          let n := s.nonce
          let r : Req :=
            { ({ p with accs := [a] } : Piece).req f (s.ctxOf w) n (kind (srcBn s f w o a.lane)) (some id) o.sc with
              mask := byteMask a.off a.size, status := status, wide := is64 o }
          if f.grid then { s with nonce := n + 1 }.versionedNow f w r
          else ({ s with nonce := n + 1 }.updLL id fun x => { x with pending := x.pending + 1 }).send r
        let s3 := ps.foldl (fun s p => p.accs.foldl (one p) s) s2
        if hold && !f.grid then
          match s3.warp? f.core f.slot with
          | some w1 => s3.hold f w1 act fun _ => .op id
          | none => s3
        else s3
    match (if f.grid then [] else s.acquiring f) with
    | i :: t => s.retry f w (.llRegs (i :: t))
    | [] =>
      if need == .write && !hold && size ≠ 0 && dests == [] then
        s.released f w act go
      else go s w) s

/-- ldv (R224): the thread waits until it is answered. -/
def execLdv (o : Operands) (s : State) : Out :=
  .next (versionedForm o (elemSize o) (groupDests o 1) o.c.toNat true ReqKind.ldv .read (fun _ _ => 0) s)
/-- stv (R225): the value in D, the status in C; a release of its scope. -/
def execStv (o : Operands) (s : State) : Out :=
  .next (versionedForm o (elemSize o) [] o.c.toNat false ReqKind.stv .write (fun w l => groupSource w o l 0 (elemSize o)) s)
/-- reclaim (R226): the status in D. -/
def execReclaim (o : Operands) (s : State) : Out :=
  .next (versionedForm o 8 [o.d.toNat] o.d.toNat false ReqKind.reclaim .write (fun _ _ => 0) s)

-- Protocol tables -----------------------------------------------------------------------------------------------------------------------------------

/-- A table of 8,320 bytes as fields (10 R268). -/
def ptableOf (bs : List Byte) : PTable :=
  { nst := fieldAt bs 0 1, init := fieldAt bs 1 1, leasel := fieldAt bs 2 2,
    sdesc := (List.range 64).foldl (fun m i => smSet m i (BitVec.ofNat 8 (fieldAt bs (8 + i) 1))) [],
    entries := (List.range 1024).foldl (fun m i => smSet m i (BitVec.ofNat 64 (fieldAt bs (0x80 + 8 * i) 8))) [] }

/-- States reached from a list in one more transition (10 R270). -/
def PTable.reach (t : PTable) : Nat → List Nat → List Nat
  | 0, l => l
  | n + 1, l =>
    let more := (l.flatMap fun st => (List.range 16).filterMap fun e => if entDef (t.ent st e) then some (entNext (t.ent st e)) else none)
    PTable.reach t n (l ++ more).eraseDups

/-- WRH and HOSTH of a state. -/
def PTable.wrh (t : PTable) (st : Nat) : Nat := (smGet t.sdesc st).toNat % 4
def PTable.hosth (t : PTable) (st : Nat) : Bool := (smGet t.sdesc st).getLsbD 2

/-- The check PT_WRITER of 10 R270: the limit on reachable states is of WRH alone. -/
def PTable.writerBad (t : PTable) : Bool :=
  ((t.reach 64 [t.init]).any fun st => t.wrh st == 2) || t.states.any fun st => (List.range 16).any fun e =>
      let x := t.ent st e
      let acts := entActs x
      entDef x && ((acts.contains 2 && (t.wrh (entNext x) != 1 || (t.wrh st == 1 && !(acts.contains 3 || acts.contains 4 || acts.contains 12))))
        || (e == evHostWr && !t.hosth st && t.hosth (entNext x) && !acts.contains 11))

/-- The checks of 10 R270 on a table's content, in their order: the status, 0 where it passes. -/
def ptableStatus (bs : List Byte) : Nat :=
  let t := ptableOf bs
  let ents := t.entries.map Prod.snd
  let leases := ents.any fun e => (entActs e).contains 7 || (entActs e).contains 8
  let format := fieldAt bs 4 4 ≠ 0 || fieldAt bs 0x48 56 ≠ 0 || t.nst > 63 || t.leasel > 255 || leases != decide (t.leasel ≠ 0)
    || (t.sdesc.any fun d => d.2.extractLsb' 3 5 != 0#5 || d.2.extractLsb' 0 2 == 3#2 || decide (d.1 > t.nst))
    || (ents.any fun e => e.getLsbD 7 || e.extractLsb' 40 24 != 0#24 || (entActs e).contains 15)
    || t.entries.any fun e => decide (e.1 / 16 > t.nst)
  if format then 0x0703
  else if t.init > t.nst || ents.any (fun e => entDef e && decide (entNext e > t.nst)) then 0x0704
  else if t.states.any fun st => (List.range 16).any fun e => !entDef (t.ent st e) then 0x0705
  else if t.writerBad then 0x0706
  else if ents.any fun e => decide ((e.extractLsb' 24 8).toNat > 50) || decide ((e.extractLsb' 32 8).toNat > 125) then 0x0707
  else 0

/-- A rate change or a range change in progress: link.ctl, ptab.load and prange.set are performed one at a time (10 R280, 17 R417). -/
def State.retuning (s : State) : Bool := s.mem.ranging != [] || s.links.links.any fun l => l.waiters != []

/-- A privileged form that reads a descriptor of `n` bytes at each lane's address and answers a status in D (10 R278, R279): a fault is precise. -/
def descForm (o : Operands) (n : Nat) (k : Focus → Warp → Nat → Nat → List Byte → State → Nat × State) (s : State) : State :=
  withLL o (fun f w act s => privileged f w act s (if s.retuning then s.retry f w .turn else forked f w s fun s w =>
    let ctx := s.ctxOf w
    let read (l : Nat) : Except (Nat × Nat) (List Byte) :=
      s.vread (Who.front ctx f) f.core (w.supIn f) .read none (srcA64 w o l).toNat n
    let errs := (lanesOf act).filterMap fun l => match read l with
      | .error (kd, va) => some ({ lane := l, kind := kd, va := va, page := s.pageSize f.core ctx va } : LaneErr)
      | .ok _ => none
    match errs with
    | e :: _ =>
      (errs.foldl (fun s x => s.noteRead (Who.front ctx f) f.core (w.supIn f) .read (x.kind, x.va)) s).trapHere f w act { kind := e.kind, errs := errs }
    | [] =>
      let step (x : State × List RegWrite) (l : Nat) : State × List RegWrite :=
        match read l with
        | .error _ => x
        | .ok bs =>
          let (c, s1) := k f w l (srcA64 w o l).toNat bs x.1
          (s1, x.2 ++ [{ lane := l, reg := o.d.toNat, val := if c = 0 then 0 else excStatus c }])
      let (s1, ws) := (lanesOf act).foldl step (s, [])
      s1.llResult f w act o.fsel [o.d.toNat] ws)) s

/-- The bytes of a digest, most significant first. -/
def digestBytes (d : BitVec 256) : List Byte := (bytesOf 32 d.toNat).reverse

/-- A table loaded into a slot, with measurement 4 (10 R278, 16 R397). -/
def State.loadTable (s : State) (slot : Nat) (bs : List Byte) : State :=
  let m := Config.sha256 (digestBytes ((s.boot.measures[3]?).getD 0) ++ bytesOf 1 slot ++ bs)
  { s with
    mem := { s.mem with tables := upsert (fun t => t.1 == slot) (slot, ptableOf bs) s.mem.tables },
    boot := { s.boot with measures := s.boot.measures.set 3 m } }

/-- ptab.load (10 R278). -/
def execPtabLoad (o : Operands) (s : State) : Out :=
  .next (descForm o 8320 (fun f w l a bs s =>
    let slot := (srcBn s f w o l).toNat
    if a % 128 ≠ 0 then (0x0701, s)
    else if slot < 5 || slot > 15 || s.mem.ranges.any (fun r => r.slot == slot) then (0x0702, s)
    else
      let c := ptableStatus bs
      if c ≠ 0 then (c, s)
      else (0, s.loadTable slot bs)) s)

-- Ranges ---------------------------------------------------------------------------------------------------------------------------------------------

/-- prange.set with the descriptor's own operation (10 R272, R279): each lane in turn. -/
def rangeForm (o : Operands) (s : State) : State :=
  withLL o (fun f w act s => privileged f w act s (if s.retuning then s.retry f w .turn else forked f w s fun s w =>
    let ctx := s.ctxOf w
    let read (l : Nat) : Except (Nat × Nat) (List Byte) :=
      s.vread (Who.front ctx f) f.core (w.supIn f) .read none (srcA64 w o l).toNat 32
    let errs := (lanesOf act).filterMap fun l => match read l with
      | .error (kd, va) => some ({ lane := l, kind := kd, va := va, page := s.pageSize f.core ctx va } : LaneErr)
      | .ok _ => none
    match errs with
    | e :: _ =>
      (errs.foldl (fun s x => s.noteRead (Who.front ctx f) f.core (w.supIn f) .read (x.kind, x.va)) s).trapHere f w act { kind := e.kind, errs := errs }
    | [] =>
      let id := s.nonce
      let jobs := (lanesOf act).filterMap fun l => match read l with
        | .error _ => none
        | .ok bs => some ({ at_ := (srcA64 w o l).toNat, bs := bs, llop := id, lane := l, reg := o.d.toNat } : RangeJob)
      let s1 := { s with nonce := id + 1 }.beginLL f w { llopOf f w id act o.fsel [o.d.toNat] with pending := jobs.length }
      ({ s1 with mem := { s1.mem with ranging := s1.mem.ranging ++ jobs } }).settleRanges)) s

/-- PRANGE_SET (10 R272): the word prange.set; its descriptor may ask for a clear. -/
def execPrangeSet (o : Operands) (s : State) : Out := .next (rangeForm o s)
/-- PRANGE_CLEAR (10 R272): the same word with OPC 01. -/
def execPrangeClear (o : Operands) (s : State) : Out := .next (rangeForm o s)

end Sys2Proof.Machine
end

