-- ==== Sys2Proof/Machine/Links.lean ====
section
/-!
DEFINITION. Machine/Links.lean: links, their counters, retry, degradation and lane retirement, and link.ctl (01 R11 to R13, 17 R413 to R417).
-/
namespace Sys2Proof.Machine

/-- The largest value of a counter (17 R413). -/
def counterMax : Nat := 0x7FFFFFFF
/-- A counter raised, saturating. -/
def bump (n k : Nat) : Nat := min counterMax (n + k)

/-- UCIe modules of a link (01 R11). -/
def linkModules (link : Nat) : Nat := linkLanes link / 64
/-- Retired lanes of a module of a link. -/
def Link.retiredIn (l : Link) (m : Nat) : Nat := (l.retired.filter fun x => x / 64 == m).length

/-- Bits of a retirement word: bit i is set if lane 32 h + i of module m is retired (17 R413). -/
def Link.retmap (l : Link) (m h : Nat) : Nat :=
  (List.range 32).foldl (fun n i => if l.retired.contains (64 * m + 32 * h + i) then n + 2 ^ i else n) 0

/-- The counter of an index (17 R413); none for an unlisted index. -/
def State.linkCounter (s : State) (die : Nat) (l : Link) (n : Nat) : Option Nat :=
  match n with
  | 0x00 => some ((if l.up then 1 else 0) + (if l.waking then 2 else 0) + (if l.lost then 4 else 0) + (if l.rate > 32 then 8 else 0))
  | 0x01 => some 32
  | 0x02 => some l.rate
  | 0x03 => some (linkLanes l.link - l.retired.length)
  | 0x04 => some l.crc
  | 0x05 => some l.replay
  | 0x06 => some l.rth
  | 0x07 => some l.lastev
  | 0x08 => some (l.laststamp.toNat % 2 ^ 32)
  | 0x09 => some (l.laststamp.toNat / 2 ^ 32)
  | 0x0A => some l.retired.length
  | 0x10 => some (if l.link < 4 then l.ce else 0)
  | 0x11 => some (if l.link < 4 then l.ue else 0)
  | 0x12 => some (smGet s.links.sce die).toNat
  | 0x13 => some (smGet s.links.sue die).toNat
  | _ => if 0x40 ≤ n ∧ n ≤ 0x7F then some (l.retmap ((n - 0x40) / 2) (n % 2)) else none

-- Retraining (17 R414) ------------------------------------------------------------------------------------------------------------------------------

/-- Both ends of a link retrain at a step, within 2 µs; the link counts as waking meanwhile. -/
def State.retrain (s : State) (die link step : Nat) : State :=
  let s1 := s.mapLink die link fun l => { l with up := false, waking := true, target := some step, attempt := l.attempt + 1 }
  s1.within 4000 (.linkRetrainComplete die link)

/-- The first flit that its receiver has not delivered is replayed, if any was sent (17 R415). -/
def State.replayNext (s : State) (die link : Nat) : State :=
  match s.link? die link with
  | none => s
  | some l =>
    if l.expect < l.seen then
      { s with nonce := s.nonce + 1 }.later (.flitReceive die link l.expect (Config.flitIntact s.nonce) (Config.latency s.nonce % linkLanes link))
    else s

/-- LINK_RETRAIN_COMPLETE (17 R414, R417): the link is up at the step trained for, or at its previous rate where training fails; link.ctl.rate
instructions that waited for it complete, and unacknowledged flits are replayed. -/
def execLinkRetrainComplete (die link : Nat) (s : State) : Out :=
  .next (match s.link? die link with
    | none => s
    | some l =>
      match l.target with
      | none => s
      | some step =>
        let ok := l.waiters = [] || Config.trains die link step l.attempt
        let s1 := s.mapLink die link fun x =>
          { x with rate := if ok then step else x.rate, up := !x.lost, waking := false, target := none, waiters := [] }
        let done (s : State) (n : Nat) : State :=
          (s.updLL n fun x =>
            { x with
              pending := x.pending - 1,
              writes := x.writes.map fun y => { y with val := if l.lost then excStatus 0x0812 else if ok then 0 else excStatus 0x0813 } }).finishLL n
        let s2 := l.waiters.foldl done s1
        match farEnd die link with
        | some (d, k) => (s2.replayNext die link).replayNext d k
        | none => s2.replayNext die link)

-- Flits (17 R415, R416) --------------------------------------------------------------------------------------------------------------------------------

/-- The close of the 10 µs window that a die's Calends stands in. -/
def State.dueWindow (s : State) (die link : Nat) : State :=
  match s.link? die link with
  | none => s
  | some l =>
    if l.winDue then s
    else
      let on (x : Link) : Link := if x.die == die && x.link == link then { x with winDue := true } else x
      ({ s with links := { s.links with links := s.links.links.map on } }).after (2 * (10000 - s.cal die % 10000)) (.linkWindowEnd die link)

/-- A flit at the receiver: a flit that fails its CRC is dropped with every later one until its replay arrives, and so is one already delivered. -/
def Link.receive (l : Link) (seq : Nat) (ok : Bool) (lane : Nat) : Link :=
  let l1 := if seq < l.seen then { l with replay := bump l.replay 1, winReplay := l.winReplay + 1 } else l
  let l2 := { l1 with seen := max l1.seen (seq + 1) }
  if !ok then
    let n := ((l2.laneErrs.find? fun x => x.1 == lane).map Prod.snd).getD 0
    { l2 with crc := bump l2.crc 1, dropping := true, laneErrs := upsert (fun x => x.1 == lane) (lane, n + 1) l2.laneErrs }
  else if seq = l2.expect then { l2 with expect := seq + 1, dropping := false, delivered := l2.delivered ++ [seq] }
  else l2

/-- FLIT_RECEIVE (17 R415): on a link that is up. The transmitter replays from the first unacknowledged flit. -/
def execFlitReceive (die link seq : Nat) (crcOk : Bool) (lane : Nat) (s : State) : Out :=
  .next (match s.link? die link with
    | none => s
    | some l =>
      if l.lost || l.waking then s
      else
        let l1 := l.receive seq crcOk lane
        let on (x : Link) : Link := if x.die == die && x.link == link then l1 else x
        let s1 := { s with links := { s.links with links := s.links.links.map on } }
        let s2 := if l1.winReplay = 0 && l1.laneErrs.isEmpty then s1 else s1.dueWindow die link
        if (!crcOk && !l.dropping) || (!crcOk && seq = l.expect) || l1.delivered.length ≠ l.delivered.length then s2.replayNext die link else s2)

/-- The lanes in use after one is retired: a module left with fewer than 56 is retired whole (17 R416). -/
def Link.retireLane (l : Link) (lane : Nat) : Link × Bool :=
  if l.retired.contains lane then (l, false)
  else
    let l1 := { l with retired := l.retired ++ [lane] }
    let m := lane / 64
    if l1.retiredIn m ≤ 8 then (l1, false)
    else ({ l1 with retired := l1.retired.filter (fun x => x / 64 != m) ++ (List.range 64).map fun i => 64 * m + i }, true)

/-- A lane of a link retired at both ends; a module lost raises LANE_RETIRED, and the last of them loses the far die (17 R416). -/
def State.retire (s : State) (die link lane : Nat) : State :=
  match s.link? die link with
  | none => s
  | some l =>
    let (l1, whole) := l.retireLane lane
    let s1 := s.mapLink die link fun x => { x with retired := l1.retired }
    let s2 := if whole then s1.moduleEvent die link evLaneRetired else s1
    let far := farDie die link
    if s2.severed far && !s2.links.lost.contains far then s2.loseDie far else s2

/-- The next lower step of the ladder, never below 24 (17 R414, R416). -/
def stepDown (rate : Nat) : Nat := ((Config.ladder.filter (· < rate)).getLast?).getD 24

/-- LINK_WINDOW_END (17 R416): lanes implicated in 64 CRC errors are retired, and the link steps down one rung if one was, or if more flits were
replayed than its threshold. -/
def execLinkWindowEnd (die link : Nat) (s : State) : Out :=
  .next (match s.link? die link with
    | none => s
    | some l =>
      let bad := (l.laneErrs.filter fun x => decide (64 ≤ x.2)).map Prod.fst
      let on (x : Link) : Link := if x.die == die && x.link == link then { x with winReplay := 0, laneErrs := [], winDue := false } else x
      let s1 := { s with links := { s.links with links := s.links.links.map on } }
      let s2 := bad.foldl (fun s n => s.retire die link n) s1
      if l.lost || (bad = [] && l.winReplay ≤ l.rth) then s2
      else
        let low := stepDown l.rate
        let s3 := s2.moduleEvent die link evLinkDegraded
        let s4 := s3.mapLink die link fun x => { x with rate := low }
        if low = l.rate || ((s4.link? die link).map Link.lost).getD true then s4
        else if l.waking then s4.mapLink die link fun x => { x with target := x.target.map fun t => if t = low then t else stepDown t }
        else s4.retrain die link low)

-- link.ctl (17 R417) -----------------------------------------------------------------------------------------------------------------------------------------

/-- The shared operation of link.ctl: context 0 only, one effect for the instruction, the answer in every lane. `act` is given the link and b, and
answers the value of d, or none where it comes later, for the instruction of the given number. -/
def linkForm (o : Operands) (reads : Bool) (act_ : Nat → Link → Word → Nat → State → Option Word × State) (s : State) : State :=
  withLL o (fun f w act s => privileged f w act s (
    if s.ctxOf w ≠ 0 then s.trapHere f w act { kind := kPrivilege }
    else if s.retuning then s.retry f w .turn
    else
      let die := dieOf f.core
      let b := srcBn s f w o (ctzV act)
      let id := s.nonce
      let ans : Option Word × State :=
        match s.link? die o.c.toNat with
        | none => (some (excStatus 0x0811), s)
        | some l => if l.lost && !reads then (some (excStatus 0x0812), s) else act_ die l b id { s with nonce := id + 1 }
      let ws (v : Word) : List RegWrite := (lanesOf act).map fun n => { lane := n, reg := o.d.toNat, val := v }
      match ans with
      | (some v, s1) => s1.llResult f w act o.fsel [o.d.toNat] (ws v)
      | (none, s1) => s1.beginLL f w { llopOf f w id act o.fsel [o.d.toNat] with writes := ws 0, pending := 1 })) s

/-- link.ctl.rd. -/
def execLinkCtlRd (o : Operands) (s : State) : Out :=
  .next (linkForm o true (fun die l b _ s => (some (match s.linkCounter die l b.toNat with
    | some v => BitVec.ofNat 32 v
    | none => excStatus 0x0811), s)) s)

/-- link.ctl.rate: both ends retrain at the step, and the instruction completes with the training. -/
def execLinkCtlRate (o : Operands) (s : State) : Out :=
  .next (linkForm o false (fun die l b id s =>
    let step := (b.extractLsb' 0 8).toNat
    let rth := (b.extractLsb' 8 16).toNat
    if b.extractLsb' 24 8 ≠ 0 || !Config.ladder.contains step then (some (excStatus 0x0811), s)
    else
      let on (x : Link) : Link := if x.die == die && x.link == l.link then { x with rth := if rth = 0 then x.rth else rth, waiters := [id] } else x
      (none, ({ s with links := { s.links with links := s.links.links.map on } }).retrain die l.link step)) s)

/-- link.ctl.retire. -/
def execLinkCtlRetire (o : Operands) (s : State) : Out :=
  .next (linkForm o false (fun die l b _ s =>
    if b.toNat ≥ linkLanes l.link then (some (excStatus 0x0811), s) else (some 0, s.retire die l.link b.toNat)) s)

/-- link.ctl.clr. -/
def execLinkCtlClr (o : Operands) (s : State) : Out :=
  .next (linkForm o false (fun die l b _ s =>
    if b.extractLsb' 1 31 ≠ 0 then (some (excStatus 0x0811), s)
    else
      let all := b.getLsbD 0
      let on (x : Link) : Link :=
        if x.die == die && x.link == l.link then { x with crc := 0, replay := 0, ce := if all then 0 else x.ce, ue := if all then 0 else x.ue } else x
      let s1 := { s with links := { s.links with links := s.links.links.map on } }
      (some 0, if all then { s1 with links := { s1.links with sce := smSet s1.links.sce die 0, sue := smSet s1.links.sue die 0 } } else s1)) s)

end Sys2Proof.Machine
end

