-- ==== Sys2Proof/Machine/CrossLane.lean ====
section
/-!
DEFINITION. Machine/CrossLane.lean: the cross-lane forms, group 0x5 (14 R339 to R345).
-/
namespace Sys2Proof.Machine

/-- Source lane of xlane (R340). -/
def xlaneSrc (op : XlaneOp) (c l n : Nat) : Nat :=
  let w := 2 ^ c
  let base := l - l % w
  let i := l % w
  match op with
  | .sel => base + n % w
  | .rot => base + (i + n) % w
  | .xor => base + (i ^^^ (n % w))
  | .mir => base + ((n + w - i) % w)

/-- xlane (R340): a lane whose source does not take part receives its own value. -/
def execXlane (op : XlaneOp) (o : Operands) (s : State) : Out :=
  .next (withSources o (fun f w act s =>
    s.setWarp (w.setReg act o.d.toNat fun l =>
      let src := xlaneSrc op o.c.toNat l (srcBn s f w o l).toNat
      if act.getLsbD src then srcA32 f w o src else srcA32 f w o l)) s)

/-- vote (R341): the same answer in every active lane. -/
def voteResult (op : VoteOp) (vs : List Bool) : Bool :=
  match op with
  | .all => vs.all id
  | .any => vs.any id
  | .eq => vs.all id || vs.all (!·)
/-- vote (R341). -/
def execVote (op : VoteOp) (o : Operands) (s : State) : Out :=
  .next (withSources o (fun _ w act s =>
    let r := voteResult op ((lanesOf act).map fun l => w.pred l o.a.toNat)
    s.setWarp (w.setPred act o.d.toNat fun _ => r)) s)
/-- vote.ballot (R341). -/
def execVoteBallot (o : Operands) (s : State) : Out :=
  .next (withSources o (fun _ w act s =>
    let m := maskOf ((lanesOf act).filter fun l => w.pred l o.a.toNat)
    s.setWarp (w.setReg act o.d.toNat fun _ => m)) s)

/-- match (R342). -/
def execMatch (op : MatchOp) (o : Operands) (s : State) : Out :=
  .next (withSources o (fun f w act s =>
    let a (l : Nat) : DWord := if is64 o then srcA64 w o l else (srcA32 f w o l).setWidth 64
    let same (l : Nat) : LaneMask := maskOf ((lanesOf act).filter fun i => a i == a l)
    s.setWarp (w.setReg act o.d.toNat fun l =>
      match op with
      | .any => same l
      | .all => if same l = act then act else 0)) s)

/-- The combination of a list of values by an operation; the first value starts it. -/
def foldFirst {α : Type} (g : α → α → α) : List α → Option α
  | [] => none
  | x :: t => some (t.foldl g x)

/-- redux (R343). -/
def execRedux (op : ReduxOp) (o : Operands) (s : State) : Out :=
  .next (withSources o (fun f w act s =>
    let r := (foldFirst (reduxPair op o.ty.signed) ((lanesOf act).map (srcA32 f w o))).getD 0
    s.setWarp (w.setReg act o.d.toNat fun _ => r)) s)

/-- The smaller or larger non-NaN value of two encodings; NaN only where both are (R344). -/
def fminmaxPair (isMax : Bool) (a b : Word) : Word := BitVec.ofNat 32 (fmt32.minmax isMax a.toNat b.toNat)

/-- fredux (R344, 04 R104): the fixed tree with -0 for absent lanes, or the least or greatest non-NaN value. -/
def execFredux (op : FreduxOp) (o : Operands) (s : State) : Out :=
  .next (withSources o (fun f w act s =>
    let r : Word := match op with
      | .add => BitVec.ofNat 32 (treeSum 5 ((List.range 32).map fun l => if act.getLsbD l then (srcA32 f w o l).toNat else 0x80000000))
      | .min => (foldFirst (fminmaxPair false) ((lanesOf act).map fun l => fminmaxPair false (srcA32 f w o l) (srcA32 f w o l))).getD 0
      | .max => (foldFirst (fminmaxPair true) ((lanesOf act).map fun l => fminmaxPair true (srcA32 f w o l) (srcA32 f w o l))).getD 0
    s.setWarp (w.setReg act o.d.toNat fun _ => r)) s)

/-- The running operation of scan (R345). -/
def scanPair (op : ScanOp) (ty : Ty) (a b : Word) : Word :=
  match op with
  | .add | .xadd => if ty == .f32 then BitVec.ofNat 32 (fmt32.add .rn a.toNat b.toNat) else a + b
  | .min => if ty == .f32 then fminmaxPair false a b else iminmax ty.signed false a b
  | .max => if ty == .f32 then fminmaxPair true a b else iminmax ty.signed true a b

/-- The results of scan over the participating lanes in ascending order (R345). The first lane's value goes on as it is, a NaN too: R345 gives it by an
assignment, and the model counts no such copy as an arithmetic result that R90 makes canonical (log entry 38, DESIGN CHOICE). -/
def scanList (op : ScanOp) (ty : Ty) : Option Word → List (Nat × Word) → List (Nat × Word)
  | _, [] => []
  | acc, (l, x) :: t =>
    let ident : Word := if ty == .f32 then 0x80000000 else 0
    let acc' : Word := match acc with
      | none => x
      | some a => scanPair op ty a x
    let d : Word := if op == .xadd then acc.getD ident else acc'
    (l, d) :: scanList op ty (some acc') t

/-- scan (R345). -/
def execScan (op : ScanOp) (o : Operands) (s : State) : Out :=
  .next (withSources o (fun f w act s =>
    let r := scanList op o.ty none ((lanesOf act).map fun l => (l, srcA32 f w o l))
    s.setWarp (w.setReg act o.d.toNat fun l => ((r.find? fun p => p.1 == l).map Prod.snd).getD 0)) s)

end Sys2Proof.Machine
end

