-- ==== Sys2Proof/Machine/Dreyf.lean ====
section
/-!
DEFINITION. Machine/Dreyf.lean: dreyf, the translator of RKL kernels (15 R371 to R376), with the forming of clauses (03 R83), and what udiv and urem
compute.
-/
namespace Sys2Proof.Machine

-- Operands renamed -------------------------------------------------------------------------------------------------------------------------------

/-- An instruction with other operands. -/
def withOps (i : Instr) (o : Operands) : Instr :=
  match i.opcode with
  | some (op, fn) => match mkInstr op fn with
    | some mk => mk o
    | none => i
  | none => i

/-- One field of a record of operands renamed. -/
def setField (o : Operands) (field r : Nat) : Operands :=
  match field with
  | 0 => { o with a := BitVec.ofNat 8 r }
  | 1 => { o with b := .reg (BitVec.ofNat 8 r) }
  | 2 => { o with c := BitVec.ofNat 8 r }
  | _ => { o with d := BitVec.ofNat 8 r }

-- Native items ----------------------------------------------------------------------------------------------------------------------------------

/-- A native instruction with the labels that stand at it and the label it branches to. -/
structure NIns where
  i : Instr
  at_ : List Nat := []
  goesTo : Option Nat := none
  deriving DecidableEq, Repr

/-- Operands of an unguarded instruction on registers. -/
def natOps (d a : Nat) (b : BOp) (c : Nat) (ty : Ty) : Operands :=
  { guard := ⟨false, 7⟩, d := BitVec.ofNat 8 d, a := BitVec.ofNat 8 a, b := b, c := BitVec.ofNat 8 c, ty := ty, fs := 0, sc := .thr, mod := 0,
    qa := false, fsel := false }

/-- stp.b32 at an offset from the zero in v(b-1). -/
def natStp (g : Guard) (r z off : Nat) : NIns := { i := .stp .one { natOps r z (.imm (BitVec.ofNat 8 off)) 0 .n32 with guard := g } }
/-- pt, the guard that is always true. -/
def noGuard : Guard := ⟨false, 7⟩
def natZero (r : Nat) : NIns := { i := .isub (natOps r r (.reg (BitVec.ofNat 8 r)) 0 .n32) }
/-- A constant added to a register, in parts of at most 255. -/
def natAdd (r src : Nat) : Nat → Nat → List NIns
  | 0, _ => []
  | fuel + 1, n =>
    let c := min n 255
    { i := .iadd (natOps r src (.imm (BitVec.ofNat 8 c)) 0 .n32) } :: (if n ≤ 255 then [] else natAdd r r fuel (n - c))

/-- A spilled register loaded, and a register stored to its slot; a slot past what an imm8 reaches has its offset formed first, for a store in a register
`c`. -/
def loadSlot (g : Guard) (r z off : Nat) : List NIns :=
  let at_ (a n : Nat) : NIns := { i := .ldp .one { natOps r a (.imm (BitVec.ofNat 8 n)) 0 .n32 with guard := g } }
  if off ≤ 255 then [at_ z off] else natZero r :: natAdd r r 8 off ++ [at_ r 0]
def saveSlot (g : Guard) (r z c off : Nat) : List NIns :=
  if off ≤ 255 then [natStp g r z off] else natZero c :: natAdd c c 8 off ++ [natStp g r c 0]

/-- dreyf's view of a kernel: its budget, its first spilled register, its spill area. -/
structure DreyfEnv where
  b : Nat
  spill : Nat
  deriving DecidableEq, Repr

def DreyfEnv.h (e : DreyfEnv) : Nat := e.b - 4
def DreyfEnv.z (e : DreyfEnv) : Nat := e.b - 1
def DreyfEnv.slot (e : DreyfEnv) (r : Nat) : Nat := 4 * (r - e.h)

/-- Statuses of a failed translation (R373). -/
def vxForm : Nat := 0x0B01
def vxPred : Nat := 0x0B02
def vxSpill : Nat := 0x0B03
def vxPriv : Nat := 0x0B04
def vxArea : Nat := 0x0B05

/-- Spilled sources loaded into scratch registers in turn (R374): the loads, and the operands renamed. -/
def loadSources (e : DreyfEnv) : List RegUse → List Nat → Operands → Option (List NIns × Operands × List Nat)
  | [], free, o => some ([], o, free)
  | u :: t, free, o =>
    if u.reads && u.first ≥ e.h then
      match free with
      | [] => none
      | r :: rest => match loadSources e t rest (setField o u.field r) with
        | some (ls, o', f) => some (loadSlot noGuard r e.z (e.slot u.first) ++ ls, o', f)
        | none => none
    else loadSources e t free o

/-- Spilled destinations given scratch registers (R374): from v(b-2) in turn. A destination that the form may leave as it is, or whose store the
instruction's own result could guard, gets its old value first, in a register that no source holds. -/
def placeDests (e : DreyfEnv) (keep : Bool) : List RegUse → List Nat → List Nat → Operands → Option (List NIns × Operands × List (Nat × Nat))
  | [], _, _, o => some ([], o, [])
  | u :: t, order, free, o =>
    if u.writes && u.first ≥ e.h then
      if u.reads then
        let r := match u.field with
          | 0 => o.a.toNat
          | 1 => o.b.field.toNat
          | 2 => o.c.toNat
          | _ => o.d.toNat
        match placeDests e keep t order free o with
        | some (ls, o', ps) => some (ls, o', (r, e.slot u.first) :: ps)
        | none => none
      else match (if keep then free else order) with
        | [] => none
        | r :: _ =>
          match placeDests e keep t (order.filter (· != r)) (free.filter (· != r)) (setField o u.field r) with
          | some (ls, o', ps) => some ((if keep then loadSlot noGuard r e.z (e.slot u.first) else []) ++ ls, o', (r, e.slot u.first) :: ps)
          | none => none
    else placeDests e keep t order free o

/-- An RKL private access moved above the spill area (R374): its offset + S as an imm8, or formed in v(b-3). -/
def movePrivate (e : DreyfEnv) (o : Operands) : List NIns × Operands :=
  let c := e.b - 3
  match o.b with
  | .imm v =>
    if v.toNat + e.spill ≤ 255 then ([], { o with b := .imm (BitVec.ofNat 8 (v.toNat + e.spill)) })
    else (natZero c :: natAdd c c 8 (v.toNat + e.spill), { o with b := .reg (BitVec.ofNat 8 c) })
  | .reg r => (natAdd c r.toNat 8 e.spill, { o with b := .reg (BitVec.ofNat 8 c) })
  | .k n =>
    (natZero c :: natAdd c c 8 e.spill ++ [{ i := .iadd (natOps c c (.k n) 0 .n32) }], { o with b := .reg (BitVec.ofNat 8 c) })
  | .const _ => ([], o)

/-- p2v shows p5 and p6, which are dreyf's and no part of RKL state (R374, R376): its result takes zeros there (log entry 18, DESIGN CHOICE). -/
def hidePreds (i : Instr) (o : Operands) : List NIns :=
  match i with
  | .p2v _ => [{ i := .andB { natOps o.d.toNat o.d.toNat (.imm 0x1F) 0 .n32 with guard := o.guard } }]
  | _ => []

/-- One RKL instruction other than udiv and urem in native code (R374). A loop whose counter is spilled stores the counter that it will leave before it
branches (log entry 18, DESIGN CHOICE). -/
def emitOne (e : DreyfEnv) (k : Nat) (i : Instr) : Except Nat (List NIns) :=
  match i.operands, i.form, i.opcode with
  | some o, some f, some (op, _) =>
    let uses := regUses i
    let bad := uses.any fun u => u.first + u.count > e.h && u.count > 1
    let priv := (op == 0x64 || op == 0x65) && decide (0 < e.spill)
    let away (field : Nat) : Bool := uses.any fun u => u.field == field && decide (e.h ≤ u.first)
    let forms := priv && !(away 0 && away 1) && match o.b with
      | .imm v => decide (255 < v.toNat + e.spill)
      | _ => true
    let scratch := if forms then [e.b - 2, e.b - 4] else [e.b - 2, e.b - 3, e.b - 4]
    let gset := (predWrites i).contains o.guard.p.val
    if bad then .error vxSpill
    else match loadSources e uses scratch o with
      | none => .error vxSpill
      | some (ls, o1, free) =>
        match placeDests e (op == 0x74 || gset) uses scratch free o1 with
        | none => .error vxSpill
        | some (ld, o2, stores) =>
          let (pre, o3) : List NIns × Operands := if priv then movePrivate e o2 else ([], o2)
          let target : Option Nat := if op == 0xA0 || op == 0xA2 || op == 0xA5 then
              (match i, o.b with
                | .jcallInd _, _ => none
                | _, .imm v => some ((k : Int) + v.toInt).toNat
                | _, _ => none) else none
          let here : NIns := { i := withOps i o3, goesTo := target }
          match (if f.transfer then stores else []) with
          | (r, off) :: _ =>
            let q := e.b - 3
            .ok (ls ++ { i := .isub { natOps q r (.imm 1) 0 .n32 with guard := o.guard } } :: saveSlot o.guard q e.z (e.b - 4) off ++ [here])
          | [] =>
            let post := stores.flatMap fun p => saveSlot (if gset then noGuard else o.guard) p.1 e.z (if p.1 = e.b - 3 then e.b - 4 else e.b - 3) p.2
            .ok (ls ++ ld ++ pre ++ [here] ++ hidePreds i o3 ++ post)
  | _, _, _ => .error vxForm

/-- The label of the loop in the expansion of word k. -/
def divLabel (k : Nat) : Nat := 2 ^ 20 + k

/-- udiv and urem expanded (R375). -/
def emitDiv (e : DreyfEnv) (k : Nat) (o : Operands) (rem : Bool) : List NIns :=
  let q := e.b - 2
  let m := e.b - 4
  let c := e.b - 3
  let z := e.z
  let one : BOp := .imm 1
  let first : List NIns :=
    if o.qa || o.a.toNat < e.h then [{ i := .mov { natOps q 0 (.reg 0) 0 .n32 with a := o.a, qa := o.qa, guard := o.guard } }]
    else loadSlot o.guard q z (e.slot o.a.toNat)
  let spilledB : Option Nat := match o.b with
    | .reg r => if r.toNat ≥ e.h then some (e.slot r.toNat) else none
    | _ => none
  let dv : BOp := if spilledB.isSome then .reg (BitVec.ofNat 8 z) else o.b
  let res := if rem then m else q
  let p5 : Guard := ⟨false, 5⟩
  first
    ++ (match spilledB with
        | some off => loadSlot noGuard z z off
        | none => [])
    ++ [natZero m, natZero c, { i := .iadd (natOps c c (.imm 32) 0 .n32) },
        { i := .psetp .xor (natOps 6 7 (.reg 7) 0 .s8), at_ := [divLabel k] },
        { i := .iaddc (natOps q q (.reg (BitVec.ofNat 8 q)) 6 .n32) },
        { i := .iaddc (natOps m m (.reg (BitVec.ofNat 8 m)) 6 .n32) },
        { i := .icmp .ge (natOps 5 m dv 0 .n32) },
        { i := .psetp .or (natOps 5 5 (.reg 6) 0 .s8) },
        { i := .isub { natOps m m dv 0 .n32 with guard := p5 } },
        { i := .iadd { natOps q q one 0 .n32 with guard := p5 } },
        { i := .loop (natOps c 0 (.imm 0) 0 .n32), goesTo := some (divLabel k) }]
    ++ (if spilledB.isSome then [natZero z] else [])
    ++ (if o.d.toNat < e.h then [{ i := .mov { natOps 0 res (.reg 0) 0 .n32 with d := o.d, guard := o.guard } }]
        else saveSlot o.guard res z c (e.slot o.d.toNat))

-- Clauses (03 R83) ---------------------------------------------------------------------------------------------------------------------------------

/-- A clause being formed: the offset of its header in the code, and its instructions. -/
structure NClause where
  off : Nat
  ins : List NIns
  deriving DecidableEq, Repr

def NClause.ended (c : NClause) : Bool := (c.ins.getLast?).any fun x => x.i.isTransfer
/-- The offset after a clause. -/
def NClause.stop (c : NClause) : Nat := c.off + 8 * (c.ins.length + 1)
def natNop : NIns := { i := .nop (natOps 0 0 (.reg 0) 0 .s8) }

/-- Rule 5: a clause that ends at offset 56 of a block takes a nop, before its control transfer. -/
def NClause.fill (c : NClause) : NClause :=
  if c.stop % 64 = 56 then
    { c with ins := if c.ended then c.ins.dropLast ++ [natNop] ++ c.ins.drop (c.ins.length - 1) else c.ins ++ [natNop] }
  else c

/-- Instructions gathered into clauses by rules 1, 2 and 5, the last clause first. -/
def formClauses : List NIns → List NClause → List NClause
  | [], cs => cs
  | x :: t, [] => formClauses t [{ off := 0, ins := [x] }]
  | x :: t, c :: cs =>
    if x.at_ != [] || c.ended || c.ins.length ≥ 7 || c.off % 64 + 8 * (c.ins.length + 2) > 64 then
      formClauses t ({ off := c.fill.stop, ins := [x] } :: c.fill :: cs)
    else formClauses t ({ c with ins := c.ins ++ [x] } :: cs)

/-- The clause of the first instruction after position `n` that reads a register of a list; instructions stand beside their clauses. -/
def firstReader (rs : List Nat) : List (Nat × Instr) → Option Nat
  | [] => none
  | (c, i) :: t => if (readRegs i).any rs.contains then some c else firstReader rs t

/-- Flags that a flag.wait names (14 R363). -/
def flagsNamed : Instr → List Nat
  | .flagWait o => (List.range 12).filter fun n => (o.c.extractLsb' 0 4 ++ o.b.field).getLsbD n
  | _ => []

/-- Flags of rule 3, in text order, in rotation over those left: FX of each clause, and the flags each clause waits for; the next place of the
rotation. -/
def giveFlags (left : List Nat) : List (Nat × Instr) → List (Nat × Nat) × List (Nat × Nat) × Nat → List (Nat × Nat) × List (Nat × Nat) × Nat
  | [], x => x
  | (c, i) :: t, (fx, waits, rot) =>
    match (if i.isLL && writeRegs i != [] then firstReader (writeRegs i) t else none) with
    | none => giveFlags left t (fx, waits, rot)
    | some r =>
      if r = c then giveFlags left t (fx, waits, rot)
      else match fx.find? fun p => p.1 == c with
        | some (_, f) => giveFlags left t (fx, (r, f) :: waits, rot)
        | none => match left[rot % left.length]? with
          | some n => giveFlags left t ((c, n) :: fx, (r, n) :: waits, rot + 1)
          | none => giveFlags left t (fx, waits, rot)

/-- The words of formed clauses; none where a displacement does not fit an imm8 (03 R84: no k register is dreyf's to fill; log entry 18, DESIGN CHOICE). -/
def codeWords (cs : List NClause) : Option (List DWord) :=
  let flat := cs.zipIdx.flatMap fun c => c.1.ins.map fun x => (c.2, x.i)
  let named := flat.flatMap fun x => flagsNamed x.2
  let (fx, waits, _) := giveFlags ((List.range 12).filter fun n => !named.contains n) flat ([], [], 0)
  let place (l : Nat) : Option Nat := (cs.find? fun c => c.ins.any fun x => x.at_.contains l).map NClause.off
  let word (c : NClause) (x : NIns) : Option DWord :=
    match x.goesTo with
    | none => encode x.i
    | some l => match place l, x.i.operands with
      | some a, some o =>
        let d : Int := ((a : Int) - (c.off : Int)) / 8
        if d < -128 || d > 127 then none else encode (withOps x.i { o with b := .imm (BitVec.ofInt 8 d) })
      | _, _ => none
  let header (n : Nat) (c : NClause) : DWord :=
    encodeHeader
      { wait := (waits.filter fun p => p.1 == n).foldl (fun m p => m ||| ((1#12) <<< p.2)) 0,
        fx := match fx.find? fun p => p.1 == n with
          | some (_, f) => BitVec.ofNat 4 f
          | none => 15,
        fy := 15, cnt := BitVec.ofNat 3 c.ins.length, yld := false, lmid := 0 }
  let ws := cs.zipIdx.flatMap fun c => some (header c.2 c.1) :: c.1.ins.map (word c.1)
  if ws.any Option.isNone then none else some (ws.filterMap id)

-- Translation ----------------------------------------------------------------------------------------------------------------------------------------

/-- A word that RKL accepts (R372): its instruction. -/
def rklInstr (n k : Nat) (w : DWord) : Option Instr :=
  match decodeWord { user := true, rkl := true } w with
  | .error _ => none
  | .ok i =>
    let branch := match i with
      | .bra _ | .jcall _ | .loop _ => true
      | _ => false
    let inside := match i.operands with
      | some o => (match o.b with
          | .imm v => decide (0 ≤ (k : Int) + v.toInt ∧ (k : Int) + v.toInt < (n : Int))
          | _ => false)
      | none => false
    match i with
    | .castle _ => none
    | .srd o => if o.a = 0x0B then none else some i
    | _ => if branch && !inside then none else some i

/-- The spill area of a kernel (R374): four bytes for each register from h up to the highest that it names. -/
def spillArea (e : DreyfEnv) (is : List Instr) : Nat :=
  let top := (is.flatMap regUses).foldl (fun m u => max m (u.first + u.count)) 0
  (4 * (top - e.h) + 15) / 16 * 16
/-- The spilled registers that a kernel names, in ascending order. -/
def spilled (e : DreyfEnv) (is : List Instr) : List Nat :=
  (List.range 256).filter fun r => decide (e.h ≤ r) && (is.flatMap regUses).any fun u => decide (u.first ≤ r ∧ r < u.first + u.count)

/-- Native code for a kernel's instructions. -/
def emitAll (e : DreyfEnv) : List (Instr × Nat) → Except Nat (List NIns)
  | [] => .ok []
  | (i, k) :: t =>
    let one : Except Nat (List NIns) := match i with
      | .udiv o => .ok (emitDiv e k o false)
      | .urem o => .ok (emitDiv e k o true)
      | _ => emitOne e k i
    match one, emitAll e t with
    | .ok (x :: xs), .ok r => .ok ({ x with at_ := k :: x.at_ } :: xs ++ r)
    | .ok [], .ok r => .ok r
    | .error c, _ => .error c
    | _, .error c => .error c

/-- Labels that no branch names are taken away. -/
def keepLabels (xs : List NIns) : List NIns :=
  let used := xs.filterMap NIns.goesTo
  xs.map fun x => { x with at_ := x.at_.filter used.contains }

/-- dreyf's translation of a kernel's words for a budget (R372 to R375): the native words and the spill area, or the status. -/
def dreyfWords (b : Nat) (ws : List DWord) : Except Nat (List DWord × Nat) :=
  let ins := ws.zipIdx.map fun w => rklInstr ws.length w.2 w.1
  let is := ins.filterMap id
  let e0 : DreyfEnv := { b := b, spill := 0 }
  if is.length < ins.length then .error vxForm
  else if (is.flatMap predUses).any fun p => p == 5 || p == 6 then .error vxPred
  else if (spilled e0 is).length > 64 then .error vxSpill
  else
    let e : DreyfEnv := { b := b, spill := spillArea e0 is }
    match emitAll e is.zipIdx with
    | .error c => .error c
    | .ok body =>
      let zeros := (spilled e0 is).flatMap fun r => saveSlot noGuard e.z e.z (e.b - 2) (e.slot r)
      match codeWords (formClauses (zeros ++ keepLabels body) []).reverse with
      | none => .error vxForm
      | some code => .ok (code, e.spill)

/-- A kernel at an entry is to be translated (R371): its first word holds MAGIC, and its byte 7 does not make it native. Bytes that cannot be read fail
the launch as an RKL kernel's do (R373; log entry 18, DESIGN CHOICE). -/
def State.isRkl (s : State) (ctx die entry : Nat) : Bool :=
  match s.almRead ctx die entry 8 with
  | .error _ => true
  | .ok bs => fieldAt bs 7 1 != 0xFF && fieldAt bs 0 4 == 0x4C4B5201

/-- The words of an RKL kernel: a fault's kind and address, or a status of R373. -/
def State.rklWords (s : State) (ctx die entry : Nat) : Except (Nat × Option Nat) (List DWord) :=
  match s.almRead ctx die entry 16 with
  | .error (k, va) => .error (k, some va)
  | .ok hd =>
    let n := fieldAt hd 8 4
    if fieldAt hd 0 4 ≠ 0x4C4B5201 || fieldAt hd 4 2 ≠ 1 || fieldAt hd 6 2 ≠ 0 || fieldAt hd 12 4 ≠ 0 || n = 0 || n > 65535 then .error (vxForm, none)
    else match s.almRead ctx die (entry + 16) (8 * n) with
      | .error (k, va) => .error (k, some va)
      | .ok bs => .ok ((List.range n).map fun k => BitVec.ofNat 64 (fieldAt bs (8 * k) 8))

/-- Native code stored above the fault ring of the context's translation area (R373, 17 R402), at the next 64-byte boundary; none where it does not
fit or cannot be written. -/
def State.storeCode (s : State) (ctx die : Nat) (code : List DWord) : Option Nat × State :=
  match s.ctx? ctx with
  | none => (none, s)
  | some c =>
    let top := (s.alm.xlated.filter fun x => x.ctx == ctx).foldl (fun m x => max m (x.native + x.used)) (c.xarea.toNat + 16384)
    let base := (top + 63) / 64 * 64
    if c.xsize = 0 || base + 8 * code.length > c.xarea.toNat + 1024 * c.xsize then (none, s)
    else match s.vwrite (Who.almanac ctx die) (die * Config.coresPerDie) true base (code.flatMap fun w => bytesOf 8 w.toNat) with
      | (none, s1) => (some base, s1)
      | (some (k, va), s1) => (none, s1.almFault ctx die k va 0)

/-- The native entry of an RKL kernel for a budget, translated now or before (R373), or the status the launch fails with. -/
def State.dreyf (s : State) (ctx die entry b privs tag : Nat) : Except Nat Nat × State :=
  match s.alm.xlated.find? fun x => x.live && x.ctx == ctx && x.entry == entry && x.budget == b with
  | some x => (if 16 * privs < x.spill then .error vxPriv else .ok x.native, s)
  | none =>
    match s.rklWords ctx die entry with
    | .error (k, some va) => (.error k, s.almFault ctx die k va tag)
    | .error (c, none) => (.error c, s)
    | .ok ws =>
      match dreyfWords b ws with
      | .error c => (.error c, s)
      | .ok (code, spill) =>
        if 16 * privs < spill then (.error vxPriv, s)
        else match s.storeCode ctx die code with
          | (none, s1) => (.error vxArea, s1)
          | (some base, s1) =>
            let x : Xlated :=
              { ctx := ctx, entry := entry, budget := b, native := base, spill := spill, bytes := 16 + 8 * ws.length, used := 8 * code.length,
                pages := s.leafPages (die * Config.coresPerDie) ctx (entry + 16 + 8 * ws.length) 1024 entry }
            (.ok base, { s1 with alm := { s1.alm with xlated := x :: s1.alm.xlated } })

-- udiv and urem (R372) ------------------------------------------------------------------------------------------------------------------------------------

/-- Quotient and remainder, with R372's results for a divisor of 0. -/
def udivV (a b : Word) : Word := if b = 0 then BitVec.allOnes 32 else a / b
def uremV (a b : Word) : Word := if b = 0 then a else a % b

/-- udiv (R372): what the expansion of R375 leaves in D. -/
def execUdiv (o : Operands) (s : State) : Out := .next (lane32 o (fun s f w l => udivV (srcA32 f w o l) (srcBn s f w o l)) s)
/-- urem (R372). -/
def execUrem (o : Operands) (s : State) : Out := .next (lane32 o (fun s f w l => uremV (srcA32 f w o l) (srcBn s f w o l)) s)

end Sys2Proof.Machine
end

