-- ==== Sys2Proof/Machine/Packets.lean ====
section
/-!
DEFINITION. Machine/Packets.lean: launch records and their checks, launch tags, and the start of packets (02 R38 to R41; 12 R291 to R301, R424;
15 R371, R373).
-/
namespace Sys2Proof.Machine

-- Launch records (02 R38) --------------------------------------------------------------------------------------------------------------------------

/-- A launch with the fields of its record. -/
def Launch.ofRecord (l : Launch) (bs : List Byte) : Launch :=
  let c := fieldAt bs 8 8
  { l with
    entry := BitVec.ofNat 64 (fieldAt bs 0 8), regb := bitsAt c 0 6, stage := bitsAt c 8 9, wgw := bitsAt c 20 4 + 1, clg := bitsAt c 24 1 == 1,
    clw := bitsAt c 25 2 + 1, gx := fieldAt bs 0x10 4, gy := fieldAt bs 0x14 4, gz := fieldAt bs 0x18 4,
    tagh := (List.range 4).map fun i => fieldAt bs (0x1C + i) 1, rcb := BitVec.ofNat 64 (fieldAt bs 0x20 8),
    compl := BitVec.ofNat 64 (fieldAt bs 0x28 8), privb := BitVec.ofNat 64 (fieldAt bs 0x30 8), privs := fieldAt bs 0x38 2,
    privn := fieldAt bs 0x3A 2, slots := (List.range 8).map fun i => Slot.ofBits (BitVec.ofNat 128 (fieldAt bs (0x40 + 16 * i) 16)),
    k := (List.range 64).foldl (fun m (j : Nat) => smSet m j (BitVec.ofNat 32 (fieldAt bs (0x100 + 4 * j) 4))) [] }

/-- The reserved fields of a record. -/
def recordReserved (bs : List Byte) : Bool :=
  let c := fieldAt bs 8 8
  bitsAt c 6 2 ≠ 0 || bitsAt c 17 3 ≠ 0 || bitsAt c 27 37 ≠ 0 || nonzero bs 0x3C 4 || nonzero bs 0xC0 64

/-- The checks of 02 R41 in the order of its table: the status of the first that fails, 0 where all pass. -/
def State.recordStatus (s : State) (l : Launch) (bs : List Byte) : Nat :=
  let grid (n : Nat) : Bool := n = 0 || n > 2 ^ 31
  if l.compl.toNat % 64 ≠ 0 then 0x010A
  else if l.entry.toNat % 8 ≠ 0 || l.entry.toNat ≥ 2 ^ 56 then 0x0101
  else if l.regb < 2 || l.regb > 32 || l.wgw * 8 * l.regb > 3072 then 0x0102
  else if l.stage > 256 then 0x0103
  else if !l.clg && l.clw ≠ 1 then 0x0104
  else if grid l.gx || grid l.gy || grid l.gz then 0x0105
  else if (s.regionOf l).isNone then 0x0106
  else if l.privs > 4096 || l.privb.toNat % 64 ≠ 0 || (l.privs ≠ 0 && (l.privb = 0 || l.privn < 1 || l.privn > 12288)) then 0x0107
  else if !l.slots.all Slot.ok then 0x0108
  else if recordReserved bs then 0x0109
  else 0

/-- The loops for which a kernel supplies a placement record (13 R316): the anchor before its entry, and the directory that it names. -/
def State.readAnchor (s : State) (ctx die entry : Nat) : List (DWord × Nat) :=
  match s.almRead ctx die (entry - entry % 64 - 16) 16 with
  | .error _ => []
  | .ok a =>
    if fieldAt a 0 8 ≠ 0x4B34504C then []
    else
      let dir := fieldAt a 8 8
      match s.almRead ctx die dir 4 with
      | .error _ => []
      | .ok c =>
        let n := leOf c
        if n = 0 || n > 255 then []
        else match s.almRead ctx die (dir + 4) (8 * n) with
          | .error _ => []
          | .ok bs => (List.range n).map fun i =>
              (BitVec.ofNat 64 entry + (BitVec.ofNat 32 (fieldAt bs (8 * i) 4)).signExtend 64,
                (BitVec.ofNat 64 dir + (BitVec.ofNat 32 (fieldAt bs (8 * i + 4) 4)).signExtend 64).toNat)

/-- A launch begins (02 R41, 15 R371, R373): its record, as copied, is checked; an RKL kernel is translated; the completion object says that it runs. -/
def State.beginLaunch (s : State) (l : Launch) (bs : List Byte) : State :=
  let l1 := { l.ofRecord bs with tstart := BitVec.ofNat 64 (s.cal l.home) }
  let s1 := { s with alm := { s.alm with launches := s.alm.launches ++ [l1] } }
  let stop (s : State) (c : Nat) : State := (s.setLaunch { l1 with stopStatus := some c }).launchCheck l1.id
  let go (s : State) (l : Launch) : State := ((s.setLaunch l).putCompletion l.ctx l.home l.compl 1 0 l.tag 0 l.tstart.toNat 1).pokeAll
  let c := s1.recordStatus l1 bs
  if c ≠ 0 then stop (if c = 0x0106 then s1.regionFault l1 else s1) c
  else if s1.isRkl l1.ctx l1.home l1.entry.toNat then
    match s1.dreyf l1.ctx l1.home l1.entry.toNat (8 * l1.regb) l1.privs l1.tag with
    | (.error e, s2) => stop s2 e
    | (.ok e, s2) => go s2 { l1 with entry := BitVec.ofNat 64 e, rkl := true }
  else go s1 { l1 with placed := if l1.entry.toNat < 64 then [] else s1.readAnchor l1.ctx l1.home l1.entry.toNat }

/-- The operation of a COPY packet, which holds a launch tag (12 R293). -/
def EngOp.ofPacket (o : EngOp) : Bool := match o.owner with
  | .packet _ _ => true
  | _ => false
/-- Launch tags held by launches, graphs and COPY packets. -/
def tagsOf (ls : List Launch) (gs : List Graph) (ops : List EngOp) : List Nat :=
  ls.map Launch.tag ++ gs.map Graph.tag ++ (ops.filter EngOp.ofPacket).map EngOp.ltag
/-- Launch tags in use (12 R298): of what runs, and of saved contexts. -/
def State.tagsUsed (s : State) : List Nat :=
  tagsOf s.alm.launches s.alm.graphs s.eng.ops
    ++ (s.saved.images.filter fun i => (s.ctx? i.ctx).any Ctx.saved).flatMap fun i => tagsOf i.launches i.graphs i.ops

/-- A free launch tag: the lowest (log entry 7, DESIGN CHOICE). -/
def State.freeTag (s : State) : Option Nat := ((List.range 8191).map fun n => n + 1).find? fun t => !s.tagsUsed.contains t

/-- A tag allocated: its 18-bit generation advances (14 R364). -/
def State.takeTag (s : State) (t : Nat) : Nat × State :=
  let g := (smGet s.alm.gens t).toNat + 1
  (g % 2 ^ 18, { s with alm := { s.alm with gens := smSet s.alm.gens t (BitVec.ofNat 18 g) } })

-- Graphs (12 R299 to R301) ---------------------------------------------------------------------------------------------------------------------------

/-- A node of 64 bytes at an address. -/
def GNode.ofBytes (addr : Nat) (bs : List Byte) : GNode :=
  let c := fieldAt bs 0 4
  { typ := bitsAt c 0 8, npred := bitsAt c 8 6, arm := bitsAt c 14 1 == 1, succ := BitVec.ofNat 64 (fieldAt bs 8 8), fields := bs.drop 16,
    addr := BitVec.ofNat 64 addr, rpos := BitVec.ofNat 32 (fieldAt bs 0x38 4), pend := fieldAt bs 0x3C 4 }

/-- A field of a node, by its offset in the node. -/
def GNode.at_ (n : GNode) (off size : Nat) : Nat := fieldAt n.fields (off - 0x10) size
/-- FSUCC, of a COND alone. -/
def GNode.fsucc (n : GNode) : DWord := if n.typ = 3 then BitVec.ofNat 64 (n.at_ 0x20 8) else 0

/-- Two extents of n bytes intersect (12 R292). -/
def extentsMeet (a b n : Nat) : Bool := decide (a < b + n ∧ b < a + n)

/-- The part of GR_FORMAT that one node decides. -/
def nodeFormatBad (nnode : Nat) (bs : List Byte) : Bool :=
  let n := GNode.ofBytes 0 bs
  let c := fieldAt bs 0 4
  let outside (m : DWord) : Bool := m.toNat ≥ 2 ^ nnode
  let recb := fieldAt bs 0x20 2
  let rlog := bitsAt (fieldAt bs 0x20 4) 16 4
  bitsAt c 15 17 ≠ 0 || nonzero bs 4 4 || n.typ > 3 || outside n.succ || outside n.fsucc || (n.arm && n.typ ≠ 3)
    || match n.typ with
       | 0 => nonzero bs 0x18 40
       | 1 => nonzero bs 0x24 28 || fieldAt bs 0x20 4 = 0 || extentsMeet (fieldAt bs 0x10 8) (fieldAt bs 0x18 8) (fieldAt bs 0x20 4)
       | 2 => bitsAt (fieldAt bs 0x20 4) 28 4 ≠ 0 || nonzero bs 0x27 1 || recb % 64 ≠ 0 || recb < 64 || recb > 4096 || rlog < 1
           || bitsAt (fieldAt bs 0x20 4) 20 8 = 0 || fieldAt bs 0x24 2 = 0
       | _ => bitsAt (fieldAt bs 0x1C 4) 2 30 ≠ 0 || nonzero bs 0x28 24

/-- Nodes that name node k as a successor. -/
def predsOf (ns : List GNode) (k : Nat) : Nat := (ns.filter fun n => n.succ.getLsbD k || n.fsucc.getLsbD k).length

/-- Nodes left when those without a predecessor among the rest are taken away, round by round. -/
def peel (ns : List GNode) : Nat → List Nat → List Nat
  | 0, left => left
  | f + 1, left =>
    let named (k : Nat) : Bool := left.any fun j => match ns[j]? with
      | some n => n.succ.getLsbD k || n.fsucc.getLsbD k
      | none => false
    peel ns f (left.filter named)

/-- The checks of 12 R301 in order: the status, 0 where all pass. -/
def graphStatus (hd : List Byte) (nodes : List (List Byte)) : Nat :=
  let ns := nodes.map (GNode.ofBytes 0)
  if bitsAt (fieldAt hd 0 4) 6 26 ≠ 0 || fieldAt hd 4 4 = 0 || nonzero hd 0x18 40 || nodes.any (nodeFormatBad nodes.length) then 0x0903
  else if ns.zipIdx.any fun n => n.1.npred ≠ predsOf ns n.2 then 0x0904
  else if peel ns ns.length (List.range ns.length) ≠ [] || ns.all fun n => n.npred ≠ 0 then 0x0905
  else 0

/-- A graph's bytes read through its queue's context: the header and the nodes. -/
def State.readGraph (s : State) (ctx die va : Nat) : Except (Nat × Nat) (List Byte × List (List Byte)) :=
  match s.almRead ctx die va 64 with
  | .error e => .error e
  | .ok hd =>
    let n := fieldAt hd 0 1 % 64 + 1
    match s.almRead ctx die (va + 64) (64 * n) with
    | .error e => .error e
    | .ok bs => .ok (hd, (List.range n).map fun k => (bs.drop (64 * k)).take 64)

/-- An iteration begins (12 R302): counts set, and every node without a predecessor fires. -/
def State.beginIteration (s : State) (g : Nat) : State :=
  match s.alm.graphs.find? fun x => x.id == g with
  | none => s
  | some x =>
    let start (n : GNode) : GNode := { n with count := n.npred, st := if n.npred = 0 then .ready else .idle, chosen := 0 }
    let s1 := s.updGraph g fun x => { x with nodes := x.nodes.map start, rearm := false }
    (x.nodes.zipIdx.filter fun n => n.1.npred == 0).foldl (fun s n => s.later (.graphNodeFire g n.2)) s1

-- Packets (12 R291 to R295) --------------------------------------------------------------------------------------------------------------------------

def pkType (bs : List Byte) : Nat := fieldAt bs 0 1
def pkBar (bs : List Byte) : Bool := bitsAt (fieldAt bs 0 4) 8 1 == 1
def pkArg (bs : List Byte) (i : Nat) : Nat := fieldAt bs (8 + 8 * i) 8

/-- The checks of 12 R295 that the packet alone decides: the status, 0 where all pass. -/
def packetStatus (bs : List Byte) : Nat :=
  let h := fieldAt bs 0 4
  let t := pkType bs
  if t > 3 then 0x0901
  else if bitsAt h 11 21 ≠ 0 || nonzero bs 4 4 || nonzero bs 0x2C 20 || (t = 0 && pkArg bs 0 ≠ 0)
      || (t < 3 && (pkArg bs 1 ≠ 0 || pkArg bs 2 ≠ 0)) || (t = 3 && pkArg bs 2 ≥ 2 ^ 32)
      || (bitsAt h 10 1 = 1 && fieldAt bs 0x20 4 % 4 ≠ 0) || ((t = 1 || t = 2) && pkArg bs 0 % 64 ≠ 0) || (t = 3 && pkArg bs 2 = 0) then 0x0902
  else if t = 3 && extentsMeet (pkArg bs 0) (pkArg bs 1) (pkArg bs 2) then 0x090B
  else 0

/-- The bytes of a queue's next packet. -/
def State.nextPacket (s : State) (q : Nat) : Except (Nat × Nat) (List Byte) :=
  let base := s.qField q 0 8
  if base % 4096 ≠ 0 then .error (kMisalign, base)
  else s.almRead (s.qCtx q) (s.qHome q) (base + 64 * (s.qRd q % 2 ^ s.qLog q)) 64

/-- Entries of a die's matching store in use (12 R297). -/
def State.storeUsed (s : State) (die : Nat) : Nat :=
  (s.alm.graphs.filter fun g => g.home == die).foldl (fun n g => n + g.nodes.length) 0
    + (s.alm.launches.filter fun l => l.home == die && match l.origin with
        | .packet _ _ => true
        | _ => false).length
    + (s.eng.ops.filter fun o => o.ofPacket && dieOf o.core == die).length

/-- Entries that a packet needs: as many as its graph has nodes, and one for any other packet (log entry 27, DEDUCED). -/
def State.entriesNeeded (s : State) (q : Nat) (bs : List Byte) : Nat :=
  match pkType bs with
  | 2 => match s.almRead (s.qCtx q) (s.qHome q) (pkArg bs 0) 1 with
    | .ok b => leOf b % 64 + 1
    | .error _ => 0
  | _ => 1

/-- The queue's next packet can start now (12 R293, R295, R297); one that will fail to start can. -/
def State.packetReady (s : State) (x : Queue) : Bool :=
  let q := x.q
  x.mapped && s.qEn q && !s.qForeign q && s.ctxRuns (s.qCtx q) && bitsAt (s.qField q 0xC 4) 16 1 == 0 && s.qRd q != s.qKi q
    && match s.nextPacket q with
       | .error _ => true
       | .ok bs =>
         (!pkBar bs || x.running.isEmpty)
           && (packetStatus bs != 0
                || (s.freeTag.isSome && decide (s.storeUsed (s.qHome q) + s.entriesNeeded q bs ≤ Config.almanacEntries)))

/-- RDIDX advances and is mirrored (12 R293). -/
def State.advance (s : State) (q : Nat) (ltag : Nat := 0) : State :=
  let n := (s.qRd q + 1) % 2 ^ 32
  let at_ := s.qField q 0x18 8
  let s1 := s.setQField q 0x10 4 n
  if at_ = 0 then s1 else s1.almPut (s.qCtx q) (s.qHome q) at_ 4 (bytesOf 4 n) ltag

/-- A packet that fails to start (12 R295). -/
def State.failPacket (s : State) (q code : Nat) : State :=
  let s1 := ((s.setQField q 0xC 4 (code % 2 ^ 16 + 2 ^ 16)).advance q).queueIrq q (s.qVec q)
  ((s1.giveSlots 1).idleTimer q).poke (s.qHome q)

/-- A packet stands among those that run; the start of a packet hands a slot on (12 R290). -/
def State.packetRuns (s : State) (q idx ltag : Nat) (bs : List Byte) : State :=
  (s.advance q ltag).updQueue q fun x => { x with running := x.running ++ [(idx, bs)] }

/-- A COPY as an engine operation of a die, under the region of its context's root region control block (12 R292, 16 R380). -/
def State.beginCopy (s : State) (owner : EngOwner) (ctx die src dst n ltag : Nat) : State :=
  let id := s.nonce
  let o : EngOp :=
    { id := id, owner := owner, core := die * Config.coresPerDie, ctx := ctx, ltag := ltag, form := .plain src dst n, sc := .sys,
      total := (n + 511) / 512, sup := true, region := ((s.ctx? ctx).map fun c => c.rootrcb.toNat).getD 0 }
  ({ s with nonce := id + 1, eng := { s.eng with ops := s.eng.ops ++ [o] } }).later (.btChunkComplete id 0)

/-- The next packet of a queue is started (12 R293). -/
def State.startPacket (s : State) (q : Nat) : State :=
  let ctx := s.qCtx q
  let die := s.qHome q
  let idx := s.qRd q
  let fail (e : Nat × Nat) : State := (s.almReadFault ctx die e 0).failPacket q e.1
  match s.nextPacket q with
  | .error e => fail e
  | .ok bs =>
    let c := packetStatus bs
    if c ≠ 0 then s.failPacket q c
    else match pkType bs with
      | 0 =>
        (match s.freeTag with
          | none => s
          | some t => (((s.takeTag t).2.packetRuns q idx t bs).packetComplete q idx t none).passSlot)
      | 3 =>
        (match s.freeTag with
          | none => s
          | some t =>
            (((s.takeTag t).2.packetRuns q idx t bs).beginCopy (.packet q idx) ctx die (pkArg bs 0) (pkArg bs 1) (pkArg bs 2) t).passSlot)
      | 1 =>
        (match s.almRead ctx die (pkArg bs 0) 512, s.freeTag with
          | .error e, _ => fail e
          | .ok _, none => s
          | .ok r, some t =>
            let (gen, s1) := s.takeTag t
            let l : Launch :=
              { id := s1.nonce, tag := t, gen := gen, ctx := ctx, home := die, origin := .packet q idx, recAddr := BitVec.ofNat 64 (pkArg bs 0) }
            ((({ s1 with nonce := s1.nonce + 1 }).packetRuns q idx t bs).beginLaunch l r).passSlot)
      | _ =>
        match s.readGraph ctx die (pkArg bs 0), s.freeTag with
        | .error e, _ => fail e
        | .ok _, none => s
        | .ok (hd, ns), some t =>
          let gc := graphStatus hd ns
          if gc ≠ 0 then s.failPacket q gc
          else
            let (gen, s1) := s.takeTag t
            let id := s1.nonce
            let g : Graph :=
              { id := id, q := q, idx := idx, tag := t, gen := gen, ctx := ctx, home := die, maxit := fieldAt hd 4 4,
                compl := BitVec.ofNat 64 (fieldAt hd 8 8), rcb := BitVec.ofNat 64 (fieldAt hd 0x10 8),
                nodes := ns.zipIdx.map fun n => GNode.ofBytes (pkArg bs 0 + 64 * (n.2 + 1)) n.1, tstart := BitVec.ofNat 64 (s.cal die) }
            let s2 := ({ s1 with nonce := id + 1, alm := { s1.alm with graphs := s1.alm.graphs ++ [g] } }).packetRuns q idx t bs
            ((s2.putCompletion ctx die g.compl 1 0 t 0 g.tstart.toNat 1).beginIteration id).passSlot

end Sys2Proof.Machine
end

