-- ==== Sys2Proof/Machine/LaunchOps.lean ====
section
/-!
DEFINITION. Machine/LaunchOps.lean: launching and waiting from the device, queues from a kernel, clocks and counters, group 0xC (12 R305, R306;
14 R364 to R369).
-/
namespace Sys2Proof.Machine

/-- Blocks of `n` bytes that the lanes name, 64-byte aligned, each readable: MISALIGN first, then the faults, precise (R364, R366). -/
def withBlocks (o : Operands) (n : Nat) (f : Focus) (w : Warp) (act : LaneMask) (s : State) (k : State → State) : State :=
  let va (l : Nat) : Nat := (srcA64 w o l).toNat
  match operandTrap ((lanesOf act).map fun l => (l, if va l % 64 ≠ 0 then LaneAddr.trap kMisalign else .at_ 0)) with
  | some (kind, m) => s.trapHere f w act { kind := kind, lmask := m }
  | none =>
    let ctx := s.ctxOf w
    let errs := (lanesOf act).filterMap fun l =>
      match s.vread (Who.front ctx f) f.core (w.supIn f) .read none (va l) n with
      | .error (kd, a) => some ({ lane := l, kind := kd, va := a, page := s.pageSize f.core ctx a } : LaneErr)
      | .ok _ => none
    match errs with
    | e :: _ =>
      let s1 := errs.foldl (fun s x => s.noteRead (Who.front ctx f) f.core (w.supIn f) .read (x.kind, x.va)) s
      s1.trapHere f w act { kind := e.kind, errs := errs, lmask := maskOf (errs.map LaneErr.lane) }
    | [] => k s

/-- One lane's launch of a child (R305, R364): the identifier, or the refusal. -/
def State.launchChild (s : State) (f : Focus) (w : Warp) (va : Nat) : Word × State :=
  match s.launchOf w with
  | none => (excStatus 0x0106, s)
  | some l =>
    match s.regionOf l with
    | none | some [] => (excStatus 0x0106, s.regionFault l)
    | some ((a, r) :: t) =>
      if r.duse ≥ effective 2 Rcb.dlslot ((a, r) :: t) then (excStatus 0x0907, s)
      else match s.freeTag, s.vread (Who.front l.ctx f) f.core (w.supIn f) .read none va 512 with
        | some tag, .ok bs =>
          let s1 := s.almWrite l.ctx (dieOf f.core) (a + 32) (bytesOf 2 (r.duse + 1)) l.tag
          let (gen, s2) := s1.takeTag tag
          let child : Launch :=
            { id := s2.nonce, tag := tag, gen := gen, ctx := l.ctx, home := dieOf f.core, origin := .child l.rcb l.id, recAddr := BitVec.ofNat 64 va }
          (BitVec.ofNat 32 (tag + 2 ^ 13 * gen), ({ s2 with nonce := s2.nonce + 1 }).beginLaunch child bs)
        | _, _ => (excStatus 0x0907, s)

/-- One lane after another, each giving a result word. -/
def laneResults (k : Nat → State → Word × State) (s : State) : List Nat → List (Nat × Word) × State
  | [] => ([], s)
  | l :: t =>
    let (v, s1) := k l s
    let (ws, s2) := laneResults k s1 t
    ((l, v) :: ws, s2)

/-- A long-latency form whose lanes act in ascending order, each with a result word in D. -/
def laneOrder (o : Operands) (f : Focus) (act : LaneMask) (k : Nat → State → Word × State) (s : State) : State :=
  let (ws, s1) := laneResults k s (lanesOf act)
  match s1.warp? f.core f.slot with
  | none => s1
  | some w => s1.llResult f w act o.fsel [o.d.toNat] (ws.map fun x => { lane := x.1, reg := o.d.toNat, val := x.2 })

/-- dlaunch (R364). -/
def execDlaunch (o : Operands) (s : State) : Out :=
  .next (withLL o (fun f w act s =>
    forked f w s fun s w => withBlocks o 512 f w act s fun s =>
      laneOrder o f act (fun l s => s.launchChild f w (srcA64 w o l).toNat) s) s)

/-- dwait (R365, R306): lanes whose child has not completed wait; the others have joined it. -/
def execDwait (o : Operands) (s : State) : Out :=
  .next (withSources o (fun f w act s =>
    let ctx := s.ctxOf w
    let waiting := (lanesOf act).filter fun l => !s.childDone ctx (srcA32 f w o l)
    let s1 := if waiting.length = (lanesOf act).length then s else s.joinAll f.core ctx
    (s1.retryEach f w (maskOf waiting) fun l => .child (srcA32 f w o l)).poke (dieOf f.core)) s)

/-- A queue lies in the share of a context's tenant (12 R288, R366): every queue for context 0. -/
def State.inShare (s : State) (ctx q : Nat) : Bool :=
  decide (q < Config.nQueues) && (ctx == 0 || (s.qCtx q != 0 && (s.tenantOf ctx).any fun t => t.id == s.qTen q))

/-- A queue outside the share, logged in the tenant's log; context 0 has none. -/
def State.shareDenied (s : State) (ctx core q : Nat) : State := s.violation ((s.tenantOf ctx).map Tenant.id) q ctx vQueueShare 0 core

/-- One lane's qpost (R366). -/
def State.postPacket (s : State) (f : Focus) (w : Warp) (va q : Nat) : Word × State :=
  let ctx := s.ctxOf w
  if !s.inShare ctx q then (excStatus 0x0909, s.shareDenied ctx f.core q)
  else if !s.qEn q then (excStatus 0x090A, s)
  else
    let ki := s.qKi q
    if (ki + 2 ^ 32 - s.qRd q) % 2 ^ 32 ≥ 2 ^ s.qLog q then (excStatus 0x0908, s)
    else
      let base := s.qField q 0 8
      let die := s.qHome q
      match s.vread (Who.front ctx f) f.core (w.supIn f) .read none va 64 with
      | .error _ => (excStatus 0x090C, s)
      | .ok bs =>
        if base % 4096 ≠ 0 then (excStatus 0x090C, s)
        else match s.vwrite (Who.almanac (s.qCtx q) die) (die * Config.coresPerDie) true (base + 64 * (ki % 2 ^ s.qLog q)) bs with
          | (some _, _) => (excStatus 0x090C, s)
          | (none, s1) => (BitVec.ofNat 32 (ki % 2 ^ 31), s1.applyKick ctx 0 f.core q (BitVec.ofNat 64 ((ki + 1) % 2 ^ 32)))

/-- qpost (R366). -/
def execQpost (o : Operands) (s : State) : Out :=
  .next (withLL o (fun f w act s =>
    forked f w s fun s w => withBlocks o 64 f w act s fun s =>
      laneOrder o f act (fun l s => s.postPacket f w (srcA64 w o l).toNat (srcBn s f w o l).toNat) s) s)

/-- qkick (R367): a release at .sys. -/
def execQkick (o : Operands) (s : State) : Out :=
  .next (withSources o (fun f w act s =>
    match (if f.grid then [] else s.acquiring f) with
    | i :: t => s.retry f w (.llRegs (i :: t))
    | [] => s.released f w act fun s w =>
      let ctx := s.ctxOf w
      (lanesOf act).foldl (fun s l =>
        let q := (srcA32 f w o l).toNat
        if s.inShare ctx q then s.applyKick ctx 0 f.core q ((srcBn s f w o l).setWidth 64) else s.shareDenied ctx f.core q) s) s)

/-- clock (R368): read once for every lane. -/
def execClock (k : ClockKind) (o : Operands) (s : State) : Out :=
  .next (lane64 o (fun s f _ _ =>
    BitVec.ofNat 64 (match k with
      | .cal => s.cal (dieOf f.core)
      | .ck => s.ck (dieOf f.core))) s)

/-- The events that a per-context counter has counted since it was last looked at: a free number, none for event code 0 (16 R380; log entry 12, DESIGN CHOICE). -/
def State.countEvents (s : State) (ctx j : Nat) : State :=
  let event := (((s.ctx? ctx).map Ctx.pcsel).bind fun l => l[j]?).getD 0
  if event = 0 then s
  else
    let perf := smSet s.iso.perf (48 * ctx + j) (smGet s.iso.perf (48 * ctx + j) + Config.perfEvents event ctx j s.nonce)
    { s with nonce := s.nonce + 1, iso := { s.iso with perf := perf } }

/-- A performance counter (R369). -/
def State.perfCounter (s : State) (w : Warp) (i : Nat) : DWord :=
  let wg (g : Wg → Nat) : Nat := ((s.wg? w.wg).map g).getD 0
  if i = 0 then BitVec.ofNat 64 w.issued
  else if i = 1 then BitVec.ofNat 64 w.bissue
  else if i = 2 then BitVec.ofNat 64 w.stallck
  else if i = 3 then BitVec.ofNat 64 w.gretire
  else if i = 4 then BitVec.ofNat 64 w.drains
  else if i = 5 then BitVec.ofNat 64 (wg Wg.fcmiss)
  else if i = 6 then BitVec.ofNat 64 (wg Wg.mxgrant)
  else if 0x10 ≤ i ∧ i < 0x40 then smGet s.iso.perf (48 * s.ctxOf w + (i - 0x10))
  else 0

/-- perfrd (R369): the counters of the reading warp, its workgroup and its context. -/
def execPerfrd (o : Operands) (s : State) : Out :=
  .next (withSources o (fun f w act s =>
    let idx (l : Nat) : Nat := (srcBn s f w o l).toNat
    let pcs := (((lanesOf act).map idx).filter fun i => decide (0x10 ≤ i ∧ i < 0x40)).eraseDups
    let s1 := pcs.foldl (fun s i => s.countEvents (s.ctxOf w) (i - 0x10)) s
    s1.setWarp (w.setPair act o.d.toNat fun l => s1.perfCounter w (idx l))) s)

end Sys2Proof.Machine
end

