-- ==== Sys2Proof/Machine/Logic.lean ====
section
/-!
DEFINITION. Machine/Logic.lean: logic, shift and bit forms, group 0x1 (05 R110 to R116).
-/
namespace Sys2Proof.Machine

/-- and (R110). -/
def execAnd (o : Operands) (s : State) : Out := .next (binary o (fun a b => a &&& b) s)
/-- or (R110). -/
def execOr (o : Operands) (s : State) : Out := .next (binary o (fun a b => a ||| b) s)
/-- xor (R110). -/
def execXor (o : Operands) (s : State) : Out := .next (binary o (fun a b => a ^^^ b) s)
/-- not (R110). -/
def execNot (o : Operands) (s : State) : Out := .next (unary o (fun a => ~~~a) s)
/-- tern (R111): the old D is the third input. -/
def execTern (o : Operands) (s : State) : Out :=
  .next (lane32 o (fun s f w l => ternV (srcA32 f w o l) (srcB32 s f w o l) (srcD32 w o l) o.c) s)
/-- shl (R112). -/
def execShl (o : Operands) (s : State) : Out := .next (shifted o shlV s)
/-- shr (R112). -/
def execShr (o : Operands) (s : State) : Out := .next (shifted o shrV s)
/-- sar (R112). -/
def execSar (o : Operands) (s : State) : Out := .next (shifted o sarV s)
/-- rotl (R112). -/
def execRotl (o : Operands) (s : State) : Out := .next (shifted o rotlV s)
/-- fshl (R113). -/
def execFshl (o : Operands) (s : State) : Out :=
  .next (lane32 o (fun s f w l => fshlV (srcA32 f w o l) (srcB32 s f w o l) (srcC32 w o l)) s)
/-- bfe (R114): B is the position, C the length. -/
def execBfe (o : Operands) (s : State) : Out :=
  .next (lane32 o (fun s f w l => bfeV o.ty.signed (srcA32 f w o l) (srcBn s f w o l).toNat o.c.toNat) s)
/-- bfi (R114): D is also read. -/
def execBfi (o : Operands) (s : State) : Out :=
  .next (lane32 o (fun s f w l => bfiV (srcA32 f w o l) (srcD32 w o l) (srcBn s f w o l).toNat o.c.toNat) s)

/-- A count of a 32- or 64-bit value into one 32-bit register (R115). -/
def counted (o : Operands) (g : {n : Nat} → BitVec n → Nat) (s : State) : State :=
  lane32 o (fun _ f w l => BitVec.ofNat 32 (if is64 o then g (srcA64 w o l) else g (srcA32 f w o l))) s
/-- popc (R115). -/
def execPopc (o : Operands) (s : State) : Out := .next (counted o popcV s)
/-- clz (R115). -/
def execClz (o : Operands) (s : State) : Out := .next (counted o clzV s)
/-- ctz (R115). -/
def execCtz (o : Operands) (s : State) : Out := .next (counted o ctzV s)
/-- brev (R115). -/
def execBrev (o : Operands) (s : State) : Out := .next (unary o brevV s)
/-- bperm (R116). -/
def execBperm (o : Operands) (s : State) : Out :=
  .next (lane32 o (fun s f w l => bpermV (srcA32 f w o l) (srcB32 s f w o l) (srcC32 w o l)) s)

end Sys2Proof.Machine
end

