-- ==== Sys2Proof/Machine/Placed.lean ====
section
/-!
DEFINITION. Machine/Placed.lean: the grid-only operations (13 R319), and how a placed instruction computes: as on the front end, with the slots of its
frame for registers and the lanes of its tokens (13 R320, R322; 04 R85).
-/
namespace Sys2Proof.Machine

-- Grid-only operations (R319) --------------------------------------------------------------------------------------------------------------------------

/-- What a grid-only operation sends: nothing where no firing is in focus. -/
def gridOut (k : Focus → Warp → List GOut) (s : State) : State :=
  withFocus s fun f w => if f.grid then { s with focus := some { f with outs := k f w } } else s

/-- Words of a register in some lanes. -/
def wordsOf (w : Warp) (r : Nat) (m : LaneMask) : SMap 32 := (lanesOf m).foldl (fun x l => smSet x l (w.reg l r)) []
/-- The registers of a grid-only operation's ports. -/
def portRegs (o : Operands) : List Nat := [o.a.toNat, o.b.field.toNat, o.c.toNat]

/-- The operation of gred on two words. -/
def gredV (op : GredOp) (a b : Word) : Word :=
  match op with
  | .addF32 => BitVec.ofNat 32 (fmt32.add .rn a.toNat b.toNat)
  | .addN32 => a + b
  | .minF32 => BitVec.ofNat 32 (fmt32.minmax false a.toNat b.toNat)
  | .maxF32 => BitVec.ofNat 32 (fmt32.minmax true a.toNat b.toNat)

/-- Operands combined from the left. -/
def gredAll (op : GredOp) : List Word → Word
  | [] => 0
  | x :: t => t.foldl (gredV op) x

/-- gred (R319): the operands that PK marks, in the order of the ports. -/
def execGred (op : GredOp) (o : Operands) (s : State) : Out :=
  .next (gridOut (fun f w =>
    let act := activeLanes f w o.guard
    let rs := ((portRegs o).zipIdx.filter fun r => f.pk.getLsbD r.2).map Prod.fst
    [{ mask := act, words := (lanesOf act).foldl (fun x l => smSet x l (gredAll op (rs.map fun r => w.reg l r))) [] }]) s)

/-- gmrg (R319): each lane from the input whose mask holds it, within the guard (R322). -/
def execGmrg (o : Operands) (s : State) : Out :=
  .next (gridOut (fun f w =>
    let act := activeLanes f w o.guard
    let m (i : Nat) : LaneMask := ((f.masks[i]?).getD 0) &&& act
    [{ mask := m 0 ||| m 1,
       words := (lanesOf (m 0 ||| m 1)).foldl (fun x l => smSet x l (w.reg l (if (m 0).getLsbD l then o.a.toNat else o.b.field.toNat))) [] }]) s)

/-- gdly (R319): the token of A unchanged, its sequence tag too, C clocks later. -/
def execGdly (o : Operands) (s : State) : Out :=
  .next (gridOut (fun f w =>
    let m := ((f.masks[0]?).getD 0) &&& activeLanes f w o.guard
    [{ mask := m, words := wordsOf w o.a.toNat m, delay := some o.c.toNat, midx := (f.midxs[0]?).getD 0 }]) s)

/-- gjoin (R319): the tokens that PK marks, each with its sequence tag, in ascending order of their static indices. -/
def execGjoin (o : Operands) (s : State) : Out :=
  .next (gridOut (fun f w =>
    let act := activeLanes f w o.guard
    let ps := (List.range 3).filter fun p => f.pk.getLsbD p
    let x (p : Nat) : Nat := (f.midxs[p]?).getD 0
    let put (l : List Nat) (p : Nat) : List Nat := (l.filter fun q => decide (x q ≤ x p)) ++ [p] ++ l.filter fun q => decide (x p < x q)
    (ps.foldl put []).map fun p =>
      let m := ((f.masks[p]?).getD 0) &&& act
      { mask := m, words := wordsOf w (((portRegs o)[p]?).getD 0) m, midx := x p }) s)

-- Placed forms (R314) --------------------------------------------------------------------------------------------------------------------------------------

/-- The meaning of a form that a handler can hold. -/
def formEffect (i : Instr) (s : State) : Out :=
  match i with
  | .iadd o => execIadd o s
  | .isub o => execIsub o s
  | .iadd3 o => execIadd3 o s
  | .imul o => execImul o s
  | .imulhi o => execImulhi o s
  | .imad o => execImad o s
  | .iabs o => execIabs o s
  | .ineg o => execIneg o s
  | .imin o => execImin o s
  | .imax o => execImax o s
  | .iaddc o => execIaddc o s
  | .isubb o => execIsubb o s
  | .isad o => execIsad o s
  | .lea o => execLea o s
  | .leaHi o => execLeaHi o s
  | .andB o => execAnd o s
  | .orB o => execOr o s
  | .xorB o => execXor o s
  | .notB o => execNot o s
  | .tern o => execTern o s
  | .shl o => execShl o s
  | .shr o => execShr o s
  | .sar o => execSar o s
  | .rotl o => execRotl o s
  | .fshl o => execFshl o s
  | .bfe o => execBfe o s
  | .bfi o => execBfi o s
  | .popc o => execPopc o s
  | .clz o => execClz o s
  | .ctz o => execCtz o s
  | .brev o => execBrev o s
  | .bperm o => execBperm o s
  | .icmp op o => execIcmp op o s
  | .sel o => execSel o s
  | .mov o => execMov o s
  | .movi o => execMovi o s
  | .movk o => execMovk o s
  | .psetp op o => execPsetp op o s
  | .p2v o => execP2v o s
  | .v2p o => execV2p o s
  | .srd o => execSrd o s
  | .cvti o => execCvti o s
  | .pack o => execPack o s
  | .unpack o => execUnpack o s
  | .fadd o => execFadd o s
  | .fsub o => execFsub o s
  | .fmul o => execFmul o s
  | .ffma o => execFfma o s
  | .fmin o => execFmin o s
  | .fmax o => execFmax o s
  | .fcmp op o => execFcmp op o s
  | .fclass o => execFclass o s
  | .hadd2 o => execHadd2 o s
  | .hmul2 o => execHmul2 o s
  | .hfma2 o => execHfma2 o s
  | .hmin2 o => execHmin2 o s
  | .hmax2 o => execHmax2 o s
  | .fdot2 o => execFdot2 o s
  | .frcp o => execFrcp o s
  | .frsq o => execFrsq o s
  | .fsqrt o => execFsqrt o s
  | .fexp2 o => execFexp2 o s
  | .flog2 o => execFlog2 o s
  | .fsin o => execFsin o s
  | .fcos o => execFcos o s
  | .ftanh o => execFtanh o s
  | .cvt o => execCvt o s
  | .cvtBlkTo o => execCvtBlkTo o s
  | .cvtBlkFrom o => execCvtBlkFrom o s
  | .xlane op o => execXlane op o s
  | .vote op o => execVote op o s
  | .voteBallot o => execVoteBallot o s
  | .matchLanes op o => execMatch op o s
  | .redux op o => execRedux op o s
  | .fredux op o => execFredux op o s
  | .scan op o => execScan op o s
  | .ld n o => execLd n o s
  | .st n o => execSt n o s
  | .lds n o => execLds n o s
  | .sts n o => execSts n o s
  | .ldp n o => execLdp n o s
  | .stp n o => execStp n o s
  | .ldc o => execLdc o s
  | .prefetch lv o => execPrefetch lv o s
  | .atom op o => execAtom op o s
  | .atomCas o => execAtomCas o s
  | .atomFadd o => execAtomFadd o s
  | .red op o => execRed op o s
  | .redFadd o => execRedFadd o s
  | .ldv o => execLdv o s
  | .stv o => execStv o s
  | .reclaim o => execReclaim o s
  | .fence o => execFence o s
  | .btCopy o => execBtCopy o s
  | .btGather o => execBtGather o s
  | .btScatter o => execBtScatter o s
  | .btTest o => execBtTest o s
  | .lay o => execLay o s
  | .clock k o => execClock k o s
  | .gred op o => execGred op o s
  | .gmrg o => execGmrg o s
  | .gdly o => execGdly o s
  | .gjoin o => execGjoin o s
  | _ => .next s

/-- What a placed instruction did: the state, its frame and predicates after it, what it met, the lanes that must wait, and what a grid-only operation
sends. -/
structure Fired where
  st : State
  regs : SMap 32
  preds : SMap 32
  trap : Option (Nat × List LaneErr)
  wait : LaneMask
  /-- Lanes that wait for a version, each with the number of its window (07 R199). -/
  vwait : List (Nat × Nat) := []
  outs : List GOut

/-- The address of the instruction that a handler was placed from (17 R403): the one of its OP and FN in the clause that held it. -/
def State.handAddr (s : State) (c : GCfg) (h : GHand) : DWord :=
  let hd := c.head + BitVec.ofNat 64 h.srcoff
  let cnt := match s.fetchWord c.core c.ctx false hd.toNat with
    | .ok w => (headerOf w).cnt.toNat
    | .error _ => 0
  let same (n : Nat) : Bool := match s.fetchWord c.core c.ctx false (hd.toNat + 8 * (n + 1)) with
    | .ok w => wordOp w == h.op && wordFn w == wordFn h.iword
    | .error _ => false
  match (List.range cnt).find? same with
  | some n => hd + BitVec.ofNat 64 (8 * (n + 1))
  | none => hd + 8

/-- Translations of a core with the range entries of a cell, which may stand on another die, looked at first (R333). -/
def rangesFirst (core ctx at_ cell : Nat) (tlb : List TlbEntry) : List TlbEntry :=
  (tlb.filter fun t => t.core == at_ && t.ctx == ctx && t.cell == some cell).map (fun t => { t with core := core, cell := none }) ++ tlb

/-- The sequence tag of an iteration's token (R327). -/
def GIter.seq (i : GIter) (midx : Nat) : BitVec 16 := BitVec.ofNat 16 (i.level % 4 * 2 ^ 14 + i.ord % 128 * 2 ^ 7 + midx % 128)
/-- Current CONST of a handler (R331). -/
def GCfg.constOf (c : GCfg) (h : GHand) : Word := ((c.consts.find? fun x => x.1 == h.key).map Prod.snd).getD h.const

/-- What a handler fires on: its lanes, the frame and predicates that it reads, CONST, an element popped from a port, the lane masks and static indices of
its tokens, and the waits of its lanes for versions. -/
structure GFire where
  mask : LaneMask
  regs : SMap 32
  preds : SMap 32
  const : Word
  pop : Option PortElem := none
  masks : List LaneMask := []
  midxs : List Nat := []
  vwait : List (Nat × Nat) := []

/-- An instruction of a handler computed for an iteration. The warp's own registers are not touched. -/
def State.runPlaced (s : State) (c : GCfg) (it : GIter) (h : GHand) (x : GFire) : Fired :=
  match s.warp? c.core it.slot, h.instr with
  | some w, some i =>
    let view : Warp := { w with regs := x.regs, preds := x.preds, threads := w.threads.map fun t => { t with sup := false } }
    let f : Focus :=
      { core := c.core, slot := it.slot, lanes := x.mask, pc := s.handAddr c h, hdr := c.head + BitVec.ofNat 64 h.srcoff, cnt := 0, fx := 15, fy := 15,
        popped := x.pop, const := x.const, grid := true, pk := h.pk, masks := x.masks, midxs := x.midxs, lmid := GRec.lmid c.bytes,
        seq := it.seq h.midx, itag := it.tag, iter := it.ord, vwait := x.vwait }
    let s1 := { (s.setWarp view) with focus := some f, iso := { s.iso with tlb := rangesFirst c.core c.ctx (c.coreAt h.hdie) h.cell s.iso.tlb } }
    match formEffect i s1 with
    | .next s2 =>
      let out := (s2.warp? c.core it.slot).getD view
      let g := s2.focus.getD f
      { st := { s2.setWarp { w with threads := w.threads.zipWith (fun old new => { old with deferred := new.deferred }) out.threads } with
                focus := s.focus, iso := { s2.iso with tlb := s.iso.tlb } },
        regs := out.regs, preds := out.preds, trap := g.gtrap, wait := g.gwait, vwait := g.vwait.eraseDups, outs := g.outs }
    | _ => { st := s, regs := x.regs, preds := x.preds, trap := none, wait := 0, outs := [] }
  | _, _ => { st := s, regs := x.regs, preds := x.preds, trap := none, wait := 0, outs := [] }

/-- The predicates that a handler sees for an iteration: those of the PRED slot, the warp's own without one, and those that tokens brought. -/
def State.predsFor (s : State) (c : GCfg) (i : GIter) (h : GHand) : SMap 32 :=
  let base : SMap 32 := match GRec.predSlot c.bytes with
    | some sl => (List.range 7).foldl (fun m p =>
        smSet m p (maskOf ((List.range 32).filter fun l => (smGet (i.frameFor c h) (32 * sl + l)).getLsbD p))) []
    | none => ((s.warp? i.core i.slot).map Warp.preds).getD []
  (i.guards.filter fun g => g.1 / 4 == h.key).foldl (fun m g => match h.portUse (g.1 % 4) with
    | .pred p => if p < 7 then smSet m p g.2 else m
    | _ => m) base

end Sys2Proof.Machine
end

