-- ==== Sys2Proof/Machine/Firing.lean ====
section
/-!
DEFINITION. Machine/Firing.lean: handlers firing, tokens transferring, held writes and loads, commit and retirement, and faults in the grid
(07 R192 to R196; 13 R319 to R331, R425; 17 R405, R406, R422, R426; log entry 22, DEDUCED).
-/
namespace Sys2Proof.Machine

-- Sending -------------------------------------------------------------------------------------------------------------------------------------------------

/-- The 128-bit header of a token on its way to a port of a handler (R325); FPTR counts 128 bytes from the bottom of the frame store. -/
def GIter.header (i : GIter) (c : GCfg) (t : GTok) (h : GHand) (port : Nat) : BitVec 128 :=
  let fptr := ((i.place c).getD 0) / 128
  BitVec.ofNat 128 (t.kind % 16 + c.half % 2 * 2 ^ 4 + (dieOf c.core + h.hdie) % 4 * 2 ^ 5 + h.cell % 64 * 2 ^ 7 + h.hidx % 32 * 2 ^ 13 + port % 4 * 2 ^ 18
    + (i.tag.getD 0) % 1024 * 2 ^ 20 + (i.seq t.midx).toNat * 2 ^ 32 + t.mask.toNat * 2 ^ 48 + fptr % 4096 * 2 ^ 80 + i.slot % 16 * 2 ^ 92
    + t.aux % 2 ^ 16 * 2 ^ 96)

/-- KIND of a token to a destination (R325): an address where it comes to a memory port. -/
def GCfg.tokKind (c : GCfg) (h : GHand) (d : BitVec 16) : Nat :=
  match GRec.target c.bytes (GRec.hands c.bytes) h.hdie d with
  | some (g, port) => if g.isMem && g.addressPort port then 1 else 0
  | none => 0
/-- One token to each valid destination of a handler (R322). -/
def State.sendTo (s : State) (c : GCfg) (i : GIter) (h : GHand) (mk : Nat → GTok) (delay : Option Nat := none) : State :=
  (h.dsts.zipIdx.filter fun d => dstValid d.1).foldl (fun s d =>
    s.sendTok c h d.2 { mk d.2 with kind := c.tokKind h d.1, iter := i.id, src := h.key, dst := d.1, out := d.2 } delay) s

/-- A token of words. -/
def wordsTok (m : LaneMask) (width midx : Nat) (w : Nat → Nat → Word) : GTok :=
  { iter := 0, src := 0, dst := 0, mask := m, width := width, midx := midx,
    words := (lanesOf m).foldl (fun x l => (List.range width).foldl (fun x n => smSet x (32 * n + l) (w l n)) x) [] }
/-- A token of predicate bits. -/
def bitsTok (m : LaneMask) (p midx : Nat) (b : Nat → Bool) : GTok :=
  { iter := 0, src := 0, dst := 0, mask := m, midx := midx, pbit := some p,
    words := (lanesOf m).foldl (fun x l => smSet x l (if b l then 1 else 0)) [] }

/-- The result token of an output: D's, or C's for destinations 2 and 3 of a form with two results (log entry 22, DEDUCED). -/
def GHand.result (h : GHand) (m : LaneMask) (regs preds : SMap 32) (out : Nat) : GTok :=
  match h.instr.bind Instr.form with
  | none => wordsTok m 1 0 fun _ _ => 0
  | some f =>
    let o := h.ops
    let (cls, v) := if h.cResult && (!h.dResult || decide (2 ≤ out)) then (f.c, o.c) else (f.d, o.d)
    match cls with
    | .p => bitsTok m v.toNat h.tokMidx fun l => (smGet preds v.toNat).getLsbD l
    | _ => wordsTok m (max 1 (cls.regs o)) h.tokMidx fun l n => smGet regs (32 * (v.toNat + n) + l)

-- What fires ------------------------------------------------------------------------------------------------------------------------------------------------

/-- Lane masks and static indices of a handler's tokens, by port. -/
def GIter.masksAt (i : GIter) (h : GHand) : List LaneMask :=
  (List.range 4).map fun p => if h.pk.getLsbD p then ((i.at? h.key p).map Prod.fst).getD 0 else 0
def GIter.midxsAt (i : GIter) (h : GHand) : List Nat := (List.range 4).map fun p => ((i.at? h.key p).map Prod.snd).getD 0
/-- The lanes of a firing (R322): those of the iteration, or those that every token has; gmrg and gjoin take each token's own. -/
def GIter.fireMask (i : GIter) (h : GHand) : LaneMask :=
  if h.pk = 0 then i.mask
  else if h.op = 0xE1 || h.op = 0xE3 then (i.masksAt h).foldl (· ||| ·) 0
  else (h.ports.map fun p => (((i.masksAt h)[p]?).getD 0)).foldl (· &&& ·) i.mask
/-- The lanes of a mask in which the handler's guard is true. -/
def GHand.actOf (h : GHand) (ps : SMap 32) (m : LaneMask) : LaneMask :=
  let g := h.ops.guard
  maskOf ((lanesOf m).filter fun l => ((g.p.val == 7 || (smGet ps g.p.val).getLsbD l) != g.neg))

/-- What a handler of an iteration fires on in some lanes. -/
def State.fireOf (s : State) (c : GCfg) (i : GIter) (h : GHand) (m : LaneMask) (pop : Option PortElem) : GFire :=
  { mask := m, regs := i.frameFor c h, preds := s.predsFor c i h, const := c.constOf h, pop := pop, masks := i.masksAt h, midxs := i.midxsAt h }
/-- What a held write, or a load that awaits its data, fired on. -/
def GWrite.fire (x : GWrite) : GFire := { mask := x.mask, regs := x.regs, preds := x.preds, const := x.const, pop := x.pop }
def GReply.fire (x : GReply) : GFire := { mask := x.mask, regs := x.regs, preds := x.preds, const := x.const, pop := x.pop, vwait := x.vwait }

/-- The tokens that fired a handler are used up. -/
def State.consume (s : State) (i : GIter) (h : GHand) : State :=
  s.updIter i.id fun x =>
    { x with present := x.present.filter fun p => p.1 / 4 != h.key, guards := x.guards.filter fun g => g.1 / 4 != h.key,
             fired := if x.fired.contains h.key then x.fired else h.key :: x.fired }

/-- Held writes in a core's reorder unit (R328): those of the memory ports of its own grid, for its configurations and for parts of a cut (R332). -/
def State.reorderFill (s : State) (core : Nat) : Nat :=
  s.grid.iters.foldl (fun n i => match s.gcfg? i.core i.half with
    | some c => n + (i.writes.filter fun x => ((GRec.hands c.bytes)[x.key]?).any fun h => c.coreAt h.hdie == core).length
    | none => n) 0

-- Port registers and ingress ports (R53, R319, R323) -----------------------------------------------------------------------------------------------------------

/-- The port that a handler's A names: a grid ingress port where A[4] is 1, else a q port of the warp. -/
def GHand.portOf (h : GHand) (core slot : Nat) : Nat :=
  if h.ops.a.getLsbD 4 then gridPort core (h.ops.a.toNat % 16) else qPort core slot (h.ops.a.toNat % 8)
/-- The place of a handler in its warp's program order (R327). -/
def State.codeKey (s : State) (c : GCfg) (i : GIter) (pos : Nat) : List Nat := s.orderKey (fun l => GRec.ihead c.bytes l) i pos
/-- An inner level of an iteration has iterations to come that stand before a place, and a handler there. -/
def GIter.moreInside (x : GIter) (c : GCfg) (place key : List Nat) (p : GHand → Bool) : Bool :=
  x.hasInner c && x.inner != 2 && lexLt (place ++ [2 ^ 64]) key && (GRec.hands c.bytes).any fun g => decide (x.level < g.level c.bytes) && p g
/-- Reads of the same port that come first in program order (R323): of iterations in the grid, and of those that will be opened inside them. -/
def State.popFirst (s : State) (c : GCfg) (i : GIter) (h : GHand) : Bool :=
  let port := h.portOf i.core i.slot
  let reads (g : GHand) : Bool := g.ops.qa && g.portOf i.core i.slot == port
  let key := s.codeKey c i h.srcoff ++ [h.key]
  (s.gitersOf i.core i.slot).any fun x =>
    ((s.handsOf c x).any fun g => reads g && !x.fired.contains g.key && lexLt (s.codeKey c x g.srcoff ++ [g.key]) key)
      || x.moreInside c (s.codeKey c x (GRec.ihead c.bytes (x.level + 1))) key reads
/-- One element popped from a grid ingress port; the stream reads on, or, all its elements popped, the next command starts (09 R250). -/
def State.popGrid (s : State) (port : Nat) : State :=
  let gs := s.eng.gports.map fun g => if g.1 == port then (g.1, { g.2 with queue := g.2.queue.drop 1, popped := g.2.popped + 1 }) else g
  let spend (b : Bucket) : Bucket := if b.core == (port - 2 ^ 20) / 16 && b.port == port % 16 + 1 then { b with credit := b.credit - 1 } else b
  let s1 : State := { s with eng := { s.eng with gports := gs }, fe := { s.fe with buckets := s.fe.buckets.map spend } }
  s1.later (if gs.any fun g => g.1 == port && g.2.ended && g.2.queue.isEmpty then .streamStart port else .streamElementDelivery port)
/-- One element popped from a q port. -/
def State.popQ (s : State) (core slot q : Nat) : State :=
  match s.warp? core slot with
  | none => s
  | some w => match w.ports[q]? with
    | none => s
    | some p =>
      let s1 := s.setWarp { w with ports := w.ports.set q { p with queue := p.queue.drop 1, popped := p.popped + 1 } }
      if p.ended then (if p.queue.length ≤ 1 && p.queued ≠ 0 then s1.later (.streamStart (qPort core slot q)) else s1)
      else s1.later (.streamElementDelivery (qPort core slot q))
/-- The port as its reader sees it. -/
def State.portSeen (s : State) (core slot port : Nat) : Port :=
  if port < 2 ^ 20 then (((s.warp? core slot).bind fun w => w.ports[port % 8]?).getD {}) else ((s.eng.gports.find? fun g => g.1 == port).map Prod.snd).getD {}
/-- An ingress port whose leaky bucket is empty accepts nothing (12 R310). -/
def State.bucketDry (s : State) (port : Nat) : Bool :=
  decide (2 ^ 20 ≤ port) && s.fe.buckets.any fun b => b.core == (port - 2 ^ 20) / 16 && b.port == port % 16 + 1 && b.credit == 0

-- The argument network (R331) --------------------------------------------------------------------------------------------------------------------------------

/-- Elements of the argument stream that have come, as many as its port's leaky bucket lets in (12 R310): each gives every mapped handler its next
constant. -/
def State.takeArgs (s : State) (c : GCfg) : State :=
  if !GRec.argUsed c.bytes then s
  else
    let port := gridPort c.core (GRec.argPort c.bytes)
    let queue := (s.portSeen c.core 0 port).queue
    let es := match s.fe.buckets.find? fun b => b.core == c.core && b.port == GRec.argPort c.bytes + 1 with
      | some b => queue.take b.credit
      | none => queue
    let hs := GRec.hands c.bytes
    let put (rw : List (Nat × Word)) (e : PortElem) : List (Nat × Word) :=
      (List.range (GRec.narg c.bytes)).foldl (fun rw l =>
        let (cell, hidx) := GRec.arg c.bytes l
        match findHand hs 0 cell hidx with
        | some h => upsert (fun x => x.1 == h.key) (h.key, (e.words[l]?).getD 0) rw
        | none => rw) rw
    let s1 := es.foldl (fun s _ => s.popGrid port) s
    match s1.gcfg? c.core c.half with
    | some c1 => if es.isEmpty then s1 else s1.setGcfg { c1 with rewrites := es.foldl put c1.rewrites }
    | none => s1

-- End markers (R329) -------------------------------------------------------------------------------------------------------------------------------------------

/-- Ports that markers reach: those fed, directly or through others, by a read of a grid ingress port. -/
def GRec.markedPorts (r : GRec) (hs : List GHand) : Nat → List (Nat × Nat) → List (Nat × Nat)
  | 0, ps => ps
  | n + 1, ps =>
    let srcs := hs.filter fun h => (h.ops.qa && h.ops.a.getLsbD 4) || ps.any fun p => p.1 == h.key
    let new := srcs.flatMap fun h => h.dsts.filterMap fun d =>
      if dstValid d then (r.target hs h.hdie d).map fun t => (t.1.key, t.2) else none
    let all := (ps ++ new).eraseDups
    if all.length = ps.length then ps else GRec.markedPorts r hs n all

/-- A marker passes a cell: waiting constants of the cell's handlers whose rank it reaches take effect (R331). -/
def GCfg.passMarker (c : GCfg) (hs : List GHand) (h : GHand) (rank : Nat) : GCfg :=
  let here := (hs.filter fun g => g.cell == h.cell && g.hdie == h.hdie && g.cwr && decide (g.crank < rank)).map GHand.key
  let due := c.rewrites.filter fun x => here.contains x.1
  { c with consts := due.foldl (fun l x => upsert (fun y => y.1 == x.1) x l) c.consts, rewrites := c.rewrites.filter fun x => !here.contains x.1 }

/-- A handler sends an end marker of a rank, 1 day to 4 year, on each of its destinations that is a port. -/
def State.sendMarker (s : State) (c : GCfg) (i : GIter) (h : GHand) (rank pos : Nat) : State :=
  let s1 := match s.gcfg? c.core c.half with
    | some c1 => s.setGcfg (c1.passMarker (GRec.hands c.bytes) h rank)
    | none => s
  (h.dsts.zipIdx.filter fun d => dstValid d.1 && dstMode d.1 != 2).foldl (fun s d =>
    s.sendTok c h d.2 { kind := 3 + rank, iter := i.id, src := h.key, dst := d.1, out := d.2, mask := 0, aux := pos }) s1

/-- An end marker that has come to a port: forwarded once every port of the handler that carries markers has one of the position; none where a token
before it has not yet fired, or another position's marker stands there. Ports that disagree in position take no more tokens: the handler stalls (R329). -/
def State.deliverMarker (s : State) (c : GCfg) (t : GTok) : Option State :=
  let hs := GRec.hands c.bytes
  match s.giter? t.iter, hs[t.src]?.bind fun h => GRec.target c.bytes hs h.hdie t.dst with
  | some i, some (h, port) =>
    let here (m : GMark) : Bool := m.key == h.key && m.port == port
    if ((s.gitersOf i.core i.slot).any fun x => (x.at? h.key port).isSome) || c.marks.any (fun m => here m && m.pos != t.aux) then none
    else
      let mine := (GRec.markedPorts c.bytes hs hs.length []).filterMap fun p => if p.1 = h.key && h.pk.getLsbD p.2 then some p.2 else none
      let rank := ((c.marks.find? here).map GMark.rank).getD 0
      let marks := { key := h.key, port := port, rank := max rank (t.kind - 3), pos := t.aux } :: c.marks.filter fun m => !here m
      let same := marks.filter fun m => m.key == h.key && m.pos == t.aux
      if mine.all fun p => same.any fun m => m.port == p then
        let c1 := { c with marks := marks.filter fun m => !(m.key == h.key && m.pos == t.aux) }
        some ((s.setGcfg c1).sendMarker c1 i h (same.foldl (fun n m => max n m.rank) 0) t.aux)
      else some (s.setGcfg { c with marks := marks })
  | _, _ => some s

-- Faults in the grid (17 R405, R426) -------------------------------------------------------------------------------------------------------------------------------

/-- The ordinal at level 0 of the iteration that an iteration stands in. -/
def State.causeOf (s : State) (i : GIter) : Nat := (s.topOf 4 i).ord
/-- A drain because of an iteration. -/
def State.drainFor (s : State) (i : GIter) : State := s.drainWarp i.core i.slot (some (s.causeOf i))

/-- A translation fault that parks its token (R405). -/
def parks (k : Nat) (errs : List LaneErr) : Bool := (k == kPage || k == kPerm || k == kPte || k == kWindow) && !(errs.any fun e => e.kind == kVaRange)
/-- An error response (17 R399). -/
def isErrResponse (k : Nat) : Bool := decide (0x0E40 ≤ k ∧ k ≤ 0x0E46)

/-- PORTID of a parked token (17 R403). -/
def GIter.portid (i : GIter) (h : GHand) : Word := BitVec.ofNat 32 (h.cell + 64 * h.hdie + 256 * (i.tag.getD 0) + 2 ^ 18 * i.slot)

/-- The handler for a parked token is entered (R405, R422). -/
def State.enterHandler (s : State) (c : GCfg) (i : GIter) (p : GPark) : State :=
  match (GRec.hands c.bytes)[p.key]?, s.warp? i.core i.slot with
  | some h, some w =>
    let s1 := s.enterTrap w p.mask p.act (s.handAddr c h) (c.head + BitVec.ofNat 64 h.srcoff) p.kind 0 p.va p.record
    match s1.warp? i.core i.slot with
    | none => s1
    | some w1 =>
      (s1.setWarp (w1.mapThreads p.mask fun _ t => { t with gridFault := some (i.portid h) })).updRun i.core i.slot fun r =>
        { r with handler := some (i.id, p.key), answered := false }
  | _, _ => s

/-- Tokens parked in a cell, for both configurations (R405; R318). -/
def State.parkedIn (s : State) (core cell : Nat) : Nat :=
  s.grid.cfgs.foldl (fun n c =>
    let keys := ((GRec.hands c.bytes).filter fun g => c.coreAt g.hdie == core && g.cell == cell).map GHand.key
    (s.grid.iters.filter fun i => i.core == c.core && i.half == c.half).foldl (fun n i => n + (i.parked.filter fun p => keys.contains p.key).length) n) 0

/-- A faulting address token is parked with its records, and its handler entered unless one runs (R405, R422). -/
def State.park (s : State) (c : GCfg) (i : GIter) (h : GHand) (m act : LaneMask) (k : Nat) (errs : List LaneErr) : State :=
  if 8 ≤ s.parkedIn (c.coreAt h.hdie) h.cell then s.drainFor i
  else match s.warp? i.core i.slot with
    | none => s
    | some w =>
      let base : FaultRec :=
        { iaddr := s.handAddr c h, va := ((errs.head?).map LaneErr.va).getD 0, lmask := maskOf (errs.map LaneErr.lane), kind := k, sub := w.sub,
          slot := i.slot, ltag := ((s.launchOf w).map Launch.tag).getD 0, lmid := GRec.lmid c.bytes, die := (dieOf c.core + h.hdie) % 4, flags := 2,
          seq := i.seq h.midx, itag := i.tag, iter := i.ord, portid := i.portid h }
      let (a, s1) := s.putRecords c.ctx (excRecords { kind := k, errs := errs } base)
      let p : GPark := { key := h.key, mask := m, act := act, kind := k, va := base.va, midx := h.midx, record := a }
      let s2 := s1.updIter i.id fun x => { x with parked := x.parked ++ [p] }
      if ((s2.grun? i.core i.slot).bind GRun.handler).isSome then s2 else s2.enterHandler c i p

/-- An instruction of an iteration that met a trap or fault before its iteration commits: parked, or its warp drains (R405, R426). -/
def State.meet (s : State) (c : GCfg) (i : GIter) (h : GHand) (m act : LaneMask) (k : Nat) (errs : List LaneErr) : State :=
  if parks k errs then s.park c i h m act k errs else s.drainFor i

/-- Error responses after the commit has begun are due in their threads (R426). -/
def State.deferGrid (s : State) (c : GCfg) (i : GIter) (h : GHand) (errs : List LaneErr) : State :=
  match s.warp? i.core i.slot with
  | none => s
  | some w =>
    let due (l : Nat) (t : Thread) : Thread :=
      match errs.find? fun e => e.lane == l with
      | some e =>
        let d : Deferred :=
          { kind := e.kind, va := e.va, iaddr := s.handAddr c h, page := e.page, seq := i.seq h.midx, itag := i.tag, iter := i.ord, lmid := GRec.lmid c.bytes }
        { t with deferred := t.deferred ++ [d] }
      | none => t
    s.setWarp (w.mapThreads (maskOf (errs.map LaneErr.lane)) due)

-- Commit and retirement: when (R328, R425) ------------------------------------------------------------------------------------------------------------------------

/-- Everything that decides a memory operation's address and lanes has come: tokens, and slots of its frame. -/
def State.addressCame (s : State) (c : GCfg) (i : GIter) (h : GHand) : Bool :=
  i.fired.contains h.key || (!h.ops.qa && (h.pk != 0 || i.opened) && ((h.ports.filter h.addressPort).all fun p => (i.at? h.key p).isSome)
    && s.slotsCame c i h (h.addressSlots c.bytes))
/-- An iteration is ready to commit, but for the checks of its addresses (R425): they have all come, every token that can reach a drain point has fired,
and none is parked. -/
def State.commitReady (s : State) (c : GCfg) (i : GIter) : Bool :=
  i.parked.isEmpty && (s.handsOf c i).all fun h => h.isClose
    || ((!h.isMem || s.addressCame c i h) && (h.fate c.bytes c.heads (s.kmap i.core i.slot) != .drain || i.fired.contains h.key))

/-- The held write of an iteration that is next in sequence-tag order. -/
def GIter.nextWrite (i : GIter) : Option GWrite :=
  i.writes.foldl (fun b x => match b with
    | none => some x
    | some y => if x.midx < y.midx then some x else b) none
/-- Iterations that a write of an iteration needs checked: itself, and those around it (R425; log entry 22, DEDUCED for nested levels). -/
def State.unchecked (s : State) (i : GIter) : List GIter := (s.chainOf 4 i).filter fun x => !x.checked

/-- The next held write of the iteration may take effect (R425): the iteration is the oldest, every operation before it has been performed, and the
iteration and those around it are ready to commit. -/
def State.canCommit (s : State) (c : GCfg) (i : GIter) : Bool :=
  match i.nextWrite, s.oldestIter i.core i.slot, s.grun? i.core i.slot with
  | some x, some j, some run =>
    j.id == i.id && i.parked.isEmpty && (i.mustFinish || !run.drain) && (!c.postKey x.key || !i.hasInner c || i.inner == 2)
      && ((s.handsOf c i).all fun h => !h.isMem || decide (x.midx ≤ h.midx) || i.fired.contains h.key)
      && !(i.replies.any fun r => decide (r.midx < x.midx)) && (s.unchecked i).all (s.commitReady c)
  | _, _, _ => false

/-- The iteration has nothing left to do (R328). -/
def State.canRetire (s : State) (c : GCfg) (i : GIter) : Bool :=
  (s.oldestIter i.core i.slot).any (fun j => j.id == i.id) && i.tag.isSome && i.opened && (!i.hasInner c || i.inner == 2) && i.writes.isEmpty
    && i.replies.isEmpty && i.parked.isEmpty && i.present.isEmpty && i.taken.isSome
    && !(s.grid.chans.any fun x => x.core == i.core && x.toks.any fun t => t.iter == i.id)
    && !(s.grid.waiting.any fun t => t.goal == some i.id && dstMode t.dst != 2)
    && (s.handsOf c i).all fun h => h.isClose || h.pk != 0 || i.fired.contains h.key

/-- What a warp's oldest iteration owes now: a drain that waited, the next write, or retirement; the stall count is brought up to now. -/
def State.gridCheck (s0 : State) (core slot : Nat) : State :=
  match s0.grun? core slot, s0.oldestIter core slot with
  | some run, some j =>
    let s := s0.stallTick core run.half
    if run.drain && run.handler.isNone && !j.mustFinish then s.drainNow core slot (some run.cause)
    else match s.gcfg? core run.half with
      | none => s
      | some c =>
        if s.canCommit c j then s.owe (.iterationCommit core j.id)
        else if s.canRetire c j then s.owe (.iterationRetire core j.id) else s
  | _, _ => s0

-- Firing (R322) -----------------------------------------------------------------------------------------------------------------------------------------------------

/-- A load that may be performed before older operations (R193): one without an order. -/
def GHand.plainLoad (h : GHand) : Bool :=
  match h.instr with
  | some (.ld _ _) | some (.lds _ _) | some (.ldp _ _) | some (.ldc _) => !isAcq h.ops && !isRel h.ops
  | _ => false
/-- A steer (R322): the lanes that take its branch to destinations 0 and 1, the others to 2 and 3. -/
def State.fireSteer (s : State) (c : GCfg) (i : GIter) (h : GHand) (m act : LaneMask) : State :=
  let d := h.ops.d.toNat
  let isLoop := h.op == 0xA5
  let val (l : Nat) : Word := if isLoop then smGet (i.frameFor c h) (32 * d + l) - (if act.getLsbD l then 1 else 0) else 1
  let taken := if isLoop then maskOf ((lanesOf act).filter fun l => val l != 0) else act
  (s.consume i h).sendTo c i h fun n => wordsTok (if n < 2 then taken else m &&& ~~~taken) 1 0 fun l _ => val l

/-- A form that computes: an arithmetic, special-function, constant, file-a or grid-only handler. -/
def State.fireForm (s : State) (c : GCfg) (i : GIter) (h : GHand) (m act : LaneMask) (pop : Option PortElem) : State :=
  let r := s.runPlaced c i h (s.fireOf c i h m pop)
  match r.trap with
  | some _ => s.drainFor i
  | none =>
    let s1 := r.st.consume i h
    if h.op ≥ 0xE0 then
      r.outs.foldl (fun s g => s.sendTo c i h (fun _ => wordsTok g.mask 1 g.midx fun l _ => smGet g.words l) g.delay) s1
    else s1.sendTo c i h (h.result act r.regs r.preds)

/-- A memory or engine form at its port (R328, R425): checked at once; a held form waits for the commit, another for its turn. `s1` is the state in which
it goes on: one in which it has read the element `pop` of its port. -/
def State.fireMem (s : State) (c : GCfg) (i : GIter) (h : GHand) (m act : LaneMask) (pop : Option PortElem) (s1 : State) : State :=
  let x := s.fireOf c i h m pop
  if act = 0 then (s1.consume i h).sendTo c i h (h.result 0 x.regs x.preds)
  else
    match (s.runPlaced c i h x).trap with
    | some (k, errs) => if isErrResponse k && h.op != 0x84 then go x else s.meet c i h m act k errs
    | none => go x
where
  go (x : GFire) : State :=
    if h.held then
      let w : GWrite := { key := h.key, midx := h.midx, mask := m, regs := x.regs, preds := x.preds, pop := pop, const := x.const }
      (s1.consume i h).updIter i.id fun y => { y with writes := y.writes ++ [w] }
    else if h.op = 0x67 then ((s1.runPlaced c i h x).st.consume i h).sendTo c i h (h.result act x.regs x.preds)
    else
      let id := s1.nonce
      let r : GReply := { id := id, key := h.key, midx := h.midx, mask := m, regs := x.regs, preds := x.preds, pop := pop, const := x.const,
                          sent := h.plainLoad }
      let s2 : State := { s1 with nonce := id + 1 }
      ((s2.consume i h).updIter i.id fun y => { y with replies := y.replies ++ [r] }).later (.memoryPortReply id)

/-- A read of a port at its turn (R319, R323): the form takes the element in the lanes that it covers, and its end marker follows the token. -/
def State.firePop (s : State) (c : GCfg) (i : GIter) (h : GHand) (m act : LaneMask) : State :=
  let port := h.portOf i.core i.slot
  let p := s.portSeen i.core i.slot port
  if port < 2 ^ 20 && act = 0 then (s.consume i h).sendTo c i h (h.result 0 i.frame [])
  else match p.queue with
    | [] => s.drainFor i
    | e :: _ =>
      if (e.errs.any fun x => act.getLsbD x.lane) then s.drainFor i
      else
        let s1 := if port < 2 ^ 20 then s.popQ i.core i.slot (port % 8) else s.popGrid port
        let s2 := s1.updIter i.id fun x => { x with pops := x.pops ++ [(port, e)] }
        let s3 :=
          if h.isMem then s.fireMem c i h (m &&& e.mask) (act &&& e.mask) (some e) s2
          else s2.fireForm c ((s2.giter? i.id).getD i) h (m &&& e.mask) (act &&& e.mask) (some e)
        if 2 ^ 20 ≤ port && e.marker ≠ 0 then s3.sendMarker c i h e.marker (p.popped + 1) else s3

/-- A ready handler fires. -/
def State.fireNow (s : State) (c : GCfg) (i : GIter) (h : GHand) : State :=
  let m := i.fireMask h
  let act := h.actOf (s.predsFor c i h) m
  let fate := h.fate c.bytes c.heads (s.kmap i.core i.slot)
  if h.isOpen then (s.consume i h).openIter c i h.ops.c.toNat act
  else if fate == .drain then (if act = 0 then (s.consume i h).sendTo c i h (h.result 0 (i.frameFor c h) []) else s.drainFor i)
  else if fate == .steer then s.fireSteer c i h m act
  else if h.ops.qa then s.firePop c i h m act
  else if h.isMem then s.fireMem c i h m act none s
  else s.fireForm c i h m act none

/-- A ready handler that cannot fire yet: a channel, the reorder unit or a bucket lowers ready, or its port has no element for it. -/
def State.fireHeldUp (s : State) (c : GCfg) (i : GIter) (h : GHand) : Bool :=
  let port := h.portOf i.core i.slot
  let p := s.portSeen i.core i.slot port
  s.chanFull c h || (h.held && decide (Config.reorderEntries ≤ s.reorderFill (c.coreAt h.hdie)))
    || (h.ops.qa && (s.bucketDry port || s.popFirst c i h || (p.queue.isEmpty && ((p.bound && !p.ended) || p.queued != 0))))

/-- HANDLER_FIRE (R322): of a core's half, a cell (with 64 times its relative die), a handler index and an iteration. -/
def execHandlerFire (core cfg cell hidx iter : Nat) (s : State) : Out :=
  .next (match s.giter? iter, s.gcfg? core cfg with
    | some i, some c0 =>
      if i.core ≠ core || i.half ≠ cfg then s
      else
        let s0 := s.takeArgs c0
        let c := (s0.gcfg? core cfg).getD c0
        match (s0.handsOf c i).find? fun h => h.hdie == cell / 64 && h.cell == cell % 64 && h.hidx == hidx with
        | none => s0
        | some h =>
          if !s0.ready c i h then s0
          else if s0.fireHeldUp c i h then s0.later (.handlerFire core cfg cell hidx iter)
          else (s0.fireNow c i h).gridCheck core i.slot
    | _, _ => s)

/-- TOKEN_TRANSFER (R326): the first token of a channel, if its receiver has room. -/
def execTokenTransfer (core chan : Nat) (s : State) : Out :=
  .next (match s.grid.chans.find? fun x => x.core == core && x.id == chan with
    | none => s
    | some ch =>
      match ch.toks, s.gcfg? core ch.half with
      | t :: rest, some c =>
        let slot := ((s.giter? t.iter).map GIter.slot).getD 0
        let s1 := { s with grid := { s.grid with chans := mapFirst (fun x => x.id == chan) (fun x => { x with toks := rest }) s.grid.chans } }
        match (if t.kind < 4 then s1.deliverTok c t else s1.deliverMarker c t) with
        | some s2 => s2.gridCheck core slot
        | none => s.later (.tokenTransfer core chan)
      | _, _ => s)

-- Loads (R193, R328) ---------------------------------------------------------------------------------------------------------------------------------------------------

/-- Bytes that a memory form names, one entry for each element: the space (0 global, else a workgroup's stage memory), the address and the length. -/
def State.named (s : State) (c : GCfg) (h : GHand) (slot : Nat) (x : GFire) : List (Nat × Nat × Nat) :=
  match s.warp? c.core slot with
  | none => []
  | some w0 =>
    let w : Warp := { w0 with regs := x.regs, preds := x.preds }
    let f : Focus := { core := c.core, slot := slot, lanes := x.mask, pc := 0, hdr := 0, cnt := 0, fx := 15, fy := 15, const := x.const, grid := true }
    let o := h.ops
    let act := activeLanes f w o.guard
    let elems (n size : Nat) (a : Nat → LaneAddr) : List (Nat × Nat × Nat) := (lanesOf act).flatMap fun l => match a l with
      | .at_ va => (List.range n).map fun e => (0, va + e * size, size)
      | _ => []
    let global (n : Nat) : List (Nat × Nat × Nat) := elems n (elemSize o) fun l => globalAddr (srcA64 w o l) (srcOffset s f w o l) 0
    let stage (n : Nat) : List (Nat × Nat × Nat) :=
      (stageAddrs s w act (srcA32 f w o) (srcOffset s f w o) 0 0 true).flatMap fun a => match a.2 with
        | .ok (g, off) => (List.range n).map fun e => (g + 1, off + e * elemSize o, elemSize o)
        | .error _ => []
    let atom : List (Nat × Nat × Nat) := (lanesOf act).filterMap fun l => match rmwAddr s w o l with
      | (.at_ _, some (g, off)) => some (g + 1, off, rmwSize o)
      | (.at_ va, none) => some (0, va, rmwSize o)
      | _ => none
    match h.instr with
    | some (.ld n _) | some (.st n _) => global n.count
    | some (.ldc _) => global 1
    | some (.lds n _) | some (.sts n _) => stage n.count
    | some (.ldp n _) | some (.stp n _) =>
      elems n.count (elemSize o) fun l => s.privAddr w l (srcA32 f w o l) (srcOffset s f w o l) 1 1
    | some (.atom _ _) | some (.atomCas _) | some (.atomFadd _) | some (.red _ _) | some (.redFadd _) => atom
    | some (.ldv _) | some (.stv _) => elems 1 8 fun l => globalAddr (srcA64 w o l &&& ~~~7) 0 0
    | _ => []

/-- Two lists of named bytes meet. -/
def namesMeet (a b : List (Nat × Nat × Nat)) : Bool :=
  a.any fun x => b.any fun y => x.1 == y.1 && decide (x.2.1 < y.2.1 + y.2.2 ∧ y.2.1 < x.2.1 + x.2.2)

/-- A store whose bytes a younger load of its iteration takes from the reorder unit (R328). -/
def GHand.plainStore (h : GHand) : Bool :=
  match h.instr with
  | some (.st _ _) | some (.sts _ _) | some (.stp _ _) => true
  | _ => false
/-- A form whose later reads wait for it (07 R193): an acquire, or a test of an engine operation (07 R189). -/
def GHand.acquires (h : GHand) : Bool :=
  match h.instr with
  | some (.btTest _) | some (.ldv _) => true
  | some (.fence _) => isAcq h.ops
  | _ => decide (0x60 ≤ h.op ∧ h.op < 0x78) && isAcq h.ops && (h.op < 0x66 || 0x70 ≤ h.op)

/-- The lanes of a memory operation as far as the tokens that decide its address say. -/
def GIter.addressMask (i : GIter) (h : GHand) : LaneMask :=
  i.fireMask { h with pk := (h.ports.filter h.addressPort).foldl (fun m p => m ||| ((1#4) <<< p)) 0 }

/-- A memory operation of a warp's iterations that has not fired yet may concern a younger read: it is no load of other bytes or store to other bytes. -/
def State.mayMeet (s : State) (c : GCfg) (x : GIter) (g : GHand) (mine : List (Nat × Nat × Nat)) : Bool :=
  !s.addressCame c x g || g.acquires || !(g.plainStore || g.plainLoad)
    || namesMeet mine (s.named c g x.slot (s.fireOf c x g (x.addressMask g) none))

/-- A reply that cannot be given yet: an older operation of the warp comes first (R192, R193). A load without an order goes before older operations, but for
older acquires, older reads of its bytes, and older writes of them that are no plain store; another waits until its iteration is the oldest, and a fence or
a read of order .sc for every older operation. -/
def State.replyBlocked (s : State) (c : GCfg) (i : GIter) (h : GHand) (r : GReply) : Bool :=
  let hs := GRec.hands c.bytes
  let key := s.memKey c i r.midx
  let mine := s.named c h i.slot r.fire
  let fence := h.instr.any fun
    | .fence _ => true
    | _ => false
  (!h.plainLoad && !((s.oldestIter i.core i.slot).any fun j => j.id == i.id))
    || (s.gitersOf i.core i.slot).any fun x =>
      ((s.handsOf c x).any fun g => g.isMem && !x.fired.contains g.key && lexLt (s.memKey c x g.midx) key && (!h.plainLoad || s.mayMeet c x g mine))
        || (x.replies.any fun y => lexLt (s.memKey c x y.midx) key && match hs[y.key]? with
          | some g => !h.plainLoad || g.acquires || !g.plainLoad || namesMeet mine (s.named c g i.slot y.fire)
          | none => false)
        || (x.writes.any fun y => lexLt (s.memKey c x y.midx) key && match hs[y.key]? with
          | some g => g.acquires || fence || isRel h.ops || (!g.plainStore && namesMeet mine (s.named c g i.slot y.fire))
          | none => false)
        || x.moreInside c ((s.memKey c x 0).dropLast ++ [2 * GRec.split c.bytes (x.level + 1)]) key GHand.isMem

/-- Held plain stores of a warp that come before a place in its program order, in that order (R193, R328). -/
def State.olderStores (s : State) (c : GCfg) (i : GIter) (midx : Nat) : List (GIter × GHand × GWrite) :=
  let hs := GRec.hands c.bytes
  let key (x : GIter × GHand × GWrite) : List Nat := s.memKey c x.1 x.2.2.midx
  let all := (s.gitersOf i.core i.slot).flatMap fun x => x.writes.filterMap fun y => match hs[y.key]? with
    | some g => if g.plainStore && lexLt (s.memKey c x y.midx) (s.memKey c i midx) then some (x, g, y) else none
    | none => none
  all.foldl (fun l x => (l.filter fun y => lexLt (key y) (key x)) ++ [x] ++ l.filter fun y => !lexLt (key y) (key x)) []

/-- MEMORY_PORT_REPLY (R328): the data of a load or a fence's end, with the bytes of the warp's own older held stores; the result token is sent. -/
def execMemoryPortReply (id : Nat) (s : State) : Out :=
  .next (match s.grid.iters.find? fun i => i.replies.any fun r => r.id == id with
    | none => s
    | some i =>
      match i.replies.find? (fun r => r.id == id), s.gcfg? i.core i.half with
      | some r, some c =>
        match (GRec.hands c.bytes)[r.key]? with
        | none => s
        | some h =>
          let wide := h.op < 0x68 && isRel h.ops && Scope.wide h.ops.sc
          let again (s : State) (g : GReply → GReply) : State :=
            ((s.updIter i.id fun x => { x with replies := x.replies.map fun y => if y.id = id then g y else y }).later (.memoryPortReply id)).gridCheck
              i.core i.slot
          let held := s.replyBlocked c i h r || s.chanFull c h || i.parked.any fun p => p.key == r.key
          if held || (wide && r.mark.any fun n => s.olderThan i.core i.slot n) then again s fun y => { y with sent := !held }
          else if wide && r.mark.isNone then
            let s1 := s.writeBackAll i.core c.ctx
            again s1 fun y => { y with mark := some s1.nonce, sent := true }
          else
            let older := s.olderStores c i r.midx
            let overlay := older.foldl (fun t x => (t.runPlaced c x.1 x.2.1 x.2.2.fire).st) s
            let real := s.runPlaced c i h r.fire
            let seen := if older.isEmpty then real else overlay.runPlaced c i h r.fire
            let act := h.actOf r.preds r.mask
            if real.wait ≠ 0 then again real.st fun y => { y with sent := true, vwait := real.vwait }
            else
              match (if i.committing then none else real.trap) with
              | some (k, errs) => if parks k errs then again (s.park c i h r.mask act k errs) (fun y => y) else real.st.drainFor i
              | none =>
                let errs := (real.trap.map Prod.snd).getD []
                let s1 := real.st.updIter i.id fun x => { x with replies := x.replies.filter fun y => y.id != id }
                let s2 := if errs.isEmpty then s1 else s1.deferGrid c i h errs
                let s3 := if h.acquires && Scope.wide h.ops.sc then s2.joinAll c.core c.ctx else s2
                (s3.sendTo c i h (h.result act seen.regs seen.preds)).gridCheck i.core i.slot
      | _, _ => s)

-- Commit (R425) and retirement (R323, R328) ------------------------------------------------------------------------------------------------------------------------------

/-- A held form that waits for the older writes of its core: a wide release, `stv`, and an engine issue. -/
def GHand.releases (h : GHand) : Bool :=
  match h.instr with
  | some (.stv _) => true
  | _ => decide (0x80 ≤ h.op ∧ h.op < 0x90) || (isRel h.ops && Scope.wide h.ops.sc)
/-- A form whose error response before the commit drains the warp (17 R426): an atomic that returns a value, or a test of an operation that has failed. -/
def GHand.drainsOnError (h : GHand) : Bool :=
  match h.instr with
  | some (.atom _ _) | some (.atomCas _) | some (.atomFadd _) | some (.btTest _) => true
  | _ => false

/-- An iteration begins to commit, and with it those around it. -/
def State.begin (s : State) (i : GIter) : State :=
  ((s.chainOf 4 i).drop 1).foldl (fun s x => s.updIter x.id fun y => { y with begun := true })
    (s.updIter i.id fun y => { y with committing := true, begun := true })

/-- The next held write takes effect. A fault that comes only now parks the token with its record, or drains the warp, where nothing of the iteration has
taken effect (17 R405, R426). -/
def State.commitOne (s : State) (c : GCfg) (i : GIter) (h : GHand) (x : GWrite) : State :=
  let again (s : State) : State := s.later (.iterationCommit i.core i.id)
  let act := h.actOf x.preds x.mask
  let r := s.runPlaced c i h x.fire
  match r.trap with
  | some (k, errs) =>
    if !i.committing && parks k errs then s.park c i h x.mask act k errs
    else if !i.committing && (!isErrResponse k || h.drainsOnError) then s.drainFor i
    else finish r (r.st.deferGrid c i h (if errs.isEmpty then (lanesOf x.mask).map fun l => { lane := l, kind := k, va := 0, page := 4096 } else errs))
  | none =>
    if r.wait ≠ 0 then
      let cut (z : GWrite) : GWrite := if z.key = x.key then { z with mask := r.wait, regs := r.regs, preds := r.preds } else z
      let s1 := if r.wait &&& act != act then r.st.begin i else r.st
      again (s1.updIter i.id fun y => { y with writes := y.writes.map cut })
    else finish r r.st
where
  finish (r : Fired) (s1 : State) : State :=
    let s2 := (s1.begin i).updIter i.id fun y => { y with writes := y.writes.filter (fun z => z.key != x.key), mark := none }
    let s3 := if h.acquires && Scope.wide h.ops.sc then s2.joinAll c.core c.ctx else s2
    (s3.sendTo c i h (h.result (h.actOf x.preds x.mask) r.regs r.preds)).gridCheck i.core i.slot

/-- What an iteration's addresses that have not fired meet (R425), and a failed operation that its `bt.test`s name (09 R243): handler, lanes, kind. -/
def State.commitFault (s : State) (c : GCfg) (i : GIter) : Option (GHand × LaneMask × LaneMask × Nat × List LaneErr) :=
  let early := (s.handsOf c i).filter fun h => h.isMem && !h.ops.qa && !i.fired.contains h.key
  let tests := i.writes.filterMap fun x => match (GRec.hands c.bytes)[x.key]? with
    | some h => if h.op = 0x84 then some (h, x) else none
    | none => none
  (early.findSome? fun h =>
    let x := s.fireOf c i h (i.addressMask h) none
    let act := h.actOf x.preds x.mask
    if act = 0 then none
    else match (s.runPlaced c i h x).trap with
      | some (k, errs) => if isErrResponse k && !(h.op == 0x84) then none else some (h, x.mask, act, k, errs)
      | none => none).or
  (tests.findSome? fun y => ((s.runPlaced c i y.1 y.2.fire).trap).map fun t => (y.1, y.2.mask, y.1.actOf y.2.preds y.2.mask, t.1, t.2))

/-- ITERATION_COMMIT (R425): before the first write every unfired address is checked, of the iteration and of those around it; a release first waits for the
core's older writes. -/
def execIterationCommit (core iter : Nat) (s : State) : Out :=
  .next (match s.giter? iter with
    | none => s
    | some i =>
      match s.gcfg? core i.half, i.nextWrite with
      | some c, some x =>
        if i.core ≠ core || !s.canCommit c i then s
        else
          match (s.unchecked i).findSome? fun y => (s.commitFault c y).map fun z => (y, z) with
          | some (y, h, m, act, k, errs) => (s.meet c y h m act k errs).gridCheck core i.slot
          | none =>
            match (GRec.hands c.bytes)[x.key]? with
            | none => s
            | some h =>
              let s0 := (s.unchecked i).foldl (fun s y => s.updIter y.id fun z => { z with checked := true }) s
              if s.chanFull c h then s0.later (.iterationCommit core iter)
              else if h.releases then
                match i.mark with
                | none =>
                  let s1 := s0.writeBackAll core c.ctx
                  (s1.updIter i.id fun y => { y with mark := some s1.nonce }).later (.iterationCommit core iter)
                | some n => if s0.olderThan core i.slot n then s0.later (.iterationCommit core iter) else s0.commitOne c i h x
              else s0.commitOne c i h x
      | _, _ => s)

/-- Tokens of an iteration that retires, which wait for its successor's tag. -/
def GIter.handOn (i : GIter) (next : Option GIter) (t : GTok) : Option GTok :=
  if t.iter ≠ i.id || t.goal.isSome then some t
  else if dstMode t.dst = 1 || dstMode t.dst = 2 then next.map fun n => { t with goal := some n.id }
  else none

/-- ITERATION_RETIRE (R323, R328): lanes that the back edge did not take leave; the tag is free; the warp leaves the grid with its last lane. What the lanes of
an inner iteration leave is what the handlers after that level read, and comes into the frame after the iteration around it. -/
def execIterationRetire (core iter : Nat) (s : State) : Out :=
  .next (match s.giter? iter with
    | none => s
    | some i =>
      match s.gcfg? core i.half, s.warp? core i.slot with
      | some c, some w =>
        if i.core ≠ core || !s.canRetire c i then s
        else
          let taken := i.taken.getD 0
          let out := i.mask &&& ~~~taken
          let s1 := s.setGcfg { c with stall := 0, mark := s.now }
          let waiting := s1.grid.waiting.filterMap (i.handOn (s.nextIter i))
          let s2 := { s1 with grid := { s1.grid with iters := s1.grid.iters.filter (fun x => x.id != i.id), waiting := waiting } }
          if i.level = 0 then
            let w1 := (frameToWarp c.bytes i.after out w).mapThreads out fun _ t =>
              { t with pc := c.head + BitVec.ofNat 64 (GRec.bodyb c.bytes), clh := none, wait := .none, inGrid := false }
            let s3 := s2.setWarp { w1 with gretire := w1.gretire + 1 }
            if taken = 0 then s3.leaveGrid core i.slot i.half c.ctx else (s3.grantTags core i.half).gridCheck core i.slot
          else
            let slots := carriedSlots ((GRec.hands c.bytes).filter fun h => decide (i.level ≤ h.level c.bytes))
            let s3 := s2.setWarp { w with gretire := w.gretire + 1 }
            let s4 := match i.parent with
              | none => s3
              | some p =>
                let up (x : GIter) : GIter :=
                  { x with
                    inside := copySlots slots out i.after x.inside, after := copySlots slots out i.after x.after, pops := x.pops ++ i.pops,
                    inner := if taken = 0 then 2 else x.inner }
                (s3.updIter p up).wake p
            (s4.grantTags core i.half).gridCheck core i.slot
      | _, _ => s)

-- The end of a parking (17 R406, R422) --------------------------------------------------------------------------------------------------------------------------------------

/-- A parked token tries its access again. -/
def State.resumeToken (s : State) (i : GIter) (key : Nat) : State :=
  let s1 := s.updIter i.id fun x => { x with parked := x.parked.filter fun p => p.key != key }
  (s1.wake i.id).gridCheck i.core i.slot

/-- The parked token that a PORTID names, of a context, in the grid of a core. -/
def State.parkedAt (s : State) (core ctx : Nat) (t : Nat) : Option (GIter × Nat) :=
  (s.grid.iters.filter fun i => i.core == core && i.slot == bitsAt t 18 4 && i.tag == some (bitsAt t 8 10)).findSome? fun i =>
    match s.gcfg? core i.half with
    | none => none
    | some c =>
      if c.ctx ≠ ctx then none
      else i.parked.findSome? fun p => match (GRec.hands c.bytes)[p.key]? with
        | some h => if h.cell == bitsAt t 0 6 && h.hdie == bitsAt t 6 2 then some (i, p.key) else none
        | none => none

/-- One lane's fault.done (R406). -/
def State.faultDone (s : State) (core ctx : Nat) (a : Word) : State :=
  if a.extractLsb' 22 9 != 0 then s
  else match s.parkedAt core ctx (a.extractLsb' 0 31).toNat with
    | none => s
    | some (i, key) =>
      let s1 := s.updRun core i.slot fun r => if r.handler = some (i.id, key) then { r with answered := true } else r
      if a.getLsbD 31 then s1.updRun core i.slot fun r => { r with drain := true, cause := max r.cause (s.causeOf i) }
      else s1.resumeToken i key

/-- The least of the parked tokens of a warp in sequence-tag order (R422; R327). -/
def State.oldestParked (s : State) (core slot : Nat) : Option (GIter × GPark) :=
  let key (x : GIter × GPark) : List Nat := match s.gcfg? core x.1.half with
    | some c => s.memKey c x.1 x.2.midx
    | none => []
  ((s.gitersOf core slot).flatMap fun i => i.parked.map fun p => (i, p)).foldl (fun b x => match b with
    | none => some x
    | some y => if lexLt (key x) (key y) then some x else b) none

/-- The last lane of a grid-fault handler has returned (R406, R422): a marked drain is done; else the token goes on if the handler did not say so, and
the handler is entered again for the oldest token still parked. -/
def State.gridReturn (s : State) (core slot : Nat) : State :=
  match s.grun? core slot with
  | none => s
  | some run =>
    let s1 := s.updRun core slot fun r => { r with handler := none }
    if run.drain then s1.drainWarp core slot (some run.cause)
    else
      let s2 := match run.handler, run.answered with
        | some (id, key), false => match s1.giter? id with
          | some i => if i.parked.any fun p => p.key == key then s1.resumeToken i key else s1
          | none => s1
        | _, _ => s1
      match s2.oldestParked core slot, s2.gcfg? core run.half with
      | some (i, p), some c => if ((s2.grun? core slot).bind GRun.handler).isSome then s2 else s2.enterHandler c i p
      | _, _ => s2.gridCheck core slot

end Sys2Proof.Machine
end

