-- ==== Sys2Proof/Machine/Graphs.lean ====
section
/-!
DEFINITION. Machine/Graphs.lean: command graphs: firing and ending nodes, iterations, HOSTRING records and timers (12 R302 to R304, R423, R424;
15 R377).
-/
namespace Sys2Proof.Machine

/-- A graph by number, and one of its nodes. -/
def State.graph? (s : State) (g : Nat) : Option Graph := s.alm.graphs.find? fun x => x.id == g
def State.gnode? (s : State) (g k : Nat) : Option (Graph × GNode) :=
  match s.graph? g with
  | none => none
  | some x => x.nodes[k]?.map fun n => (x, n)
/-- A node of a graph changed. -/
def State.updNode (s : State) (g k : Nat) (f : GNode → GNode) : State :=
  s.updGraph g fun x => match x.nodes[k]? with
    | some n => { x with nodes := x.nodes.set k (f n) }
    | none => x

/-- VEC of a HOSTRING node (R300). -/
def GNode.vec (n : GNode) : Nat := n.at_ 0x26 1

/-- A HOSTRING's access has met a fault that holds it: one record for each address while the hold lasts, and a retry (R423, R424). -/
def State.holdNode (s : State) (x : Graph) (k : Nat) (n : GNode) (e : Nat × Nat) (again : Instr) : State :=
  let s1 := if n.held.isSome && n.noted.contains e.2 then s else s.engRecord x.ctx e.1 e.2 0 0 0 x.tag x.home 0 0 true
  (s1.updNode x.id k fun n => { n with held := some e, noted := if n.held.isSome then n.noted ++ [e.2] else [e.2] }).after 20000 again

/-- The vector of a HOSTRING raised and its PEND 0 (R304), once PEND has been written; a write that fails is held, or ends the node in error, with its
graph (R424). -/
def State.clearPend (s : State) (g k : Nat) : State :=
  match s.gnode? g k with
  | none => s
  | some (x, n) =>
    let done (n : GNode) : GNode := { n with pend := 0, timer := none, held := none, noted := [] }
    match s.vwrite (Who.almanac x.ctx x.home) (x.home * Config.coresPerDie) true (n.addr.toNat + 0x3C) (bytesOf 4 0) with
    | (none, s1) => (s1.queueIrq x.q n.vec).updNode g k done
    | (some (kd, va), s1) =>
      if heldKind kd then
        (s1.holdNode x k n (kd, va) (.hostringCtimeExpiry g k)).updNode g k fun n => { n with timer := some (n.timer.getD s.now) }
      else ((s1.almFault x.ctx x.home kd va x.tag).updNode g k done).updGraph g fun y => { y with failed := y.failed.or (some kd) }

/-- A graph completes (R296, R302): the completion object and the packet. -/
def State.graphComplete (s : State) (g : Graph) (st status ktag : Nat) : State :=
  let s2 := { s with alm := { s.alm with graphs := s.alm.graphs.filter fun x => x.id != g.id } }
  ((s2.putCompletion g.ctx g.home g.compl st status g.tag ktag g.tstart.toNat g.iter).packetComplete g.q g.idx g.tag none).pokeAll

/-- A graph that ends first raises the vectors of its HOSTRINGs with PEND once more, and PEND is 0 (R304; the final state of the last program of chapter
15); it waits while a write of PEND is held, unless it has been killed. -/
def State.graphEnds (s : State) (g : Graph) (code : Nat) : State :=
  let due := (List.range g.nodes.length).filter fun k => g.nodes[k]?.any fun n => n.typ == 2 && n.pend != 0 && n.held.isNone
  let s1 := due.foldl (fun s k => s.clearPend g.id k) s
  match s1.graph? g.id with
  | none => s1
  | some x => match x.killed, x.failed with
    | some (k, t), _ => s1.graphComplete x 4 k t
    | none, f =>
      if x.nodes.any fun n => n.typ == 2 && n.pend != 0 && n.held.isSome then s1
      else match f with
        | some c => s1.graphComplete x 3 c 0
        | none => s1.graphComplete x (if code = 0 then 2 else 3) code 0

/-- What follows when nothing of an iteration runs any more (R302, R303). -/
def State.graphCheck (s : State) (id : Nat) : State :=
  match s.graph? id with
  | none => s
  | some g =>
    let stopped := g.failed.isSome || g.killed.isSome
    if g.nodes.any fun n => n.st == .running || (!stopped && n.st == .ready) then s
    else if stopped || !g.rearm then s.graphEnds g 0
    else if g.iter ≥ g.maxit then s.graphEnds g 0x0906
    else (s.updGraph id fun x => { x with iter := x.iter + 1 }).beginIteration id

/-- A node has ended: it decrements what its mask names, and nodes that reach 0 fire, unless the graph is stopping. -/
def State.nodeEnded (s : State) (id k : Nat) : State :=
  match s.gnode? id k with
  | none => s
  | some (g, n) =>
    let mask := if n.typ = 3 then n.chosen else n.succ
    let stopped := g.failed.isSome || g.killed.isSome
    let s1 := s.updNode id k fun n => { n with st := .ended }
    let s2 := if stopped then s1
      else ((List.range g.nodes.length).filter mask.getLsbD).foldl (fun s j =>
        let s' := s.updNode id j fun m => { m with count := m.count - 1, st := if m.count = 1 && m.st = .idle then .ready else m.st }
        match s'.gnode? id j with
        | some (_, m) => if m.st = .ready && m.count = 0 then s'.later (.graphNodeFire id j) else s'
        | none => s') s1
    s2.graphCheck id

/-- Nodes that act for Almanac itself stop when their graph is killed: its COPY operations and its HOSTRING waits. -/
def State.stopNodes (s : State) (id : Nat) : State :=
  match s.graph? id with
  | none => s
  | some g =>
    if g.killed.isNone then s
    else
      let mine (o : EngOp) : Bool := match o.owner with
        | .node x _ => x == id
        | _ => false
      let s1 := { s with eng := { s.eng with ops := s.eng.ops.filter fun o => !mine o } }
      s1.updGraph id fun x => { x with nodes := x.nodes.map fun n => if (n.typ == 1 || n.typ == 2) && n.st == .running then { n with st := .ended } else n }

/-- GRAPH_NODE_END (R302). -/
def execGraphNodeEnd (g node : Nat) (s : State) : Out :=
  .next (match s.gnode? g node with
    | none => s
    | some (_, n) => if n.st = .running then (s.stopNodes g).nodeEnded g node else s)

/-- A COND's word and comparison (R300, R303): an acquire at .sys, which the successors get when they start: a node's workgroups join the newest clock of the
dies and drop clean bytes (State.startWg). -/
def State.condHolds (s : State) (g : Graph) (n : GNode) : Except (Nat × Nat) Bool :=
  let a := n.at_ 0x10 8
  if a % 4 ≠ 0 then .error (kMisalign, a)
  else match s.almRead g.ctx g.home a 4 with
    | .error e => .error e
    | .ok bs =>
      let x := leOf bs
      let v := n.at_ 0x18 4
      .ok (match bitsAt (n.at_ 0x1C 4) 0 2 with
        | 0 => x == v
        | 1 => x != v
        | 2 => decide (x < v)
        | _ => decide (v ≤ x))

/-- GRAPH_NODE_FIRE (R300, R302, R303). -/
def execGraphNodeFire (g node : Nat) (s : State) : Out :=
  .next (match s.gnode? g node with
    | none => s
    | some (x, n) =>
      if n.st ≠ .ready || x.failed.isSome || x.killed.isSome then s
      else
        let s1 := s.updNode g node fun n => { n with st := .running }
        let bad (e : Nat × Nat) : State := (s1.almReadFault x.ctx x.home e x.tag).failNode g node e.1
        match n.typ with
        | 0 =>
          let a := n.at_ 0x10 8
          (match (if a % 64 ≠ 0 then .error (kMisalign, a) else s1.almRead x.ctx x.home a 512) with
            | .error e => bad e
            | .ok bs =>
              let l : Launch :=
                { id := s1.nonce, tag := x.tag, gen := x.gen, ctx := x.ctx, home := x.home, origin := .node g node, recAddr := BitVec.ofNat 64 a }
              ({ s1 with nonce := s1.nonce + 1 }).beginLaunch l bs)
        | 1 => s1.beginCopy (.node g node) x.ctx x.home (n.at_ 0x10 8) (n.at_ 0x18 8) (n.at_ 0x20 4) x.tag
        | 2 => s1.later (.hostringRecordCopy g node)
        | _ =>
          match s1.condHolds x n with
          | .error e => bad e
          | .ok b =>
            let s2 := s1.updNode g node fun n => { n with chosen := if !b then n.fsucc else if n.arm then 0 else n.succ }
            let s3 := if b && n.arm then s2.updGraph g fun x => { x with rearm := true } else s2
            s3.later (.graphNodeEnd g node))

-- HOSTRING (R304) ---------------------------------------------------------------------------------------------------------------------------------

/-- The writes that a record's copy makes, each with its bytes: the record, RPOS, WIDX, PEND. -/
def ringWrites (n : GNode) (rec_ : List Byte) (rpos pend : Nat) : List (Nat × List Byte) :=
  let recb := n.at_ 0x20 2
  let rlog := bitsAt (n.at_ 0x20 4) 16 4
  [(n.at_ 0x18 8 + (n.rpos.toNat % 2 ^ rlog) * recb, rec_), (n.addr.toNat + 0x38, bytesOf 4 rpos), (n.at_ 0x30 8, bytesOf 4 rpos),
    (n.addr.toNat + 0x3C, bytesOf 4 pend)]

/-- What a HOSTRING's accesses come to (R304): the ring is full, a fault, or the copy to make. -/
def State.ringPlan (s : State) (g : Graph) (n : GNode) : Except (Nat × Nat) (Option (List Byte)) :=
  let ridx := n.at_ 0x28 8
  let widx := n.at_ 0x30 8
  if ridx % 4 ≠ 0 then .error (kMisalign, ridx)
  else if widx % 4 ≠ 0 then .error (kMisalign, widx)
  else match s.almRead g.ctx g.home ridx 4 with
    | .error e => .error e
    | .ok bs =>
      if (n.rpos.toNat + 2 ^ 32 - leOf bs) % 2 ^ 32 ≥ 2 ^ bitsAt (n.at_ 0x20 4) 16 4 then .ok none
      else match s.almRead g.ctx g.home (n.at_ 0x10 8) (n.at_ 0x20 2) with
        | .error e => .error e
        | .ok rec_ =>
          let who := Who.almanac g.ctx g.home
          let core := g.home * Config.coresPerDie
          match (ringWrites n rec_ 0 0).findSome? fun w => match s.vtargets who core true .write none w.1 w.2.length with
            | .error e => some e
            | .ok _ => none with
          | some e => .error e
          | none => .ok (some rec_)

/-- HOSTRING_RECORD_COPY (R304, R423, R424): once the ring has room, the record, then RPOS and WIDX, then PEND. -/
def execHostringRecordCopy (g node : Nat) (s : State) : Out :=
  .next (match s.gnode? g node with
    | none => s
    | some (x, n) =>
      if n.typ ≠ 2 || n.st ≠ .running then s
      else match s.ringPlan x n with
        | .error (k, va) =>
          if heldKind k then s.holdNode x node n (k, va) (.hostringRecordCopy g node)
          else (s.almReadFault x.ctx x.home (k, va) x.tag).failNode g node k
        | .ok none => (s.updNode g node fun n => { n with held := none, noted := [] }).later (.hostringRecordCopy g node)
        | .ok (some rec_) =>
          let rpos := (n.rpos.toNat + 1) % 2 ^ 32
          let full := n.pend + 1 ≥ bitsAt (n.at_ 0x20 4) 20 8
          let pend := if full then 0 else n.pend + 1
          let put (a : Option (Nat × Nat) × State) (w : Nat × List Byte) : Option (Nat × Nat) × State :=
            match a.1 with
            | some _ => a
            | none => a.2.vwrite (Who.almanac x.ctx x.home) (x.home * Config.coresPerDie) true w.1 w.2
          match (ringWrites n rec_ rpos pend).foldl put (none, s) with
          | (some (k, va), s1) => (s1.almFault x.ctx x.home k va x.tag).failNode g node k
          | (none, s1) =>
            let dt := 2000 * n.at_ 0x24 2
            let timer := if full then none else if n.pend = 0 then some (s.now + dt) else n.timer
            let s2 := s1.updNode g node fun n => { n with rpos := BitVec.ofNat 32 rpos, pend := pend, timer := timer, held := none, noted := [] }
            let s3 := if full then s2.queueIrq x.q n.vec else s2
            let s4 := if !full && n.pend = 0 then s3.after dt (.hostringCtimeExpiry g node) else s3
            s4.later (.graphNodeEnd g node))

/-- HOSTRING_CTIME_EXPIRY (R304). -/
def execHostringCtimeExpiry (g node : Nat) (s : State) : Out :=
  .next (match s.gnode? g node with
    | none => s
    | some (_, n) =>
      match n.timer with
      | none => s
      | some t => if t ≤ s.now && n.pend ≠ 0 then (s.clearPend g node).graphCheck g else s)

end Sys2Proof.Machine
end

