-- ==== Sys2Proof/Machine/Privileged.lean ====
section
/-!
DEFINITION. Machine/Privileged.lean: control and status registers, the commands of CMD, invalidates, and the return from traps and grid faults, group 0xD
(02 R48; 07 R203; 16 R380, R381, R389 to R394, R397; 17 R406).
-/
namespace Sys2Proof.Machine

-- Control and status registers (R389, R391) ---------------------------------------------------------------------------------------------------------------

/-- What a listed CSR number allows: read, write. -/
def csrAccess (n : Nat) : Option (Bool × Bool) :=
  if n ≤ 0x005 || n = 0x007 then some (true, true)
  else if n = 0x006 || (0x010 ≤ n && n ≤ 0x012) then some (true, false)
  else if 0x100 ≤ n && n ≤ 0x102 then some (true, true)
  else if n = 0x103 then some (false, true)
  else if (0x104 ≤ n && n ≤ 0x106) || (0x108 ≤ n && n ≤ 0x10F) then some (true, false)
  else none

/-- The checks of R391 in their order: the trap of an access, if any. -/
def csrTrap (ctx n : Nat) (write : Bool) : Option Nat :=
  match csrAccess n with
  | none => some kCsrNum
  | some (r, w) =>
    if 0x100 ≤ n && ctx ≠ 0 then some kPrivilege
    else if write && !w then some kCsrNum
    else if !write && !r then some kCsrNum else none

/-- A thread CSR. -/
def TrapCsrs.get (c : TrapCsrs) : Nat → DWord
  | 0 => c.estat.setWidth 64
  | 1 => c.ecause.setWidth 64
  | 2 => c.epc
  | 3 => c.eclh
  | 4 => c.eva
  | 5 => c.elanes.setWidth 64
  | 6 => c.erec
  | 7 => c.escr
  | _ => 0
def TrapCsrs.put (c : TrapCsrs) (v : DWord) : Nat → TrapCsrs
  | 0 => { c with estat := v.setWidth 32 &&& 1#32 }
  | 1 => { c with ecause := v.setWidth 32 }
  | 2 => { c with epc := v }
  | 3 => { c with eclh := v }
  | 4 => { c with eva := v }
  | 5 => { c with elanes := v.setWidth 32 }
  | 7 => { c with escr := v }
  | _ => c

/-- The value of a CSR for a lane of a warp. -/
def State.csrRead (s : State) (w : Warp) (lane n : Nat) : DWord :=
  let ctx := s.ctxOf w
  let nf (k : Nat) : Nat × Nat := (s.boot.near[k]?).getD (0, 0)
  if n < 8 then (w.thread lane).csr.get n
  else if n = 0x010 then BitVec.ofNat 64 ctx
  else if n = 0x011 then BitVec.ofNat 64 (((s.ctx? ctx).map Ctx.ten).getD 0)
  else if n = 0x012 then BitVec.ofNat 64 (((s.ctx? ctx).map Ctx.lockq).getD 0)
  else if n = 0x100 then s.iso.ctxtab
  else if n = 0x101 then s.iso.tentab
  else if n = 0x102 then s.iso.qtab
  else if n = 0x104 then s.iso.cmdst.setWidth 64
  else if n = 0x105 then s.boot.secver.setWidth 64
  else if n = 0x106 then (Config.fusedDbgst &&& 1#32).setWidth 64
  else if n % 2 = 0 then BitVec.ofNat 64 (nf ((n - 0x108) / 2)).1
  else BitVec.ofNat 64 (nf ((n - 0x108) / 2)).2

/-- csrr (R391). -/
def execCsrr (o : Operands) (s : State) : Out :=
  .next (withSources o (fun f w act s => privileged f w act s (
    let n := (srcBn s f w o (ctzV act)).toNat
    match csrTrap (s.ctxOf w) n false with
    | some k => s.trapHere f w act { kind := k }
    | none =>
      s.setWarp (if is64 o then w.setPair act o.d.toNat fun l => s.csrRead w l n
        else w.setReg act o.d.toNat fun l => (s.csrRead w l n).setWidth 32))) s)

-- Invalidates (R203, R392, R393) -----------------------------------------------------------------------------------------------------------------------------

/-- An interval of addresses meets another. -/
def meets (a n lo hi : Nat) : Bool := decide (a < hi ∧ lo < a + n)

/-- Translations of some contexts that meet an interval removed everywhere (R386, R203): TLBs, range entries, fabric-cache lines with their locks,
placement records and translations of kernels whose code pages they are. What is still under way fills no line. -/
def State.invalidate (s : State) (ctx : Option Nat) (lo hi : Nat) : State :=
  let mine (c : Nat) : Bool := ctx.all (· == c)
  let s1 := { s with iso := { s.iso with tlb := s.iso.tlb.filter fun t => !(mine t.ctx && meets t.va t.size lo hi) } }
  let lines := s1.mem.fab.filter fun l => mine l.ctx && meets (l.vline - l.vline % l.page) l.page lo hi
  let s2 := (lines.foldl (fun s l => (s.writeBack l).dropFab l.core l.ctx l.vline) s1).dropConsts fun l =>
    mine l.ctx
  let hit (r : PlaceRec) : Bool := mine r.ctx && r.pages.any fun p => meets p.1 p.2 lo hi
  let dead := s2.grid.recs.filter hit
  let using_ (c : GCfg) : Bool := dead.any fun r => r.ctx == c.ctx && r.head == c.head
  let s4 := (s2.grid.cfgs.filter using_).foldl State.drainCfg s2
  let keep (x : Xlated) : Xlated := if mine x.ctx && x.pages.any (fun p => meets p.1 p.2 lo hi) then { x with live := false } else x
  let unfilled (r : Req) : Req := if mine r.ctx && meets (r.vline - r.vline % r.page) r.page lo hi then { r with fill := false } else r
  { s4 with
    mem := { s4.mem with reqs := s4.mem.reqs.map unfilled },
    grid := { s4.grid with recs := s4.grid.recs.filter fun r => !hit r },
    alm := { s4.alm with xlated := s4.alm.xlated.map keep } }

/-- One invalidate started by a warp: its removals, and the accesses that it still waits for (R203). -/
def State.startInv (s : State) (wg sub : Nat) (ctx : Option Nat) (lo hi : Nat) (cmd : Nat := 0) : State :=
  let s1 := s.invalidate ctx lo hi
  let out := s1.mem.reqs.filter fun r => ctx.all (· == r.ctx) && meets (r.vline - r.vline % r.page) r.page lo hi && !r.performed
  let op : TlbOp := { id := s1.nonce, ctx := ctx, lo := lo, hi := hi, wg := wg, sub := sub, reqs := out.map Req.id, cmd := cmd }
  { s1 with nonce := s1.nonce + 1, iso := { s1.iso with invs := s1.iso.invs ++ [op] } }

/-- The shared operation of the invalidates (R392); `check` gives a lane's RESERVED_FIELD, `span` what it covers. -/
def tlbForm (o : Operands) (all : Bool) (reads : Bool) (check : DWord → Word → Bool) (span : DWord → Word → Nat × Nat) (s : State) : State :=
  withSources o (fun f w act s => privileged f w act s (
    let ctx := s.ctxOf w
    let a (l : Nat) : DWord := srcA64 w o l
    let b (l : Nat) : Word := srcBn s f w o l
    let named (l : Nat) : Nat := (b l).toNat % 256
    let trap (l : Nat) : Option Nat :=
      if ctx ≠ 0 && (all || named l ≠ ctx) then some kPrivilege else if check (a l) (b l) then some kReservedField else none
    match (lanesOf act).findSome? trap with
    | some k => s.trapHere f w act { kind := k, lmask := maskOf ((lanesOf act).filter fun l => trap l == some k) }
    | none =>
      let far := if reads then (lanesOf act).filter fun l => (a l).extractLsb' 56 8 != 0 else []
      if far ≠ [] then
        s.trapHere f w act { kind := kVaRange, errs := far.map fun l => { lane := l, kind := kVaRange, va := (a l).toNat, page := 4096 } }
      else (lanesOf act).foldl (fun s l =>
        s.startInv w.wg w.sub (if all then none else some (named l)) (span (a l) (b l)).1 (span (a l) (b l)).2) s)) s

/-- tlbinv.page (R392). -/
def execTlbinvPage (o : Operands) (s : State) : Out :=
  .next (tlbForm o false true (fun _ b => b.extractLsb' 8 24 != 0) (fun a _ => (a.toNat, a.toNat + 1)) s)
/-- tlbinv.range (R392). -/
def execTlbinvRange (o : Operands) (s : State) : Out :=
  .next (tlbForm o false true (fun a b => b.extractLsb' 8 24 == 0 || a.extractLsb' 0 12 != 0)
    (fun a b => (a.toNat, a.toNat + 4096 * (b.extractLsb' 8 24).toNat)) s)
/-- tlbinv.ctx (R392). -/
def execTlbinvCtx (o : Operands) (s : State) : Out :=
  .next (tlbForm o false false (fun _ b => b.extractLsb' 8 24 != 0) (fun _ _ => (0, 2 ^ 64)) s)
/-- tlbinv.all (R392). -/
def execTlbinvAll (o : Operands) (s : State) : Out := .next (tlbForm o true false (fun _ _ => false) (fun _ _ => (0, 2 ^ 64)) s)

/-- What an invalidate waits for is still to be performed. -/
def State.invWaits (s : State) (x : TlbOp) : Bool := x.reqs.any fun n => (s.req? n).any fun r => !r.performed

/-- tlbsync (R393): the bundle stands until every access that its warp's invalidates cover has been performed; held engine accesses are made again
(12 R423). A die lost before it completes changes its result (10 R277). -/
def execTlbsync (o : Operands) (s : State) : Out :=
  .next (withLL o (fun f w act s => privileged f w act s (
    let mine (x : TlbOp) : Bool := x.wg == w.wg && x.sub == w.sub && x.cmd == 0
    let ops := s.iso.invs.filter mine
    if ops.any s.invWaits then s.retry f w .turn
    else
      let s1 := { s with iso := { s.iso with invs := s.iso.invs.filter fun x => !mine x } }
      let v : Word := if ops.any TlbOp.lost then excStatus 0x0802 else 0
      let s2 := (s1.llResult f w act o.fsel [o.d.toNat] ((lanesOf act).map fun l => { lane := l, reg := o.d.toNat, val := v })).updLL s1.nonce fun x =>
        { x with sync := !ops.isEmpty }
      (s2.iso.ctxs.map Ctx.id).foldl (fun s c => if c == s2.ctxOf w || ops.any (fun x => x.ctx.all (· == c)) then s.retryHeld c else s) s2)) s)

-- Commands (R390) ------------------------------------------------------------------------------------------------------------------------------------------------

/-- CMDST (R390): CMD_PARAM. -/
def cmdParam : Word := 0x0C01#32
def State.cmdStatus (s : State) (v : Word) : State := { s with iso := { s.iso with cmdst := v } }

/-- Queues of a context that may run with RDIDX ≠ KI request slots (12 R290, 17 R412). -/
def State.requestQueues (s : State) (ctx : Nat) : State :=
  let due (x : Queue) : Bool := s.qCtx x.q == ctx && !x.mapped && x.waiting.isNone && s.qEn x.q && !s.qForeign x.q && s.qRd x.q != s.qKi x.q
  (s.alm.queues.filter due).foldl (fun s x => ((s.requestSlot x.q).2).giveSlots 1) s

/-- An entry of the context table (R380). What a non-zero reserved field of a table entry does is not stated: its bits are ignored (log entry 28, DESIGN
CHOICE). -/
def State.ctxEntry (s : State) (c : Nat) : Ctx :=
  let at_ (off n : Nat) : Nat := s.tableField (s.iso.ctxtab.toNat + 128 * c + off) n
  { id := c, en := at_ 0 1 % 2 == 1, ten := bitsAt (at_ 0 1) 1 6, lockq := at_ 1 1, ptroot := at_ 8 8, tvec := BitVec.ofNat 64 (at_ 16 8),
    xarea := BitVec.ofNat 64 (at_ 24 8), xsize := at_ 32 4, rootrcb := BitVec.ofNat 64 (at_ 40 8), pcsel := (List.range 48).map fun j => at_ (48 + j) 1,
    saved := (s.ctx? c).any Ctx.saved }

/-- LOAD_CONTEXT begins (R390, command 0x01): the entry comes into force, and the context's translations go. The command is over when what had been
translated through them has been performed (07 R203). A context is destroyed, for its placement records (02 R48), by its next load and not by
STOP_CONTEXT (log entry 35, DESIGN CHOICE). -/
def State.beginLoad (s : State) (c wg sub cmd : Nat) : State :=
  let e := s.ctxEntry c
  ({ s with iso := { s.iso with ctxs := upsert (fun x => x.id == c) e s.iso.ctxs } }).startInv wg sub (some c) 0 (2 ^ 64) cmd

/-- The number of the invalidate that was begun last. -/
def State.numbered (s : State) : Nat × State := (s.nonce - 1, s)

/-- A LOAD_CONTEXT is over: its invalidate leaves the list, CMDST is 0, and what waited for the context goes on. -/
def State.endLoad (s : State) (x : TlbOp) (c : Nat) : State :=
  let s1 := { s with iso := { s.iso with invs := s.iso.invs.filter fun y => y.id != x.id } }
  let s2 := (s1.retryHeld c).cmdStatus 0
  (if s2.ctxRuns c then s2.requestQueues c else s2).pokeAll

/-- An invalidate by number, over with its load if nothing is left to wait for; whether it is over. -/
def State.loadOver (s : State) (c n : Nat) : Bool × State :=
  match s.iso.invs.find? fun y => y.id == n with
  | none => (true, s)
  | some x => if s.invWaits x then (false, s) else (true, s.endLoad x c)

/-- LOAD_CONTEXT has no such entry. -/
def State.loadBad (s : State) (c : Nat) : Bool := s.iso.ctxtab.toNat % 4096 ≠ 0 || decide (c ≥ 256)

/-- LOAD_CONTEXT by itself: it waits while a save or resume of the context is in progress (17 R411). -/
def State.loadContextCmd (s : State) (c : Nat) : State :=
  if s.loadBad c then s.cmdStatus cmdParam
  else if s.isDraining c then s.later (.loadContext c)
  else
    let (n, s1) := match s.iso.invs.find? fun y => y.cmd == 2 && y.ctx == some c with
      | some x => (x.id, s)
      | none => (s.beginLoad c 0 0 2).numbered
    let (isOver, s2) := s1.loadOver c n
    if isOver then s2 else s2.later (.loadContext c)

/-- An entry of the tenant table (R381). -/
def State.tenEntry (s : State) (n : Nat) : Tenant :=
  let base := s.iso.tentab.toNat + 512 * n
  let at_ (off k : Nat) : Nat := s.tableField (base + off) k
  { id := n, at_ := base, en := at_ 0 1 % 2 == 1, vvec := at_ 2 1 % 64, vlbase := at_ 8 8, vllog := at_ 16 1 % 32, vlpos := at_ 20 4,
    wins := (List.range (min 16 (at_ 1 1))).map fun w =>
      { perm := BitVec.ofNat 2 (at_ (64 + 16 * w) 1), base := bitsAt (at_ (64 + 16 * w) 8) 16 36 * 2 ^ 16, lim := at_ (72 + 16 * w) 8 } }

/-- Measurement 5 (R397): the base CSRs and the windows of every tenant in force. -/
def State.measure5 (s : State) : State :=
  let win (v : Window) : List Byte := bytesOf 8 (v.base + v.perm.toNat) ++ bytesOf 8 v.lim
  let wins := (List.range 64).flatMap fun n => match s.iso.tenants.find? fun t => t.id == n with
    | some t => t.wins.flatMap win
    | none => []
  let d := Config.sha256 (bytesOf 8 s.iso.ctxtab.toNat ++ bytesOf 8 s.iso.tentab.toNat ++ bytesOf 8 s.iso.qtab.toNat ++ wins)
  { s with boot := { s.boot with measures := s.boot.measures.set 4 d } }

/-- LOAD_TENANT (R390, command 0x02). -/
def State.loadTenantCmd (s : State) (n : Nat) : State :=
  if s.iso.tentab.toNat % 4096 ≠ 0 || n ≥ 64 then s.cmdStatus cmdParam
  else (({ s with iso := { s.iso with tenants := upsert (fun x => x.id == n) (s.tenEntry n) s.iso.tenants } }).measure5).cmdStatus 0

/-- STOP_CONTEXT (R390, command 0x03): the context's launches and graphs end with STATE 4, its queues are unmapped, its engine operations stop. -/
def State.stopContextCmd (s : State) (c : Nat) : State :=
  if c ≥ 256 then s.cmdStatus cmdParam
  else
    let off (x : Ctx) : Ctx := if x.id = c then { x with en := false } else x
    let s1 := { s with iso := { s.iso with ctxs := s.iso.ctxs.map off }, eng := { s.eng with ops := s.eng.ops.filter fun o => o.ctx != c } }
    let s2 := ((s1.alm.launches.filter fun l => l.ctx == c).map Launch.id).foldl (fun s i => s.killOne i 0 0 false) s1
    let s3 := ((s2.alm.graphs.filter fun g => g.ctx == c).map Graph.id).foldl (fun s g =>
      ((s.updGraph g fun x => { x with killed := some (x.killed.getD (0, 0)) }).stopNodes g).graphCheck g) s2
    let mine := (s3.alm.queues.filter fun x => s3.qCtx x.q == c).map Queue.q
    let s4 := mine.foldl (fun s q => (s.unmapQueue q).updQueue q fun x => { x with waiting := none, running := [] }) s3
    ((s4.giveSlots Config.queueSlots).cmdStatus 0).pokeAll

/-- FLUSH_PLACEMENT_CACHE (R390, command 0x04). -/
def State.flushCmd (s : State) (c : Nat) : State := if c ≥ 256 then s.cmdStatus cmdParam else (s.flushPlaces c).cmdStatus 0

/-- LOAD_CONTEXT (R390). -/
def execLoadContext (index : Nat) (s : State) : Out := .next (s.loadContextCmd index)
/-- LOAD_TENANT (R390). -/
def execLoadTenant (index : Nat) (s : State) : Out := .next (s.loadTenantCmd index)
/-- STOP_CONTEXT (R390). -/
def execStopContext (index : Nat) (s : State) : Out := .next (s.stopContextCmd index)
/-- FLUSH_PLACEMENT_CACHE (R390). -/
def execFlushPlacementCache (index : Nat) (s : State) : Out := .next (s.flushCmd index)

/-- One lane's write of CMD by a thread of a warp, begun or gone on with (R390): whether the command is over, and what the thread keeps of it until then:
2 for a flush that drains, 3 and more for a load by the number of its invalidate. -/
def State.command (s : State) (w : Warp) (kept : Option Nat) (v : DWord) : Option Nat × State :=
  let index := (v.extractLsb' 8 8).toNat
  let load (n : Nat) (s : State) : Option Nat × State :=
    let (isOver, s1) := s.loadOver index n
    (if isOver then some 1 else some (n + 3), s1)
  let flush (s : State) : Option Nat × State := (if s.grid.cfgs.any fun c => c.ctx == index && c.leaving then some 2 else some 1, s)
  if v.extractLsb' 16 48 != 0 then (some 1, s.cmdStatus cmdParam)
  else match (v.extractLsb' 0 8).toNat, kept with
    | 1, some n => load (n - 3) s
    | 1, none =>
      if s.loadBad index then (some 1, s.cmdStatus cmdParam)
      else if s.isDraining index then (none, s)
      else
        let (n, s1) := (s.beginLoad index w.wg w.sub 1).numbered
        load n s1
    | 2, _ => (some 1, s.loadTenantCmd index)
    | 3, _ => (some 1, s.stopContextCmd index)
    | 4, some _ => flush s
    | 4, none => flush (s.flushCmd index)
    | _, _ => (some 1, s.cmdStatus cmdParam)

/-- A write of a base register of the module's tables. -/
def State.baseWrite (s : State) (n : Nat) (v : DWord) : State :=
  if n = 0x100 then { s with iso := { s.iso with ctxtab := v } }
  else if n = 0x101 then { s with iso := { s.iso with tentab := v } }
  else { s with iso := { s.iso with qtab := v } }

/-- Lanes' writes of CMD in ascending order, up to one whose command is not over: whether all are. -/
def commandLanes (core slot : Nat) (v : Nat → DWord) : List Nat → State → Bool × State
  | [], s => (true, s)
  | l :: t, s => match s.warp? core slot with
    | none => (true, s)
    | some w =>
      if (w.thread l).laneDone = some 1 then commandLanes core slot v t s
      else
        let (k, s1) := s.command w (w.thread l).laneDone (v l)
        let s2 := s1.updWarp core slot fun w => w.mapThreads (maskOf [l]) fun _ x => { x with laneDone := k }
        if k = some 1 then commandLanes core slot v t s2 else (false, s2)

/-- csrw (R391). A write of CMD stands until its command is over (R390). -/
def execCsrw (o : Operands) (s : State) : Out :=
  .next (withSources o (fun f w act s => privileged f w act s (
    let n := (srcBn s f w o (ctzV act)).toNat
    let v (l : Nat) : DWord := if is64 o then srcA64 w o l else (srcA32 f w o l).setWidth 64
    match csrTrap (s.ctxOf w) n true with
    | some k => s.trapHere f w act { kind := k }
    | none =>
      if n < 8 then s.setWarp (w.mapThreads act fun l t => { t with csr := t.csr.put (v l) n })
      else if n ≠ 0x103 then (lanesOf act).foldl (fun s l => s.baseWrite n (v l)) s
      else
        let (isOver, s1) := commandLanes f.core f.slot v (lanesOf act) s
        match s1.warp? f.core f.slot with
        | none => s1
        | some w1 =>
          if isOver then s1.setWarp (w1.mapThreads act fun _ t => { t with laneDone := none })
          else s1.retryAll f w1 fun _ => .turn)) s)

-- Returning (R394, 17 R406) ---------------------------------------------------------------------------------------------------------------------------------------

/-- The count of the header at a thread's ECLH. -/
def State.eclhCount (s : State) (core ctx : Nat) (t : Thread) : Nat :=
  match s.fetchWord core ctx (t.csr.estat.getLsbD 0) t.csr.eclh.toNat with
  | .ok w => (headerOf w).cnt.toNat
  | .error _ => 0

/-- eret (R394): for a grid-fault trap EPC and ECLH are ignored, and what the handler did decides (17 R406, R422). -/
def execEret (o : Operands) (s : State) : Out :=
  .next (withSources o (fun f w act s => privileged f w act s (
    let ctx := s.ctxOf w
    let back (t : Thread) : Thread :=
      if t.gridFault.isSome then { t with sup := t.csr.estat.getLsbD 0, gridFault := none, wait := .none } else t.trapReturn (s.eclhCount f.core ctx t)
    let grid := (lanesOf act).any fun l => (w.thread l).gridFault.isSome
    let w1 := w.mapThreads act fun _ t => back t
    let s1 := s.setWarp w1
    if grid && !(w1.threads.any fun t => t.gridFault.isSome) then s1.gridReturn f.core f.slot else s1)) s)

/-- fault.done (17 R406): lanes in ascending order. -/
def execFaultDone (o : Operands) (s : State) : Out :=
  .next (withSources o (fun f w act s => privileged f w act s (
    (lanesOf act).foldl (fun s l => s.faultDone f.core (s.ctxOf w) (srcA32 f w o l)) s)) s)

end Sys2Proof.Machine
end

