-- ==== Sys2Proof/Machine/Boot.lean ====
section
/-!
DEFINITION. Machine/Boot.lean: module reset, boot, and the attestation responder (01 R22; 10 R277; 16 R395 to R398).
-/
namespace Sys2Proof.Machine

/-- The 8,320 bytes of a protocol table (10 R268). -/
def PTable.bytes (t : PTable) : List Byte :=
  bytesOf 1 t.nst ++ bytesOf 1 t.init ++ bytesOf 2 t.leasel ++ bytesOf 4 0 ++ ((List.range 64).flatMap fun i => bytesOf 1 (smGet t.sdesc i).toNat)
    ++ bytesOf 56 0 ++ (List.range 1024).flatMap fun i => bytesOf 8 (smGet t.entries i).toNat

/-- The checks of the boot ROM in their order: what BAR0 offset 0 reads, 0 where every check passes (R395). -/
def bootCheck (image : List Byte) (secver : Word) : Word :=
  if Config.sha256 (Config.fwKey image) ≠ Config.keyDigest then 0x0D01#32
  else if !Config.ecdsaVerify (Config.fwKey image) (Config.sha256 (image.take 192)) (Config.fwSignature image) then 0x0D02#32
  else if Config.sha256 (Config.fwBody image) ≠ Config.fwDigest image then 0x0D03#32
  else if Config.fwVersion image < secver then 0x0D04#32
  else 0

/-- Measurements 1 to 4 as they stand after boot (R397). -/
def bootMeasures (image : List Byte) (secver : Word) : List (BitVec 256) :=
  [Config.sha256 Config.bootRom, Config.fwDigest image, Config.sha256 (bytesOf 4 secver.toNat ++ bytesOf 4 (Config.fusedDbgst &&& 1#32).toNat),
   Config.sha256 (builtinTables.flatMap fun t => t.2.bytes), 0]

/-- A verified boot (R395, R397; 10 R264, R266): SECVER may rise, slots 0 to 4 are filled, the measurements are taken, the clocks of the dies run, and
every compute die releases its cores. -/
def State.bootOk (s : State) : State :=
  let ver := if s.boot.secver < Config.fwRaises s.boot.image then Config.fwRaises s.boot.image else s.boot.secver
  let s1 : State :=
    { s with
      boot := { s.boot with secver := ver, measures := bootMeasures s.boot.image ver, released := true, bar0 := 0, spdm := 0, transcript := [] },
      mem := { s.mem with tables := builtinTables ++ s.mem.tables.filter fun t => decide (5 ≤ t.1) } }
  (List.range Config.nDies).foldl (fun s d => s.after 128 (.ptsAdvance d)) s1.measure5

/-- BOOT (R395): once, before any core is released. -/
def execBoot (s : State) : Out :=
  .next (if s.boot.released then s
    else
      let c := bootCheck s.boot.image s.boot.secver
      if c = 0 then s.bootOk else { s with boot := { s.boot with bar0 := c } })

/-- MODULE_RESET (10 R277): everything at its reset value, lost dies among it; fuses, the firmware image and host memory stay. -/
def State.afterReset (s : State) : State :=
  { State.reset with
    nonce := s.nonce,
    boot := { State.reset.boot with image := s.boot.image, secver := s.boot.secver },
    mem := { State.reset.mem with bytes := s.mem.bytes.filter (fun x => isHostPa x.1), undef := carve s.mem.undef 0 Config.dramBytes } }
/-- MODULE_RESET. -/
def execModuleReset (s : State) : Out := .next s.afterReset

-- Attestation (R396 to R398; log entry 10, PRESUMED) --------------------------------------------------------------------------------------------------------------

/-- A response sent through the mailbox; it and its request join the transcript. -/
def State.respond (s : State) (req resp : List Byte) : State :=
  { s with boot := { s.boot with doe := resp :: s.boot.doe, transcript := s.boot.transcript ++ req ++ resp } }

/-- An SPDM ERROR response with a code; the transcript is left as it was. -/
def State.spdmError (s : State) (code : Nat) : State :=
  { s with boot := { s.boot with doe := [0x12#8, 0x7F#8, BitVec.ofNat 8 code, 0#8] :: s.boot.doe } }
def spdmInvalid : Nat := 0x01
def spdmUnexpected : Nat := 0x04
def spdmUnsupported : Nat := 0x07

/-- A request at the responder: answered once cores are released, if its bytes are those of its code and at least `len`, and if the exchanges that come
before it have been made. -/
def State.attest (s : State) (req : List Byte) (code len stage : Nat) (k : State → State) : State :=
  if !s.boot.released then s
  else if fieldAt req 1 1 ≠ code || req.length < len then s.spdmError spdmInvalid
  else if s.boot.spdm < stage then s.spdmError spdmUnexpected
  else k s

/-- Fresh bytes of a nonce. -/
def State.nonceBytes (s : State) : List Byte × State :=
  ((List.range 8).flatMap fun i => bytesOf 4 (Config.freeWord (s.nonce + i)).toNat, { s with nonce := s.nonce + 8 })

/-- A response signed with the identity key over the transcript that ends with it (R398). -/
def State.respondSigned (s : State) (req resp : List Byte) : State :=
  let sig := Config.ecdsaSign (Config.sha256 (s.boot.transcript ++ req ++ resp))
  { s with boot := { s.boot with doe := (resp ++ sig) :: s.boot.doe, transcript := s.boot.transcript ++ req ++ resp ++ sig } }

/-- A measurement block in the DMTF format with a raw digest (R398). -/
def measureBlock (index : Nat) (d : BitVec 256) : List Byte :=
  bytesOf 1 index ++ [1#8] ++ bytesOf 2 35 ++ bytesOf 1 (min 3 (index - 1)) ++ bytesOf 2 32 ++ digestBytes d

/-- Blocks of measurements by index, 1 to 5. -/
def State.measureBlocks (s : State) (is : List Nat) : List Byte :=
  is.flatMap fun i => measureBlock i ((s.boot.measures[i - 1]?).getD 0)

/-- GET_VERSION (R398): version 1.2; the exchange starts again. -/
def execGetVersion (req : List Byte) (s : State) : Out :=
  .next (s.attest req 0x84 4 0 fun s =>
    { s with boot := { s.boot with spdm := 1, transcript := [] } }.respond req [0x10#8, 0x04#8, 0#8, 0#8, 0#8, 1#8, 0#8, 0x12#8])

/-- GET_CAPABILITIES (R398): certificates, challenges, signed measurements. -/
def execGetCapabilities (req : List Byte) (s : State) : Out :=
  .next (s.attest req 0xE1 4 1 fun s =>
    { s with boot := { s.boot with spdm := max 2 s.boot.spdm } }.respond req
      ([0x12#8, 0x61#8, 0#8, 0#8, 0#8, Config.spdmByte 0, 0#8, 0#8, 0x16#8, 0#8, 0#8, 0#8] ++ (List.range 8).map fun i => Config.spdmByte (1 + i)))

/-- NEGOTIATE_ALGORITHMS (R398): ECDSA P-256 and SHA-256, and nothing else. -/
def execNegotiateAlgorithms (req : List Byte) (s : State) : Out :=
  .next (s.attest req 0xE3 32 2 fun s =>
    let asym := if bitsAt (fieldAt req 8 4) 4 1 = 1 then 0x10 else 0
    let hash := if bitsAt (fieldAt req 12 4) 0 1 = 1 then 0x01 else 0
    { s with boot := { s.boot with spdm := max 3 s.boot.spdm } }.respond req
      ([0x12#8, 0x63#8, 0#8, 0#8] ++ bytesOf 2 36 ++ [1#8, 0#8] ++ bytesOf 4 2 ++ bytesOf 4 asym ++ bytesOf 4 hash ++ bytesOf 16 0))

/-- GET_DIGESTS (R396, R398): slot 0's chain. -/
def execGetDigests (req : List Byte) (s : State) : Out :=
  .next (s.attest req 0x81 4 3 fun s => s.respond req ([0x12#8, 0x01#8, 0#8, 1#8] ++ digestBytes (Config.sha256 Config.certChain)))

/-- GET_CERTIFICATE (R396, R398): a portion of slot 0's chain. -/
def execGetCertificate (req : List Byte) (s : State) : Out :=
  .next (s.attest req 0x82 8 3 fun s =>
    let off := fieldAt req 4 2
    let part := (Config.certChain.drop off).take (fieldAt req 6 2)
    if fieldAt req 2 1 ≠ 0 || Config.certChain.length < off then s.spdmError spdmInvalid
    else s.respond req ([0x12#8, 0x02#8, 0#8, 0#8] ++ bytesOf 2 part.length ++ bytesOf 2 (Config.certChain.length - off - part.length) ++ part))

/-- CHALLENGE (R398): a signed CHALLENGE_AUTH. -/
def execChallenge (req : List Byte) (s : State) : Out :=
  .next (s.attest req 0x83 36 3 fun s =>
    if fieldAt req 2 1 ≠ 0 then s.spdmError spdmInvalid
    else
      let (n, s1) := s.nonceBytes
      let sum := if fieldAt req 3 1 = 0 then [] else digestBytes (Config.sha256 (s.measureBlocks [1, 2, 3, 4, 5]))
      s1.respondSigned req ([0x12#8, 0x03#8, 0#8, 1#8] ++ digestBytes (Config.sha256 Config.certChain) ++ n ++ sum ++ bytesOf 2 0))

/-- GET_MEASUREMENTS (R397, R398): how many there are, one of them, or all, signed. -/
def execGetMeasurements (req : List Byte) (s : State) : Out :=
  .next (s.attest req 0xE0 4 3 fun s =>
    let op := fieldAt req 3 1
    let is := if op = 0xFF then [1, 2, 3, 4, 5] else if op = 0 then [] else [op]
    if 5 < op && op ≠ 0xFF then s.spdmError spdmInvalid
    else
      let (n, s1) := s.nonceBytes
      let blocks := s.measureBlocks is
      s1.respondSigned req
        ([0x12#8, 0x60#8, if op = 0 then 5#8 else 0#8, 0#8] ++ bytesOf 1 is.length ++ bytesOf 3 blocks.length ++ blocks ++ n ++ bytesOf 2 0))

/-- UNSUPPORTED_REQUEST (R398): every other request, KEY_EXCHANGE and PSK_EXCHANGE among them. -/
def execUnsupportedRequest (_req : List Byte) (s : State) : Out := .next (if s.boot.released then s.spdmError spdmUnsupported else s)

end Sys2Proof.Machine
end

