-- ==== Sys2Proof/Machine/Ecc.lean ====
section
/-!
DEFINITION. Machine/Ecc.lean: corrected and uncorrectable errors in storage, and scrubbing (17 R401, R418, R419).
-/
namespace Sys2Proof.Machine

/-- An error counted at the memory link of the die that is home to an address (17 R413). -/
def State.countDram (s : State) (pa : Nat) (corrected : Bool) : State :=
  let m := s.homeOf pa
  let on (l : Link) : Link :=
    if l.die == m / 4 && l.link == m % 4 then (if corrected then { l with ce := bump l.ce 1 } else { l with ue := bump l.ue 1 }) else l
  { s with links := { s.links with links := s.links.links.map on } }

/-- An SRAM error of a die counted, saturating (17 R413). -/
def State.countSram (s : State) (die : Nat) (corrected : Bool) : State :=
  let up (m : SMap 31) : SMap 31 := smSet m die (BitVec.ofNat 31 (bump (smGet m die).toNat 1))
  { s with links := if corrected then { s.links with sce := up s.links.sce } else { s.links with sue := up s.links.sue } }

/-- The die whose caches hold dirty bytes of an address: a core's fabric cache, else a die's; the owner of its home otherwise. -/
def State.dirtyDie (s : State) (pa : Nat) : Nat :=
  match s.mem.fab.find? fun l => l.pline == lineOf pa && l.dirty != 0 with
  | some l => dieOf l.core
  | none => match s.dirtyCopy (lineOf pa) with
    | some d => d.die
    | none => s.homeOf pa / 4

/-- The die of the storage where an SRAM error lies. -/
def State.storageDie (s : State) : Storage → Nat
  | .dram pa => s.homeOf pa / 4
  | .cacheDirty pa => s.dirtyDie pa
  | .cacheClean die _ => die
  | .tlb core | .handlerTable core _ | .frameStore core _ | .stage core _ | .matching core _ => dieOf core
  | .accumulator cluster _ | .macros cluster _ => cluster / 48
  | .almanac tag => ((s.alm.launches.find? fun l => l.tag == tag && !l.done).map Launch.home).getD 0

/-- An error counted: at a memory link for DRAM, else among the SRAM errors of its die (17 R413, R419). -/
def State.countError (s : State) (x : Storage) (corrected : Bool) : State :=
  match x with
  | .dram pa => s.countDram pa corrected
  | _ => s.countSram (s.storageDie x) corrected

/-- ECC_CORRECTED (17 R418): no value changes. -/
def execEccCorrected (x : Storage) (s : State) : Out := .next (s.countError x true)

/-- A sector marked poisoned at its home; what caches held of it is given up (17 R419). -/
def State.poison (s : State) (pa : Nat) : State :=
  let line := lineOf pa
  let mask := byteMask (pa % 128 - pa % 32) 32
  let fab (l : FabLine) : FabLine := if l.pline == line then { l with dirty := l.dirty &&& ~~~mask, valid := l.valid &&& ~~~mask } else l
  { s with mem := { s.mem with
      poisoned := if s.mem.poisoned.contains (pa / 32) then s.mem.poisoned else s.mem.poisoned ++ [pa / 32],
      fab := s.mem.fab.map fab, die := s.mem.die.map fun d => if d.line == line then { d with dirty := d.dirty &&& ~~~mask } else d } }

/-- The launch of a warp, of a workgroup. -/
def State.launchAt (s : State) (core slot : Nat) : List Nat := ((s.warp? core slot).bind fun w => s.wg? w.wg).toList.map Wg.launch

/-- ECC_UNCORRECTABLE (17 R419). -/
def State.uncorrectable (s : State) (x : Storage) : State :=
  let kill (s : State) (ls : List Nat) : State := ls.foldl (fun s l => s.killLaunch l kSramUncorr) s
  match x with
  | .dram pa | .cacheDirty pa => s.poison pa
  | .cacheClean die line =>
    let gone (l : FabLine) : Bool := dieOf l.core == die && l.pline == line && l.dirty == 0 && l.locks == []
    { s with mem := { s.mem with
        die := s.mem.die.filter fun d => !(d.die == die && d.line == line && d.dirty == 0), fab := s.mem.fab.filter fun l => !gone l } }
  | .tlb core => { s with iso := { s.iso with tlb := s.iso.tlb.filter fun t => t.core != core } }
  | .handlerTable core cfg =>
    match s.gcfg? core cfg with
    | none => s
    | some c => s.drainCfg c
  | .frameStore core slot | .matching core slot => kill s (s.launchAt core slot)
  | .stage core wg => kill s ((s.fe.wgs.filter fun g => g.core == core && g.id == wg).map Wg.launch)
  | .accumulator cluster wg => kill s ((s.mx.entries.filter fun e => e.cluster == cluster && e.wg == wg).map MxEntry.launch).eraseDups
  | .macros cluster frame =>
    kill s ((s.mx.frames.filter fun f => f.cluster == cluster && f.frame == frame).filterMap fun f => (s.wg? f.wg).map Wg.launch)
  | .almanac tag =>
    let s1 := kill s ((s.alm.launches.filter fun l => l.tag == tag && !l.done).map Launch.id)
    ((s1.alm.graphs.filter fun g => g.tag == tag).map Graph.id).foldl (fun s g =>
      ((s.updGraph g fun x => { x with killed := some (x.killed.getD (kSramUncorr, tag)) }).stopNodes g).graphCheck g) s1

/-- ECC_UNCORRECTABLE (17 R419): counted in every case. -/
def execEccUncorrectable (x : Storage) (s : State) : Out := .next ((s.countError x false).uncorrectable x)

/-- Clocks between two scrubs of a line: 24 hours (17 R418). -/
def scrubPeriod : Nat := 172800000000000

/-- SCRUB_READ (17 R418): no value changes, and the line is read again within 24 hours. -/
def execScrubRead (line : Nat) (s : State) : Out := .next (s.after scrubPeriod (.scrubRead line))

end Sys2Proof.Machine
end

