-- ==== Sys2Proof/Machine/Recovery.lean ====
section
/-!
DEFINITION. Machine/Recovery.lean: ctx.save: the drain of a context, its save image, and its resume on chosen dies (16 R390; 17 R408 to R412).
-/
namespace Sys2Proof.Machine

-- The descriptor (R411) -------------------------------------------------------------------------------------------------------------------------

/-- The fields of a save descriptor. -/
structure SaveDesc where
  op : Nat
  ctx : Nat
  diem : Nat
  ibase : Nat
  isize : Nat
  /-- Every reserved field is zero. -/
  zero : Bool
  deriving DecidableEq, Repr

/-- A save descriptor of 64 bytes. -/
def saveDesc (bs : List Byte) : SaveDesc :=
  let x := fieldAt bs 0 4
  { op := bitsAt x 0 2, ctx := bitsAt x 8 8, diem := bitsAt x 16 4, ibase := fieldAt bs 8 8, isize := fieldAt bs 0x10 8,
    zero := bitsAt x 2 6 == 0 && bitsAt x 20 12 == 0 && fieldAt bs 4 4 == 0 && fieldAt bs 0x28 24 == 0 }

/-- CS_PARAM holds for a descriptor at an address. -/
def State.saveParamBad (s : State) (a : Nat) (d : SaveDesc) : Bool :=
  a % 64 ≠ 0 || d.ibase % 4096 ≠ 0 || !d.zero || decide (1 < d.op) || d.ctx = 0
    || (d.diem ≠ 0 && (List.range 4).all fun i => !d.diem.testBit i || s.links.lost.contains i)

/-- Dies that a resume may use, as a mask. -/
def State.resumeDies (s : State) (d : SaveDesc) : Nat :=
  ((List.range 4).filter fun i => (d.diem = 0 || d.diem.testBit i) && !s.links.lost.contains i).foldl (fun n i => n + 2 ^ i) 0

/-- The context has running or parked work. -/
def State.ctxWorks (s : State) (c : Nat) : Bool :=
  (s.alm.launches.any fun l => l.ctx == c) || (s.alm.graphs.any fun g => g.ctx == c)
    || s.alm.queues.any fun q => s.qCtx q.q == c && !q.running.isEmpty
/-- The context is saved. -/
def State.ctxSaved (s : State) (c : Nat) : Bool := (s.ctx? c).any Ctx.saved

-- The drain part of a save (R408) ----------------------------------------------------------------------------------------------------------------------

/-- Warps of a context. -/
def State.ctxWarps (s : State) (c : Nat) : List Warp := s.fe.warps.filter fun w => s.ctxOf w == c

/-- A clause in progress stops at the boundary before its next instruction; one of a grid-fault handler goes on. -/
def State.stopIssue (s : State) (c : Nat) (i : Issue) : State :=
  match s.warp? i.core i.slot with
  | none => s
  | some w =>
    if s.ctxOf w ≠ c || (lanesOf i.lanes).any fun l => (w.thread l).gridFault.isSome then s
    else
      let at_ := i.hdr + BitVec.ofNat 64 (8 * (i.idx + 1))
      let w1 := w.mapThreads i.lanes fun _ t => { t with pc := at_, clh := some i.hdr }
      { s.setWarp w1 with fe := { (s.setWarp w1).fe with issues := s.fe.issues.filter fun x => !(x.core == i.core && x.slot == i.slot && x.hdr == i.hdr && x.lanes == i.lanes) } }

/-- A waiting ldv is abandoned: its threads stand at it again, to issue it after the resume (07 R199). -/
def State.abandonLdv (s : State) (o : LLOp) : State :=
  match s.warp? o.core o.slot with
  | none => s
  | some w =>
    let gone := (s.mem.reqs.filter fun r => r.llop == some o.id).map Req.id
    let w1 := (w.subFlag o.flag).mapThreads o.lanes fun _ t => if t.wait = .op o.id then { t with pc := o.iaddr, clh := some o.hdr, wait := .none } else t
    let s1 := s.setWarp w1
    { s1 with
      fe := { s1.fe with llops := s1.fe.llops.filter fun x => x.id != o.id },
      mem := { s1.mem with
        reqs := s1.mem.reqs.filter fun r => r.llop != some o.id,
        windows := s1.mem.windows.map fun w => { w with waiting := w.waiting.filter fun n => !gone.contains n } } }

/-- The long-latency instructions of a context that are versioned loads still waiting. -/
def State.waitingLdvs (s : State) (c : Nat) : List LLOp :=
  s.fe.llops.filter fun o => ((s.warp? o.core o.slot).any fun w => s.ctxOf w == c)
    && s.mem.reqs.any fun r => r.llop == some o.id && !r.performed && match r.kind with
      | .ldv _ => true
      | _ => false

/-- One step of the drain: no clause goes on, waiting versioned loads are abandoned, warps leave the grid, and dirty lines go home. -/
def State.drainCtx (s : State) (c : Nat) : State :=
  let s1 := s.fe.issues.foldl (fun s i => s.stopIssue c i) s
  let s2 := (s1.waitingLdvs c).foldl State.abandonLdv s1
  let s3 := (s2.grid.runs.filter fun r => r.ctx == c && !r.drain).foldl (fun s r => s.drainWarp r.core r.slot none) s2
  (s3.mem.fab.filter fun l => l.ctx == c && l.dirty != 0).foldl State.writeBack s3

/-- The drain part is over: nothing of the context is on its way. -/
def State.ctxQuiet (s : State) (c : Nat) : Bool :=
  (s.ctxWarps c).all (fun w => s.quiet w && !w.threads.any fun t => t.gridFault.isSome)
    && !(s.grid.runs.any fun r => r.ctx == c)
    && !(s.mem.reqs.any fun r => r.ctx == c && !(r.performed && r.error.isNone))
    && !(s.mem.fab.any fun l => l.ctx == c && l.dirty != 0)

/-- A save begins: Almanac starts nothing more of the context, and its queues are unmapped. -/
def State.beginSave (s : State) (c owner : Nat) : State :=
  let s1 := { s with nonce := s.nonce + 1, saved := { s.saved with draining := (c, s.nonce, owner) :: s.saved.draining.filter fun d => d.1 != c } }
  let mine := (s1.alm.queues.filter fun q => s1.qCtx q.q == c).map Queue.q
  (mine.foldl (fun s q => (s.unmapQueue q).updQueue q fun x => { x with waiting := none }) s1).giveSlots Config.queueSlots

-- The save part (R409) -----------------------------------------------------------------------------------------------------------------------------------

/-- A step that a graph or Almanac's own operation owes. -/
def ownedMove (graphs ops : List Nat) : Instr → Bool
  | .graphNodeFire g _ | .graphNodeEnd g _ | .hostringRecordCopy g _ | .hostringCtimeExpiry g _ => graphs.contains g
  | .btChunkComplete o _ | .heldFaultRetry o | .engineFault o | .engineFaultHeld o => ops.contains o
  | _ => false

/-- An engine operation of Almanac for a context. -/
def EngOp.almOf (c : Nat) (o : EngOp) : Bool := o.ctx == c && match o.owner with
  | .handle _ _ => false
  | _ => true

/-- Moves that wait at a home, for a range or for a link. -/
def State.waitingMoves (s : State) : List Instr :=
  (s.mem.home.flatMap HomeLine.waiters ++ s.mem.ranging.flatMap RangeJob.held ++ s.links.waits.filterMap WakeWait.msg).filterMap fun x => match x with
    | .move i => some i
    | _ => none

/-- Everything of a drained context taken off the module and into an image. -/
def State.takeImage (s : State) (c serial base size : Nat) : State :=
  let wgs := s.fe.wgs.filter fun g => (s.launch? g.launch).any fun l => l.ctx == c
  let (parked, s1) := wgs.foldl (fun (x : List Parked × State) g =>
    let (p, s') := (x.2.uncharge g).suspendWg g
    (x.1 ++ [p], s')) ([], s)
  let pend (t : Thread) : Thread := { t with deferred := t.deferred.map fun d => { d with now := true } }
  let traps (p : Parked) : Parked := { p with warps := p.warps.map fun w => { w with threads := w.threads.map pend } }
  let ownWg (p : Parked) : Bool := (s.launch? p.wg.launch).any fun l => l.ctx == c
  let s2 := (s1.grid.cfgs.filter fun x => x.ctx == c).foldl State.unload s1
  let graphs := s2.alm.graphs.filter fun g => g.ctx == c
  let ops := s2.eng.ops.filter (EngOp.almOf c)
  let owned := ownedMove (graphs.map Graph.id) (ops.map EngOp.id)
  let img : Image :=
    { ctx := c, base := base, serial := serial, size := size, wgs := (parked ++ s2.saved.parked.filter ownWg).map traps,
      launches := s2.alm.launches.filter fun l => l.ctx == c, graphs := graphs, recs := s2.grid.recs.filter fun r => r.ctx == c,
      running := (s2.alm.queues.filter fun q => s2.qCtx q.q == c).map fun q => (q.q, q.running), ops := ops,
      moves := ((s2.agenda.filter fun m => owned m.what).map fun m => (m.at_, m.what)) ++ (s2.waitingMoves.filter owned).map fun i => (s2.now, i) }
  let off (q : Queue) : Queue := if s2.qCtx q.q = c then { q with running := [] } else q
  let kept := s2.alm.launches.filter fun l => l.ctx != c
  { s2 with
    agenda := s2.agenda.filter fun m => !owned m.what,
    alm := { s2.alm with
      launches := kept, graphs := s2.alm.graphs.filter fun g => g.ctx != c, queues := s2.alm.queues.map off,
      reserve := s2.alm.reserve.filter fun r => kept.any fun l => l.id == r.2 },
    eng := { s2.eng with ops := s2.eng.ops.filter fun o => !o.almOf c },
    grid := { s2.grid with
      recs := s2.grid.recs.filter fun r => r.ctx != c, placing := s2.grid.placing.filter fun p => p.ctx != c },
    mem := { s2.mem with fab := s2.mem.fab.filter fun l => l.ctx != c },
    iso := { s2.iso with ctxs := s2.iso.ctxs.map fun x => if x.id = c then { x with saved := true } else x },
    saved := { s2.saved with
      parked := s2.saved.parked.filter fun p => !ownWg p, images := img :: s2.saved.images,
      draining := s2.saved.draining.filter fun d => d.1 != c } }

/-- The bytes of an image at its physical base. -/
def State.writeImage (s : State) (die serial base size : Nat) : State :=
  (s.writePieces (Who.almanac 0 die) (pieces ((List.range size).map fun i => (base + i, base + i, Config.imageByte serial i)))).2

-- The resume (R412) ------------------------------------------------------------------------------------------------------------------------------------------

/-- The image of a context at a base, whose bytes stand there as its save wrote them. -/
def State.imageAt (s : State) (c base : Nat) : Option Image :=
  s.saved.images.find? fun i => i.ctx == c && i.base == base && (List.range i.size).all fun k => !s.homeLost (base + k) && !s.veiled 0 (lineOf (base + k)) false && s.byteNow (base + k) == Config.imageByte i.serial k

/-- A restored record: one whose cut meets a lost die wherever it could run is refused (R412). -/
def State.restoreRec (s : State) (dies : Nat) (r : PlaceRec) : PlaceRec :=
  let far := ((GRec.hands r.bytes).map GHand.hdie).filter fun d => d ≠ 0
  let bad (h : Nat) : Bool := far.any fun d => s.links.lost.contains ((h + d) % 4)
  if r.status.isNone && GRec.cut r.bytes && (List.range 4).all fun h => !dies.testBit h || bad h then { r with status := some 0x0A07 } else r

/-- Everything of an image brought back: its workgroups wait as ready items of their launches, for the dies of the mask. -/
def State.restore (s : State) (i : Image) (dies : Nat) : State :=
  let back (q : Queue) : Queue := match i.running.find? fun x => x.1 == q.q with
    | some x => { q with running := x.2 }
    | none => q
  let s1 : State :=
    { s with
      alm := { s.alm with
        launches := s.alm.launches ++ i.launches.map (fun l => { l with diem := some dies }), graphs := s.alm.graphs ++ i.graphs,
        queues := s.alm.queues.map back },
      eng := { s.eng with ops := s.eng.ops ++ i.ops },
      grid := { s.grid with recs := (s.grid.recs.filter fun r => r.ctx != i.ctx) ++ i.recs.map (s.restoreRec dies) },
      iso := { s.iso with ctxs := s.iso.ctxs.map fun x => if x.id = i.ctx then { x with saved := false } else x },
      saved := { s.saved with parked := s.saved.parked ++ i.wgs.map fun p => { p with dies := dies } } }
  ((i.moves.foldl (fun s m => s.after (m.1 - s.now) m.2) s1).requestQueues i.ctx).pokeAll

-- The instruction (R411) --------------------------------------------------------------------------------------------------------------------------------------

/-- What one lane's descriptor comes to: a status, or a wait. -/
inductive SaveStep where
  | done (code : Nat) (s : State)
  | wait (s : State)
  deriving DecidableEq, Repr

/-- One lane's save, begun or continued: of the descriptor at an address, by a thread on a core. -/
def State.saveStep (s : State) (core owner a : Nat) (d : SaveDesc) : SaveStep :=
  let c := d.ctx
  match s.saved.draining.find? fun x => x.1 == c && s.isDraining c with
  | some (_, serial, by_) =>
    if by_ ≠ owner then .done 0x0C13 s
    else
      let s1 := s.drainCtx c
      if !s1.ctxQuiet c then .wait s1
      else
        let size := Config.imageBytes serial
        let s2 := (s1.takeImage c serial d.ibase size).writeImage (dieOf core) serial d.ibase size
        let put := bytesOf 8 size ++ bytesOf 8 (s2.cal (dieOf core))
        .done 0 (s2.vwrite (Who.core 0 0 core) core true (a + 0x18) put).2.pokeAll
  | none =>
    if Config.imageBytes s.nonce > d.isize then .done 0x0C12 s
    else if !s.ctxWorks c || s.ctxSaved c then .done 0x0C13 s
    else .wait ((s.beginSave c owner).drainCtx c)

/-- One lane's resume. -/
def State.resumeStep (s : State) (d : SaveDesc) : SaveStep :=
  let c := d.ctx
  if s.isDraining c || s.ctxWorks c then .done 0x0C13 s
  else match s.imageAt c d.ibase with
    | none => .done 0x0C14 s
    | some i =>
      if (tagsOf i.launches i.graphs i.ops).any (tagsOf s.alm.launches s.alm.graphs s.eng.ops).contains then .done 0x0C13 s
      else .done 0 (s.restore i (s.resumeDies d))

/-- Lanes' descriptors applied in ascending order up to one that must wait: the state, and whether all are done. What a lane has come to stands in its
thread. -/
def saveLanes (core slot : Nat) (go : State → Nat → SaveStep) : List Nat → State → Bool × State
  | [], s => (true, s)
  | l :: t, s => match go s l with
    | .wait s1 => (false, s1)
    | .done c s1 => saveLanes core slot go t (s1.updWarp core slot fun w => w.mapThreads (maskOf [l]) fun _ x => { x with laneDone := some c })

/-- The shared operation of ctx.save: context 0 only; descriptors are read, and written for a save, through its translation, and each lane's is applied in
ascending order. A lane whose save is not over waits at the instruction with those after it; d is written, and the flag falls, when all are done (03 R63). -/
def ctxForm (o : Operands) (s : State) : State :=
  withLL o (fun f w act s => privileged f w act s (
    if s.ctxOf w ≠ 0 then s.trapHere f w act { kind := kPrivilege }
    else forked f w s fun s w =>
      let who := Who.front 0 f
      let addr (l : Nat) : Nat := (srcA64 w o l).toNat
      let read (l : Nat) : Except (Nat × Nat) (List Byte) :=
        match s.vread who f.core (w.supIn f) .read none (addr l) 64 with
        | .error e => .error e
        | .ok bs =>
          match (if (saveDesc bs).op = 0 then s.vtargets who f.core (w.supIn f) .write none (addr l + 0x18) 16 else .ok []) with
          | .error e => .error e
          | .ok _ => .ok bs
      let rest := (lanesOf act).filter fun l => (w.thread l).laneDone.isNone
      let errs := rest.filterMap fun l => match read l with
        | .error (kd, va) => some ({ lane := l, kind := kd, va := va, page := s.pageSize f.core 0 va } : LaneErr)
        | .ok _ => none
      match errs with
      | e :: _ => (errs.foldl (fun s x => s.noteRead who f.core (w.supIn f) .read (x.kind, x.va)) s).trapHere f w act { kind := e.kind, errs := errs }
      | [] =>
        let go (s : State) (l : Nat) : SaveStep :=
          let d := saveDesc (match read l with
            | .ok bs => bs
            | .error _ => [])
          if s.saveParamBad (addr l) d then .done 0x0C11 s
          else if d.op = 0 then s.saveStep f.core (512 * w.wg + 32 * w.sub + l) (addr l) d else s.resumeStep d
        let (isOver, s1) := saveLanes f.core f.slot go rest s
        match s1.warp? f.core f.slot with
        | none => s1
        | some w1 =>
          if !isOver then s1.retryAll f w1 fun _ => .turn
          else
            let code (l : Nat) : Nat := ((w1.thread l).laneDone).getD 0
            s1.llResult f (w1.mapThreads act fun _ t => { t with laneDone := none }) act o.fsel [o.d.toNat]
              ((lanesOf act).map fun l => { lane := l, reg := o.d.toNat, val := if code l = 0 then 0 else excStatus (code l) }))) s

/-- CTX_SAVE (R408, R411): the word ctx.save; its descriptor may ask for a resume. -/
def execCtxSave (o : Operands) (s : State) : Out := .next (ctxForm o s)
/-- CTX_RESUME (R411, R412): the same word with OP 01. -/
def execCtxResume (o : Operands) (s : State) : Out := .next (ctxForm o s)

end Sys2Proof.Machine
end

