-- ==== Sys2Proof/Machine/Rounds.lean ====
section
/-!
DEFINITION. Machine/Rounds.lean: the dispatchers: what is ready, where a workgroup starts, rounds and the reservation for a starved item (02 R30, R35,
R36, R40, R42; 12 R307 to R309).
-/
namespace Sys2Proof.Machine

/-- What a launch starts next: a workgroup that waits without a core, or new workgroups at their places in the grid (R307, 02 R42). -/
inductive StartUnit where
  | resume (p : Parked)
  | fresh (xs : List (Nat × Nat × Nat))
  deriving DecidableEq, Repr

/-- The next unit of a launch; none where nothing is left to start or it may start nothing. -/
def State.nextUnit (s : State) (l : Launch) : Option StartUnit :=
  if !s.ctxRuns l.ctx || l.killed.isSome then none
  else match s.saved.parked.find? fun p => p.wg.launch == l.id && s.parkedReady p with
    | some p => some (.resume p)
    | none =>
      if l.stopStatus.isSome || l.next ≥ l.total then none
      else
        let x := l.next % l.gx
        let n := if l.clg then min (l.clw - x % l.clw) (l.gx - x) else 1
        some (.fresh ((List.range n).map fun j => (x + j, l.next / l.gx % l.gy, l.next / (l.gx * l.gy))))

/-- Warps, frame bytes, stage memory, block frames and count of workgroups that a unit needs on each core. -/
def Launch.shape (l : Launch) : StartUnit → Nat × Nat × Nat × Nat × Nat
  | .resume p => (p.warps.length, p.wg.frameLen, p.wg.stageKiB, p.frames.length, 1)
  | .fresh xs => (l.wgw, l.wgw * 32 * (8 * l.regb) * 4, l.stage, 0, xs.length)

/-- Cores that another member of a resumed workgroup's cluster group holds (02 R23, R42). -/
def State.groupCores (s : State) (g : Wg) : List Nat :=
  if g.group.isNone then [] else (s.fe.wgs.filter fun x => x.launch == g.launch && x.group == g.group && x.id != g.id).map Wg.core

/-- A die on which a unit may start: those of a resume's DIEM, or of the launch's (17 R412). -/
def unitMayUse (l : Launch) (u : StartUnit) (die : Nat) : Bool :=
  match u with
  | .resume p => p.dies.testBit die
  | .fresh _ => match l.diem with
    | some m => m.testBit die
    | none => true

/-- Sets of cores of a die that a unit fits (02 R30, R42): one core, or as many cores of one cluster as the unit has members, the lowest-numbered that fit
(log entry 7, DESIGN CHOICE). A resume that feeds grid ports takes a core where they are free (log entry 35, DESIGN CHOICE). -/
def State.coreSets (s : State) (l : Launch) (u : StartUnit) (die : Nat) : List (List Nat) :=
  let (w, len, kib, frames, n) := l.shape u
  let held := match u with
    | .resume p => s.groupCores p.wg
    | .fresh _ => []
  let ports := match u with
    | .resume p => p.gports.map Prod.fst
    | .fresh _ => []
  let fits (c : Nat) : Bool :=
    s.coreFits c w len kib && decide (frames ≤ (s.freeFrames c).length)
      && !(ports.any fun q => s.eng.gports.any fun g => g.1 == gridPort c (q % 16) && (g.2.bound || g.2.queued != 0))
      && (held.isEmpty || (!held.contains c && held.all fun h => clusterOf h == clusterOf c))
  if !unitMayUse l u die || s.links.lost.contains die then []
  else if n = 1 then
    ((List.range Config.coresPerDie).filter fun i => fits (die * Config.coresPerDie + i)).map fun i => [die * Config.coresPerDie + i]
  else
    (List.range (Config.coresPerDie / 4)).filterMap fun i =>
      let cs := ((List.range 4).map fun j => die * Config.coresPerDie + 4 * i + j).filter fits
      if n ≤ cs.length then some (cs.take n) else none

/-- Nodes of a chain, each with the chain from it to the root. -/
def chainTails : List (Nat × Rcb) → List (Nat × List (Nat × Rcb))
  | [] => []
  | (a, r) :: t => (a, (a, r) :: t) :: chainTails t

/-- The cores that a start newly brings into use under a node. -/
def State.newCores (s : State) (ctx addr : Nat) (cores : List Nat) : Nat := (cores.filter fun c => !s.coreHeld ctx addr c (2 ^ 64)).length

/-- The budgets of 02 R35 allow a start on these cores. -/
def State.budgetOk (s : State) (l : Launch) (chain : List (Nat × Rcb)) (cores : List Nat) (kib : Nat) : Bool :=
  (chainTails chain).all fun n =>
    match n.2 with
    | [] => true
    | (_, r) :: _ =>
      decide (r.cuse + s.newCores l.ctx n.1 cores ≤ effective 0 Rcb.cores n.2) && decide (r.suse + cores.length * kib ≤ effective 1 Rcb.stageb n.2)

/-- Private areas suffice for new workgroups (02 R40). -/
def Launch.privOk (l : Launch) (u : StartUnit) : Bool :=
  match u with
  | .resume _ => true
  | .fresh xs => l.privs = 0 || l.privUsed.length + xs.length ≤ l.privn

/-- Another launch holds the cores of a die for itself (R309). -/
def State.heldBack (s : State) (l : Launch) (die : Nat) : Bool := s.alm.reserve.any fun r => r.1 == die && r.2 != l.id

/-- Where the next unit of a launch can start now: the home die first, then the others in order (R307); the unit, the cores, the chain. While the region
chain cannot be read no parked workgroup resumes (02 R36 speaks of running ones only; log entry 27, DESIGN CHOICE). -/
def State.placeFor (s : State) (l : Launch) : Option (Nat × StartUnit × List Nat × List (Nat × Rcb)) :=
  match s.nextUnit l, s.regionOf l with
  | some u, some chain =>
    if !l.privOk u then none
    else
      let kib := (l.shape u).2.2.1
      let dies := l.home :: (List.range Config.nDies).filter fun d => d != l.home
      dies.findSome? fun d =>
        if s.heldBack l d then none
        else
          let ok := (s.coreSets l u d).filter fun cs => s.budgetOk l chain cs kib
          (ok[Config.pick s.nonce % ok.length]?).map fun cs => (d, u, cs, chain)
  | _, _ => none

/-- A launch whose next unit fits no core of a die that it may use, and can start on no other, though its budgets would allow it: starved there (R309). -/
def State.starved (s : State) (l : Launch) (die : Nat) : Bool :=
  match s.nextUnit l, s.regionOf l with
  | some u, some chain =>
    let (_, _, kib, _, n) := l.shape u
    !s.links.lost.contains die && unitMayUse l u die && l.privOk u && (s.coreSets l u die).isEmpty && (s.placeFor l).isNone && (chainTails chain).all fun x =>
      match x.2 with
      | [] => true
      | (_, r) :: _ => decide (r.cuse + n ≤ effective 0 Rcb.cores x.2) && decide (r.suse + n * kib ≤ effective 1 Rcb.stageb x.2)
  | _, _ => false

/-- A launch whose region can no longer be read (02 R36): it starts nothing more. -/
def State.regionGone (s : State) (l : Launch) : State :=
  if (s.nextUnit l).isSome && (s.regionOf l).isNone && l.stopStatus.isNone then
    ((s.regionFault l).setLaunch { l with stopStatus := some 0x0106 }).launchCheck l.id
  else s

-- Starting workgroups ----------------------------------------------------------------------------------------------------------------------------------

/-- The lowest private index that is free (02 R40). -/
def lowestFree (used : List Nat) : Nat := ((List.range (used.length + 1)).find? fun i => !used.contains i).getD 0

/-- Barriers of a workgroup that starts (14 R354): barrier 0 expects every thread, the others are uninitialised. -/
def startBarriers (warps : Nat) : List Barrier := { e := 32 * warps } :: List.replicate 15 {}

/-- Physical bytes whose contents become undefined: at their homes, and in every copy of their lines. -/
def State.undefineAt (s : State) (pa len n : Nat) : State :=
  let free (line : Nat) (d : LineData) : LineData :=
    mergeLine d (BitVec.ofNat 1024 (leNat (Config.freeByte n) line 128)) ((List.range 128).foldl (fun m i =>
      if pa ≤ line + i ∧ line + i < pa + len then m ||| byteMask i 1 else m) 0)
  let meets (line : Nat) : Bool := decide (line < pa + len ∧ pa < line + 128)
  { s with mem := { s.mem with
      undef := (pa, pa + len, n) :: carve s.mem.undef pa (pa + len),
      die := s.mem.die.map fun d => if meets d.line then { d with data := free d.line d.data } else d,
      fab := s.mem.fab.map fun l => if meets l.pline then { l with data := free l.pline l.data } else l,
      consts := s.mem.consts.filter fun l => !meets l.pline } }
/-- Those of the mapped pages from an address of a context up to another. -/
def State.undefine (s : State) (core root n hi : Nat) : Nat → Nat → State
  | 0, _ => s
  | fuel + 1, va =>
    if hi ≤ va then s
    else match s.walk core va 4 root with
      | .error _ => State.undefine s core root n hi fuel (va - va % 4096 + 4096)
      | .ok (e, size) =>
        let next := min hi (va - va % size + size)
        State.undefine (s.undefineAt ((e.extractLsb' 12 40).toNat * 4096 + va % size) (next - va) n) core root n hi fuel next
/-- The private area of an index of a launch is undefined when a workgroup starts with it (02 R40). -/
def State.clearPriv (s : State) (core : Nat) (l : Launch) (i : Nat) : State :=
  let lo := l.privb.toNat + 512 * i * l.privs * 16
  let hi := lo + 512 * l.privs * 16
  match s.ctx? l.ctx with
  | none => s
  | some c => { s with nonce := s.nonce + 1 }.undefine core c.ptroot s.nonce hi ((hi - lo) / 4096 + 2) lo

/-- One new workgroup on a core (02 R25, R30; 14 R354): zero registers, false predicates, at the launch's entry. What happened before the
launch is seen by the workgroup (12 R302, 07 R205, R213). -/
def State.startWg (s : State) (l : Launch) (chain : List (Nat × Rcb)) (core : Nat) (pos : Nat × Nat × Nat) (rank size : Nat) (group : Option Nat) : State :=
  match s.launch? l.id with
  | none => s
  | some l =>
    let id := s.nonce
    let len := l.wgw * 32 * (8 * l.regb) * 4
    let priv := lowestFree l.privUsed
    let g : Wg :=
      { id := id, launch := l.id, core := core, x := pos.1, y := pos.2.1, z := pos.2.2, warps := l.wgw, clrank := rank, clsize := size,
        group := group, privIdx := priv, stageKiB := l.stage, serial := id, frameLo := (s.frameFit core len).getD 0, frameLen := len,
        region := chain.map Prod.fst, barriers := startBarriers l.wgw }
    let warp (x : Nat × Nat) : Warp :=
      { core := core, slot := x.2, wg := id, sub := x.1, budget := 8 * l.regb, threads := List.replicate 32 { pc := l.entry } }
    let warps := ((List.range l.wgw).zip (s.freeSlots core)).map warp
    let s1 := chain.foldl (fun s n => s.chargeRcb l.ctx l.home l.tag n.1 (if s.coreHeld l.ctx n.1 core id then 0 else 1) (l.stage : Int)) s
    let l' := { l with next := l.next + 1, privUsed := l.privUsed ++ [priv] }
    let s2 := { s1 with nonce := id + 1, fe := { s1.fe with wgs := s1.fe.wgs ++ [g], warps := s1.fe.warps ++ warps } }
    (((s2.setLaunch l').clearPriv core l priv).joinAll core l.ctx).dropConsts fun x => x.cluster == clusterOf core

/-- A unit of a launch started on cores (R307, 02 R42). -/
def State.startUnit (s : State) (l : Launch) (u : StartUnit) (cores : List Nat) (chain : List (Nat × Rcb)) : State :=
  let s0 := { s with nonce := s.nonce + 1, alm := { s.alm with reserve := s.alm.reserve.filter fun r => r.2 != l.id } }
  match u with
  | .fresh xs =>
    let group := if l.clg then some s.nonce else none
    ((xs.zip cores).zipIdx).foldl (fun s x => s.startWg l chain x.1.2 x.1.1 x.2 xs.length group) s0
  | .resume p =>
    let core := cores.headD 0
    let s1 := { s0 with saved := { s0.saved with parked := s0.saved.parked.filter fun x => x.wg.id != p.wg.id } }
    let p' := { p with wg := { p.wg with region := chain.map Prod.fst } }
    let s2 := chain.foldl (fun s n => s.chargeRcb l.ctx l.home l.tag n.1 (if s.coreHeld l.ctx n.1 core p.wg.id then 0 else 1) (p.wg.stageKiB : Int)) s1
    s2.placeWg p' core

-- Rounds (R308) ------------------------------------------------------------------------------------------------------------------------------------------

/-- Age of a launch on a die. -/
def Launch.ageOn (l : Launch) (die : Nat) : Nat := (l.age[die]?).getD 0
/-- Base priority of a launch: the effective PRIO of its region. -/
def State.launchPrio (s : State) (l : Launch) : Nat := ((s.regionOf l).map (effective 4 Rcb.prio)).getD 0

/-- Ready items of a die: key (a queue's number, or 4,096 and more for a launch) and effective priority. -/
def State.readyItems (s : State) (die : Nat) : List (Nat × Nat) :=
  ((s.alm.queues.filter fun x => s.qHome x.q == die && s.packetReady x).map fun x => (x.q, min 15 (s.qPrio x.q + x.age)))
    ++ (s.alm.launches.filter fun l => (s.placeFor l).any fun p => p.1 == die).map fun l => (4096 + l.id, min 15 (s.launchPrio l + l.ageOn die))

/-- The age of an item on a die set. -/
def State.setAge (s : State) (die key : Nat) (f : Nat → Nat) : State :=
  if key < 4096 then s.updQueue key fun x => { x with age := f x.age }
  else match s.launch? (key - 4096) with
    | some l => s.setLaunch { l with age := l.age.set die (f (l.ageOn die)) }
    | none => s

/-- One item served: a packet or a workgroup starts (R308); none where it no longer can. -/
def State.serve (s : State) (die key : Nat) : Option State :=
  if key < 4096 then
    match s.queue? key with
    | some x => if s.packetReady x then some ((s.setAge die key fun _ => 0).startPacket key) else none
    | none => none
  else match s.launch? (key - 4096) with
    | none => none
    | some l =>
      match s.placeFor l with
      | some (d, u, cores, chain) => if d = die then some ((s.setAge die key fun _ => 0).startUnit l u cores chain) else none
      | none => none

/-- Items served one after another: those that could not be served, and the state after. -/
def State.serveAll (s : State) (die : Nat) : List Nat → List Nat × State
  | [] => ([], s)
  | k :: t =>
    match s.serve die k with
    | some s1 => s1.serveAll die t
    | none =>
      let (left, s1) := s.serveAll die t
      (k :: left, s1)

/-- A list from the first key above `last` round to the last not above it. -/
def roundRobin (last : Nat) (ks : List Nat) : List Nat :=
  let sorted := ks.foldl (fun xs k => (xs.filter fun x => decide (x < k)) ++ [k] ++ xs.filter fun x => decide (k < x)) []
  (sorted.filter fun k => decide (last ≤ k)) ++ sorted.filter fun k => decide (k < last)

/-- Starved launches of a die grow older, and the one that reached 15 first has the die's cores reserved (R309; log entry 21, DEDUCED). -/
def State.starvation (s : State) (die : Nat) : State :=
  let starving := s.alm.launches.filter fun l => s.starved l die
  let s1 := starving.foldl (fun s l => s.setAge die (4096 + l.id) fun a => min 15 (a + 1)) s
  let full := (s1.alm.launches.filter fun l => starving.any (fun x => x.id == l.id) && min 15 (s1.launchPrio l + l.ageOn die) == 15).map fun l => (die, l.id)
  let kept := s1.alm.hungry.filter fun x => x.1 != die || full.contains x
  let s2 := { s1 with alm := { s1.alm with hungry := kept ++ full.filter fun x => !kept.contains x } }
  if s2.alm.reserve.any fun r => r.1 == die then s2
  else match s2.alm.hungry.find? fun x => x.1 == die with
    | some x => { s2 with alm := { s2.alm with reserve := x :: s2.alm.reserve } }
    | none => s2

/-- Work for a dispatcher that a later round may find ready. -/
def State.workLeft (s : State) (die : Nat) : Bool :=
  s.parkPending die || (s.alm.queues.any fun x => x.mapped && s.qHome x.q == die && s.qRd x.q != s.qKi x.q)
    || s.alm.launches.any fun l => (s.nextUnit l).isSome

/-- DISPATCH_ROUND (R308, R309): workgroups that are parked in dwait leave their cores; then every ready item of the highest effective priority is
served once, in turn, and the ready items that are not served grow older. The next round at that priority starts from the first item that this one could not
serve, else after the last (log entry 7, DESIGN CHOICE). -/
def execDispatchRound (die : Nat) (s : State) : Out :=
  .next (if s.links.lost.contains die then s
    else
      let s0 := s.alm.launches.foldl State.regionGone (s.parkReady die)
      let items := s0.readyItems die
      let top := (items.map Prod.snd).foldl max 0
      let served := (items.filter fun i => i.2 == top).map Prod.fst
      let order := roundRobin (smGet s0.alm.rr (16 * die + top)).toNat served
      let (left, s1) := s0.serveAll die order
      let s2 := (items.filter fun i => i.2 != top || left.contains i.1).foldl (fun s i => s.setAge die i.1 fun a => min 15 (a + 1)) s1
      let s3 := match left.head?.or (order.getLast?.map fun k => k + 1) with
        | some k => { s2 with alm := { s2.alm with rr := smSet s2.alm.rr (16 * die + top) (BitVec.ofNat 32 k) } }
        | none => s2
      let s4 := s3.starvation die
      if s4.workLeft die then s4.poke die else s4)

end Sys2Proof.Machine
end

