-- ==== Sys2Proof/Machine/Dispatch.lean ====
section
/-!
DEFINITION. Machine/Dispatch.lean: the meaning of every instruction and event, one arm each.
-/
namespace Sys2Proof.Machine

/-- One instruction or event. -/
def exec (i : Instr) (s : State) : Host.Outcome State Fault Refusal :=
  match i with
  | .iadd o => Sys2Proof.Machine.execIadd o s
  | .isub o => Sys2Proof.Machine.execIsub o s
  | .iadd3 o => Sys2Proof.Machine.execIadd3 o s
  | .imul o => Sys2Proof.Machine.execImul o s
  | .imulhi o => Sys2Proof.Machine.execImulhi o s
  | .imad o => Sys2Proof.Machine.execImad o s
  | .iabs o => Sys2Proof.Machine.execIabs o s
  | .ineg o => Sys2Proof.Machine.execIneg o s
  | .imin o => Sys2Proof.Machine.execImin o s
  | .imax o => Sys2Proof.Machine.execImax o s
  | .iaddc o => Sys2Proof.Machine.execIaddc o s
  | .isubb o => Sys2Proof.Machine.execIsubb o s
  | .isad o => Sys2Proof.Machine.execIsad o s
  | .lea o => Sys2Proof.Machine.execLea o s
  | .leaHi o => Sys2Proof.Machine.execLeaHi o s
  | .andB o => Sys2Proof.Machine.execAnd o s
  | .orB o => Sys2Proof.Machine.execOr o s
  | .xorB o => Sys2Proof.Machine.execXor o s
  | .notB o => Sys2Proof.Machine.execNot o s
  | .tern o => Sys2Proof.Machine.execTern o s
  | .shl o => Sys2Proof.Machine.execShl o s
  | .shr o => Sys2Proof.Machine.execShr o s
  | .sar o => Sys2Proof.Machine.execSar o s
  | .rotl o => Sys2Proof.Machine.execRotl o s
  | .fshl o => Sys2Proof.Machine.execFshl o s
  | .bfe o => Sys2Proof.Machine.execBfe o s
  | .bfi o => Sys2Proof.Machine.execBfi o s
  | .popc o => Sys2Proof.Machine.execPopc o s
  | .clz o => Sys2Proof.Machine.execClz o s
  | .ctz o => Sys2Proof.Machine.execCtz o s
  | .brev o => Sys2Proof.Machine.execBrev o s
  | .bperm o => Sys2Proof.Machine.execBperm o s
  | .icmp op o => Sys2Proof.Machine.execIcmp op o s
  | .sel o => Sys2Proof.Machine.execSel o s
  | .mov o => Sys2Proof.Machine.execMov o s
  | .movi o => Sys2Proof.Machine.execMovi o s
  | .movk o => Sys2Proof.Machine.execMovk o s
  | .psetp op o => Sys2Proof.Machine.execPsetp op o s
  | .p2v o => Sys2Proof.Machine.execP2v o s
  | .v2p o => Sys2Proof.Machine.execV2p o s
  | .srd o => Sys2Proof.Machine.execSrd o s
  | .cvti o => Sys2Proof.Machine.execCvti o s
  | .pack o => Sys2Proof.Machine.execPack o s
  | .unpack o => Sys2Proof.Machine.execUnpack o s
  | .fadd o => Sys2Proof.Machine.execFadd o s
  | .fsub o => Sys2Proof.Machine.execFsub o s
  | .fmul o => Sys2Proof.Machine.execFmul o s
  | .ffma o => Sys2Proof.Machine.execFfma o s
  | .fmin o => Sys2Proof.Machine.execFmin o s
  | .fmax o => Sys2Proof.Machine.execFmax o s
  | .fcmp op o => Sys2Proof.Machine.execFcmp op o s
  | .fclass o => Sys2Proof.Machine.execFclass o s
  | .hadd2 o => Sys2Proof.Machine.execHadd2 o s
  | .hmul2 o => Sys2Proof.Machine.execHmul2 o s
  | .hfma2 o => Sys2Proof.Machine.execHfma2 o s
  | .hmin2 o => Sys2Proof.Machine.execHmin2 o s
  | .hmax2 o => Sys2Proof.Machine.execHmax2 o s
  | .fdot2 o => Sys2Proof.Machine.execFdot2 o s
  | .frcp o => Sys2Proof.Machine.execFrcp o s
  | .frsq o => Sys2Proof.Machine.execFrsq o s
  | .fsqrt o => Sys2Proof.Machine.execFsqrt o s
  | .fexp2 o => Sys2Proof.Machine.execFexp2 o s
  | .flog2 o => Sys2Proof.Machine.execFlog2 o s
  | .fsin o => Sys2Proof.Machine.execFsin o s
  | .fcos o => Sys2Proof.Machine.execFcos o s
  | .ftanh o => Sys2Proof.Machine.execFtanh o s
  | .cvt o => Sys2Proof.Machine.execCvt o s
  | .cvtBlkTo o => Sys2Proof.Machine.execCvtBlkTo o s
  | .cvtBlkFrom o => Sys2Proof.Machine.execCvtBlkFrom o s
  | .xlane op o => Sys2Proof.Machine.execXlane op o s
  | .vote op o => Sys2Proof.Machine.execVote op o s
  | .voteBallot o => Sys2Proof.Machine.execVoteBallot o s
  | .matchLanes op o => Sys2Proof.Machine.execMatch op o s
  | .redux op o => Sys2Proof.Machine.execRedux op o s
  | .fredux op o => Sys2Proof.Machine.execFredux op o s
  | .scan op o => Sys2Proof.Machine.execScan op o s
  | .ld n o => Sys2Proof.Machine.execLd n o s
  | .st n o => Sys2Proof.Machine.execSt n o s
  | .lds n o => Sys2Proof.Machine.execLds n o s
  | .sts n o => Sys2Proof.Machine.execSts n o s
  | .ldp n o => Sys2Proof.Machine.execLdp n o s
  | .stp n o => Sys2Proof.Machine.execStp n o s
  | .ldc o => Sys2Proof.Machine.execLdc o s
  | .prefetch lv o => Sys2Proof.Machine.execPrefetch lv o s
  | .atom op o => Sys2Proof.Machine.execAtom op o s
  | .atomCas o => Sys2Proof.Machine.execAtomCas o s
  | .atomFadd o => Sys2Proof.Machine.execAtomFadd o s
  | .red op o => Sys2Proof.Machine.execRed op o s
  | .redFadd o => Sys2Proof.Machine.execRedFadd o s
  | .ldv o => Sys2Proof.Machine.execLdv o s
  | .stv o => Sys2Proof.Machine.execStv o s
  | .reclaim o => Sys2Proof.Machine.execReclaim o s
  | .fence o => Sys2Proof.Machine.execFence o s
  | .lockLine o => Sys2Proof.Machine.execLockLine o s
  | .unlockLine o => Sys2Proof.Machine.execUnlockLine o s
  | .cflush op o => Sys2Proof.Machine.execCflush op o s
  | .waddr op o => Sys2Proof.Machine.execWaddr op o s
  | .btCopy o => Sys2Proof.Machine.execBtCopy o s
  | .btGather o => Sys2Proof.Machine.execBtGather o s
  | .btScatter o => Sys2Proof.Machine.execBtScatter o s
  | .btWait o => Sys2Proof.Machine.execBtWait o s
  | .btTest o => Sys2Proof.Machine.execBtTest o s
  | .strmBind o => Sys2Proof.Machine.execStrmBind o s
  | .winCfg o => Sys2Proof.Machine.execWinCfg o s
  | .lay o => Sys2Proof.Machine.execLay o s
  | .engCancel k o => Sys2Proof.Machine.execEngCancel k o s
  | .mxPost o => Sys2Proof.Machine.execMxPost o s
  | .mxWait o => Sys2Proof.Machine.execMxWait o s
  | .mxPoll o => Sys2Proof.Machine.execMxPoll o s
  | .mxBload o => Sys2Proof.Machine.execMxBload o s
  | .mxBfree o => Sys2Proof.Machine.execMxBfree o s
  | .mxAccrd o => Sys2Proof.Machine.execMxAccrd o s
  | .bra o => Sys2Proof.Machine.execBra o s
  | .brx o => Sys2Proof.Machine.execBrx o s
  | .jcall o => Sys2Proof.Machine.execJcall o s
  | .jcallInd o => Sys2Proof.Machine.execJcallInd o s
  | .ret o => Sys2Proof.Machine.execRet o s
  | .exit o => Sys2Proof.Machine.execExit o s
  | .loop o => Sys2Proof.Machine.execLoop o s
  | .yield o => Sys2Proof.Machine.execYield o s
  | .nop o => Sys2Proof.Machine.execNop o s
  | .trap o => Sys2Proof.Machine.execTrap o s
  | .capOff o => Sys2Proof.Machine.execCapOff o s
  | .capOn o => Sys2Proof.Machine.execCapOn o s
  | .brk o => Sys2Proof.Machine.execBrk o s
  | .barInit o => Sys2Proof.Machine.execBarInit o s
  | .barArrive o => Sys2Proof.Machine.execBarArrive o s
  | .barWait o => Sys2Proof.Machine.execBarWait o s
  | .barSync o => Sys2Proof.Machine.execBarSync o s
  | .castle o => Sys2Proof.Machine.execCastle o s
  | .tagOpen o => Sys2Proof.Machine.execTagOpen o s
  | .tagClose o => Sys2Proof.Machine.execTagClose o s
  | .sleep o => Sys2Proof.Machine.execSleep o s
  | .flagWait o => Sys2Proof.Machine.execFlagWait o s
  | .dlaunch o => Sys2Proof.Machine.execDlaunch o s
  | .dwait o => Sys2Proof.Machine.execDwait o s
  | .qpost o => Sys2Proof.Machine.execQpost o s
  | .qkick o => Sys2Proof.Machine.execQkick o s
  | .clock k o => Sys2Proof.Machine.execClock k o s
  | .perfrd o => Sys2Proof.Machine.execPerfrd o s
  | .csrr o => Sys2Proof.Machine.execCsrr o s
  | .csrw o => Sys2Proof.Machine.execCsrw o s
  | .tlbinvPage o => Sys2Proof.Machine.execTlbinvPage o s
  | .tlbinvRange o => Sys2Proof.Machine.execTlbinvRange o s
  | .tlbinvCtx o => Sys2Proof.Machine.execTlbinvCtx o s
  | .tlbinvAll o => Sys2Proof.Machine.execTlbinvAll o s
  | .tlbsync o => Sys2Proof.Machine.execTlbsync o s
  | .eret o => Sys2Proof.Machine.execEret o s
  | .faultDone o => Sys2Proof.Machine.execFaultDone o s
  | .ptabLoad o => Sys2Proof.Machine.execPtabLoad o s
  | .prangeSet o => Sys2Proof.Machine.execPrangeSet o s
  | .prangeClear o => Sys2Proof.Machine.execPrangeClear o s
  | .linkCtlRd o => Sys2Proof.Machine.execLinkCtlRd o s
  | .linkCtlRate o => Sys2Proof.Machine.execLinkCtlRate o s
  | .linkCtlRetire o => Sys2Proof.Machine.execLinkCtlRetire o s
  | .linkCtlClr o => Sys2Proof.Machine.execLinkCtlClr o s
  | .ctxSave o => Sys2Proof.Machine.execCtxSave o s
  | .ctxResume o => Sys2Proof.Machine.execCtxResume o s
  | .gred op o => Sys2Proof.Machine.execGred op o s
  | .gmrg o => Sys2Proof.Machine.execGmrg o s
  | .gdly o => Sys2Proof.Machine.execGdly o s
  | .gjoin o => Sys2Proof.Machine.execGjoin o s
  | .udiv o => Sys2Proof.Machine.execUdiv o s
  | .urem o => Sys2Proof.Machine.execUrem o s
  | .loadContext index => Sys2Proof.Machine.execLoadContext index s
  | .loadTenant index => Sys2Proof.Machine.execLoadTenant index s
  | .stopContext index => Sys2Proof.Machine.execStopContext index s
  | .flushPlacementCache index => Sys2Proof.Machine.execFlushPlacementCache index s
  | .clauseIssue core => Sys2Proof.Machine.execClauseIssue core s
  | .bundlerRegroup core => Sys2Proof.Machine.execBundlerRegroup core s
  | .longLatencyComplete id => Sys2Proof.Machine.execLongLatencyComplete id s
  | .errorResponseDelivery id => Sys2Proof.Machine.execErrorResponseDelivery id s
  | .sleepExpiry core slot lane => Sys2Proof.Machine.execSleepExpiry core slot lane s
  | .waddrDeadline core slot lane => Sys2Proof.Machine.execWaddrDeadline core slot lane s
  | .kickRegisterWrite fn offset value => Sys2Proof.Machine.execKickRegisterWrite fn offset value s
  | .queueIdleUnmap q => Sys2Proof.Machine.execQueueIdleUnmap q s
  | .dispatchRound die => Sys2Proof.Machine.execDispatchRound die s
  | .graphNodeFire g node => Sys2Proof.Machine.execGraphNodeFire g node s
  | .graphNodeEnd g node => Sys2Proof.Machine.execGraphNodeEnd g node s
  | .hostringRecordCopy g node => Sys2Proof.Machine.execHostringRecordCopy g node s
  | .hostringCtimeExpiry g node => Sys2Proof.Machine.execHostringCtimeExpiry g node s
  | .leakyBucketRefill core port => Sys2Proof.Machine.execLeakyBucketRefill core port s
  | .powerRateChange core port rate => Sys2Proof.Machine.execPowerRateChange core port rate s
  | .placementRecordReady wg head rec => Sys2Proof.Machine.execPlacementRecordReady wg head rec s
  | .placerDecline wg head => Sys2Proof.Machine.execPlacerDecline wg head s
  | .configurationArm wg head => Sys2Proof.Machine.execConfigurationArm wg head s
  | .handlerFire core cfg cell hidx iter => Sys2Proof.Machine.execHandlerFire core cfg cell hidx iter s
  | .tokenTransfer core chan => Sys2Proof.Machine.execTokenTransfer core chan s
  | .iterationCommit core iter => Sys2Proof.Machine.execIterationCommit core iter s
  | .iterationRetire core iter => Sys2Proof.Machine.execIterationRetire core iter s
  | .warpDrain core slot => Sys2Proof.Machine.execWarpDrain core slot s
  | .gridStall core cfg => Sys2Proof.Machine.execGridStall core cfg s
  | .read id => Sys2Proof.Machine.execRead id s
  | .write id => Sys2Proof.Machine.execWrite id s
  | .rmw id => Sys2Proof.Machine.execRmw id s
  | .evictClean die line => Sys2Proof.Machine.execEvictClean die line s
  | .evictDirty die line => Sys2Proof.Machine.execEvictDirty die line s
  | .ackIn line => Sys2Proof.Machine.execAckIn line s
  | .dataIn line => Sys2Proof.Machine.execDataIn line s
  | .timeout line => Sys2Proof.Machine.execTimeout line s
  | .leaseEnd line => Sys2Proof.Machine.execLeaseEnd line s
  | .writeAgain id => Sys2Proof.Machine.execWriteAgain id s
  | .versionedAccessAtHome id => Sys2Proof.Machine.execVersionedAccessAtHome id s
  | .ptsAdvance die => Sys2Proof.Machine.execPtsAdvance die s
  | .m2sMemRd pa mark => Sys2Proof.Machine.execM2sMemRd pa mark s
  | .m2sMemWr pa data => Sys2Proof.Machine.execM2sMemWr pa data s
  | .m2sBiRsp pa shared => Sys2Proof.Machine.execM2sBiRsp pa shared s
  | .hostSnoop line inval => Sys2Proof.Machine.execHostSnoop line inval s
  | .wakeLate id => Sys2Proof.Machine.execWakeLate id s
  | .dieLost die => Sys2Proof.Machine.execDieLost die s
  | .btChunkComplete op chunk => Sys2Proof.Machine.execBtChunkComplete op chunk s
  | .engineFault op => Sys2Proof.Machine.execEngineFault op s
  | .heldFaultRetry op => Sys2Proof.Machine.execHeldFaultRetry op s
  | .streamStart port => Sys2Proof.Machine.execStreamStart port s
  | .streamElementDelivery port => Sys2Proof.Machine.execStreamElementDelivery port s
  | .windowRowEmit cluster => Sys2Proof.Machine.execWindowRowEmit cluster s
  | .mxGrant cluster => Sys2Proof.Machine.execMxGrant cluster s
  | .mxOperationComplete cluster => Sys2Proof.Machine.execMxOperationComplete cluster s
  | .mxReduction cluster => Sys2Proof.Machine.execMxReduction cluster s
  | .mxBlockLoadComplete cluster frame => Sys2Proof.Machine.execMxBlockLoadComplete cluster frame s
  | .flitReceive die link seq crcOk lane => Sys2Proof.Machine.execFlitReceive die link seq crcOk lane s
  | .linkRetrainComplete die link => Sys2Proof.Machine.execLinkRetrainComplete die link s
  | .linkWindowEnd die link => Sys2Proof.Machine.execLinkWindowEnd die link s
  | .eccCorrected at_ => Sys2Proof.Machine.execEccCorrected at_ s
  | .eccUncorrectable at_ => Sys2Proof.Machine.execEccUncorrectable at_ s
  | .scrubRead line => Sys2Proof.Machine.execScrubRead line s
  | .moduleReset => Sys2Proof.Machine.execModuleReset s
  | .boot => Sys2Proof.Machine.execBoot s
  | .getVersion req => Sys2Proof.Machine.execGetVersion req s
  | .getCapabilities req => Sys2Proof.Machine.execGetCapabilities req s
  | .negotiateAlgorithms req => Sys2Proof.Machine.execNegotiateAlgorithms req s
  | .getDigests req => Sys2Proof.Machine.execGetDigests req s
  | .getCertificate req => Sys2Proof.Machine.execGetCertificate req s
  | .challenge req => Sys2Proof.Machine.execChallenge req s
  | .getMeasurements req => Sys2Proof.Machine.execGetMeasurements req s
  | .unsupportedRequest req => Sys2Proof.Machine.execUnsupportedRequest req s
  | .engineFaultHeld op => Sys2Proof.Machine.execEngineFaultHeld op s
  | .memoryPortReply id => Sys2Proof.Machine.execMemoryPortReply id s
  | .writeAcknowledgement id => Sys2Proof.Machine.execWriteAcknowledgement id s
  | .invalidationReceived die line => Sys2Proof.Machine.execInvalidationReceived die line s
  | .linkWakeComplete die link => Sys2Proof.Machine.execLinkWakeComplete die link s

end Sys2Proof.Machine
end

