-- ==== Sys2Proof/Machine/Holds.lean ====
section
/-!
DEFINITION. Machine/Holds.lean: moves whose own accesses must wait on their way or at a home (10 R272, R275, R277; 11 R281; 17 R414).

Engines, the grid, Almanac, a fetch and a walk make their accesses within one move. Such a move waits as a whole while one of its accesses has to: it is
taken where what holds accesses up makes no difference to it (log entry 34, DESIGN CHOICE).
-/
namespace Sys2Proof.Machine

/-- The opening slots in use (10 R265). -/
def State.slotsUsed (s : State) : List Nat := (0 :: s.mem.ranges.map RangeEntry.slot).eraseDups

/-- Everything that holds up accesses now: links that wake or retrain, the range change in progress, and lines whose homes make an access wait. -/
def State.holdsNow (s : State) : List Hold :=
  (s.links.links.filter Link.waking).flatMap (fun l => s.slotsUsed.map fun k => Hold.link l.die l.link k)
    ++ (if s.mem.ranging.any RangeJob.started then [Hold.range] else [])
    ++ s.mem.home.flatMap fun h => ([false, true].filter fun w => s.homeHolds h.line w).map fun w => Hold.line h.line w

/-- The step of an agent that makes accesses of its own: an instruction or a clause of a front end, or a move of the module, an engine, the grid or
Almanac. What a home, a link or the host does is no such step. -/
def makesAccesses (i : Instr) : Bool :=
  i.opcode.isSome || match i with
    | .clauseIssue _ | .loadContext _ | .loadTenant _ | .longLatencyComplete _ | .kickRegisterWrite _ _ _ | .queueIdleUnmap _ | .dispatchRound _
    | .graphNodeFire _ _ | .graphNodeEnd _ _ | .hostringRecordCopy _ _ | .hostringCtimeExpiry _ _ | .placementRecordReady _ _ _ | .placerDecline _ _
    | .configurationArm _ _ | .handlerFire _ _ _ _ _ | .tokenTransfer _ _ | .iterationCommit _ _ | .iterationRetire _ _ | .warpDrain _ _ | .gridStall _ _
    | .btChunkComplete _ _ | .engineFault _ | .engineFaultHeld _ | .heldFaultRetry _ | .streamStart _ | .streamElementDelivery _ | .windowRowEmit _
    | .memoryPortReply _ => true
    | _ => false

/-- The state with a veil, which stops the accesses that some holds stop (Machine/Translate.lean). -/
def State.veil (s : State) (hs : List Hold) : State := { s with mem := { s.mem with veil := hs } }

/-- A move depends on some holds: what it does is not what it would do if they stopped its accesses. -/
def State.dependsOn (s : State) (i : Instr) (hs : List Hold) : Bool :=
  match exec i s, exec i (s.veil hs) with
  | .next a, .next b => decide (a.veil [] ≠ b.veil [])
  | _, _ => false

/-- What a move must wait for, if anything: the first of the holds that it depends on. -/
def State.heldBy (s : State) (i : Instr) : Option Hold :=
  let hs := s.holdsNow
  if hs.isEmpty || !makesAccesses i || !s.dependsOn i hs then none
  else some ((hs.find? fun h => s.dependsOn i [h]).getD .range)

/-- What an agent's access to a line that its home makes wait brings about there: a back-invalidation (10 R275), or the event of its entry (10 R269, R281),
with the move held in order of arrival. A front end that waits asks again. -/
def State.askLine (s : State) (line : Nat) (write : Bool) (x : Option Instr) : State :=
  let ev := if write then evWrite else evRead
  let acts := entActs (s.entryAt line ev)
  let enter (s : State) : State := match x with
    | some i =>
      let h := s.homeLine line
      if h.waiters.contains (.move i) then s else s.setHomeLine { h with waiters := h.waiters ++ [.move i] }
    | none => s
  if (s.homeLine line).bi != [] || s.hostHolds line (write || acts.contains 2) then enter (s.callHost line)
  else match x with
    | some i => s.lineEvent line ev (.move i)
    | none => if acts.any fun a => a != 0 && a != 10 then s.lineEvent line ev .none else s

/-- A move waits for a hold to end (10 R272, R275, R277; 11 R281): it is presented again when its link is up, its range is changed, or after the next event of
its line. -/
def State.waitFor (s : State) (h : Hold) (x : Option Instr) : State :=
  match h with
  | .link d l slot =>
    let wwait := ((s.tableIn slot).map fun t => entWait (smGet t.entries (16 * t.init + evRead))).getD 0
    s.awaitLink none none (d, l) wwait (x.map Waiter.move)
  | .range => match x with
    | some i => if s.mem.ranging.any fun j => j.held.contains (.move i) then s else s.holdRange (.move i)
    | none => s
  | .line line write => s.askLine line write x

/-- The front end that takes a move, if it is one of a front end. -/
def frontOf (i : Instr) (f : Option Focus) : Option Nat :=
  match i with
  | .clauseIssue core => some core
  | _ => f.map Focus.core

/-- A move that waits: `s1` is the state in which it would be taken, out of `s`. A front end tries it again in a later clock. -/
def State.heldMove (s s1 : State) (i : Instr) (h : Hold) : State :=
  match frontOf i s1.focus with
  | some core => ({ s with now := s1.now, turn := core + 1 }).waitFor h none
  | none => s1.waitFor h (some i)

end Sys2Proof.Machine
end

