-- ==== Sys2Proof/Machine/Step.lean ====
section
/-!
DEFINITION. Machine/Step.lean: one step of the module, and the placing of an instruction where the next step fetches it.
-/
namespace Sys2Proof.Machine

/-- One step: after a failed boot the module does nothing more (16 R395); otherwise an instruction or event runs, waits for what holds up its accesses, or
the module settles by itself. -/
def step (s : State) : Host.Outcome State Fault Refusal :=
  if s.boot.bar0 ≠ 0 then .fault (.bootFailed s.boot.bar0)
  else
    match s.nextMove with
    | .run i s1 => match s1.heldBy i with
      | none => exec i s1
      | some h => .next (s.heldMove s1 i h)
    | .settle s1 => .next s1

/-- The state with an instruction word placed where the next step fetches it (log entry 17, DESIGN CHOICE): see Machine/Fetch.lean. -/
def State.withFetchWord (s : State) (_nbits w : Nat) : State := s.placeWord (BitVec.ofNat 64 w)

end Sys2Proof.Machine
end

