-- ==== Sys2Proof/Safety.lean ====
section
/-!
DEFINITION. Safety.lean: what counts as a safe state and a safe run, and the words that statements about one instruction use.
-/
namespace Sys2Proof.Machine

/-- Memory is in its one canonical form: addresses strictly rising, and no byte listed that reads as an unlisted one does. -/
def State.canonical (s : State) : Bool := smWf s.mem.bytes

/-- The machine runs from a state for some steps without a stop. -/
def runsFor : Nat → State → Prop
  | 0, _ => True
  | n + 1, s => match step s with
    | .next t => runsFor n t
    | _ => False

/-- Value of a finite binary32 value in units of 2^-149, for comparing; an infinity lies beyond all of them. -/
def f32Units : FVal → Int
  | .num neg m e => if neg then -((m * 2 ^ (e + 149).toNat : Nat) : Int) else ((m * 2 ^ (e + 149).toNat : Nat) : Int)
  | .inf neg => if neg then -(2 ^ 300) else 2 ^ 300
  | .nan => 0

/-- The bundle in focus, and its warp. -/
def State.At (s : State) (f : Focus) (w : Warp) : Prop := s.focus = some f ∧ s.warp? f.core f.slot = some w

/-- What an instruction works on: the bundle with the element its port register gave, its warp, Active(), and the state. -/
structure Work where
  f : Focus
  w : Warp
  act : LaneMask
  s : State
  deriving DecidableEq, Repr

/-- What an instruction with operands `o` works on where it has its own effect: its guard holds in some lane of the bundle in focus, and a port
register that A names has an element without a failing word (03 R53, R54; 09 R250). -/
def State.work (s : State) (o : Operands) : Option Work :=
  match s.focus with
  | none => none
  | some f =>
    match s.warp? f.core f.slot with
    | none => none
    | some w =>
      let act := activeLanes f w o.guard
      if act = 0 then none
      else if o.qa && !f.grid then
        match s.readPort f w (o.a.extractLsb' 0 3).toNat with
        | .go f1 w1 s1 => if (f1.portErrs act).isEmpty then some { f := f1, w := w1, act := act, s := s1 } else none
        | _ => none
      else some { f := f, w := w, act := act, s := s }

/-- The same for a long-latency instruction, whose flag is not at 63 (03 R62). -/
def State.workLL (s : State) (o : Operands) : Option Work :=
  match s.work o with
  | none => none
  | some k => if (s.warp? k.f.core k.f.slot).bind (fun w => flagFull k.f w o) = none then some k else none

/-- The operands of a lane, as 32-bit words, as pairs, and as wide as the form's type (05 R105). -/
def Work.a (k : Work) (o : Operands) (l : Nat) : Word := srcA32 k.f k.w o l
def Work.b (k : Work) (o : Operands) (l : Nat) : Word := srcB32 k.s k.f k.w o l
def Work.n (k : Work) (o : Operands) (l : Nat) : Nat := (srcBn k.s k.f k.w o l).toNat
def Work.c (k : Work) (o : Operands) (l : Nat) : Word := k.w.reg l o.c.toNat
def Work.d (k : Work) (o : Operands) (l : Nat) : Word := k.w.reg l o.d.toNat
def Work.aw (k : Work) (o : Operands) (l : Nat) : DWord := if o.ty.bits = 64 then srcA64 k.w o l else (k.a o l).setWidth 64
def Work.bw (k : Work) (o : Operands) (l : Nat) : DWord := if o.ty.bits = 64 then srcB64 k.s k.f k.w o l else (k.b o l).setWidth 64

/-- The state with the destination written in the lanes of Active(): a register, a pair, a predicate, or what the form's type needs. -/
def Work.put32 (k : Work) (o : Operands) (v : Nat → Word) : State := k.s.setWarp (k.w.setReg k.act o.d.toNat v)
def Work.put64 (k : Work) (o : Operands) (v : Nat → DWord) : State := k.s.setWarp (k.w.setPair k.act o.d.toNat v)
def Work.putP (k : Work) (o : Operands) (v : Nat → Bool) : State := k.s.setWarp (k.w.setPred k.act o.d.toNat v)
def Work.put (k : Work) (o : Operands) (v : Nat → DWord) : State :=
  if o.ty.bits = 64 then k.put64 o v else k.put32 o fun l => (v l).setWidth 32

/-- The next step belongs to the front end of a core, which stands inside a clause (log entry 2, DESIGN CHOICE). -/
def State.frontRuns (s : State) (core : Nat) (i : Issue) (w : Warp) : Prop :=
  s.boot.bar0 = 0 ∧ s.boot.released = true ∧ (∀ m ∈ s.agenda, s.now < m.at_) ∧
  ((s.busyCores.filter fun c => decide (s.turn ≤ c)).head? = some core) ∧ s.regroupDue core s.now = false ∧ s.throttled core = false ∧
  (s.fe.issues.find? fun x => x.core == core) = some i ∧ s.warp? i.core i.slot = some w

/-- The bundle runs on the front end, and nothing that an ordering form waits for is outstanding: no acquire or read of its lanes, no due fault, no
request of its core and no dirty line of its fabric cache (07 R174 to R180, 08 R227). -/
def Work.quiet (k : Work) : Bool :=
  !k.f.grid && (k.s.acquiring k.f).isEmpty && (k.s.readsOut k.f).isEmpty && (k.w.threads.all fun t => t.deferred.isEmpty && t.mark.isNone)
    && (k.s.mem.reqs.all fun r => r.core != k.f.core) && k.s.mem.fab.all fun l => l.core != k.f.core || l.dirty == 0

/-- The state that an ordering form's own access sees where it waits for nothing: a release has moved its die's clock past what has been performed (log
entry 34, DESIGN CHOICE), and a wide release with acquire has dropped the core's clean lines. -/
def Work.fenced (k : Work) (o : Operands) : State :=
  let s := if isRel o = true ∧ o.sc ≠ .thr then k.s.catchUp (dieOf k.f.core) else k.s
  if Scope.wide o.sc = true ∧ o.mod = 3#2 then s.acquireFab k.f.core (k.s.ctxOf k.w) else s

/-- A lane's global address (08 R206). -/
def Work.va (k : Work) (o : Operands) (l : Nat) : Nat := (srcA64 k.w o l + BitVec.ofInt 64 (srcOffset k.s k.f k.w o l)).toNat
/-- A lane's private address (08 R208), where its private area begins at `privBase`. -/
def Work.pva (k : Work) (o : Operands) (l : Nat) : Nat :=
  (k.s.privBase k.w l).toNat + (((k.a o l).toNat : Int) + srcOffset k.s k.f k.w o l).toNat
/-- Bytes of a launch's private area for one thread (02 R40). -/
def Work.area (k : Work) : Nat := ((k.s.launchOf k.w).map fun x => x.privs * 16).getD 0

/-- No byte has changed, neither at a home nor as its home would serve it. -/
def State.keepsBytes (s t : State) : Prop := ∀ a, t.homeByte a = s.homeByte a ∧ t.byteNow a = s.byteNow a
/-- Almanac, the engines, the matrix engines, the grid, what is saved, the links and the boot state are as they were, and so is the time. -/
def State.keepsUnits (s t : State) : Prop :=
  t.alm = s.alm ∧ t.eng = s.eng ∧ t.mx = s.mx ∧ t.grid = s.grid ∧ t.saved = s.saved ∧ t.links = s.links ∧ t.boot = s.boot ∧ t.now = s.now
/-- Every other warp and every workgroup is as it was. -/
def State.keepsOthers (s t : State) (w : Warp) : Prop :=
  t.fe.wgs = s.fe.wgs ∧ ∀ core slot, (core, slot) ≠ (w.core, w.slot) → t.warp? core slot = s.warp? core slot

/-- Every workgroup is as it was, but for its count of fabric-cache misses (14 R369). -/
def State.keepsWgs (s t : State) : Prop := t.fe.wgs.map (fun g => { g with fcmiss := 0 }) = s.fe.wgs.map fun g => { g with fcmiss := 0 }
/-- Every other warp, and every workgroup but for its count of misses, is as it was. -/
def State.keepsPeers (s t : State) (w : Warp) : Prop :=
  s.keepsWgs t ∧ ∀ core slot, (core, slot) ≠ (w.core, w.slot) → t.warp? core slot = s.warp? core slot
/-- A copy near a core may answer a read of a piece: no versioned window, no poisoned sector, and the windows in force allow it (10 R273; 16 R387; 17
R419). -/
def Work.mayHit (k : Work) (p : Piece) : Prop :=
  k.s.copyOk (k.s.ctxOf k.w) p.line true false = true ∧ k.s.windowAt p.line = none ∧ k.s.poisonHit p.line p.mask = false

/-- What has been written at a byte of a workgroup's stage memory (02 R40). -/
def State.stageAt (s : State) (wg off : Nat) : Option Byte := (s.wg? wg).bind fun g => pmGet g.stage off
/-- The register writes of element `e` of a group in a lane (08 R210): a value of 32 bits or fewer in one register, of 64 bits in a pair. -/
def elemRegs (o : Operands) (l e v : Nat) : List RegWrite :=
  if elemSize o = 8 then
    [{ lane := l, reg := o.d.toNat + 2 * e, val := BitVec.ofNat 32 v }, { lane := l, reg := o.d.toNat + 2 * e + 1, val := BitVec.ofNat 32 (v / 2 ^ 32) }]
  else [{ lane := l, reg := o.d.toNat + e,
          val := if o.ty.signed then BitVec.ofInt 32 (Int.bmod v (2 ^ (8 * elemSize o))) else BitVec.ofNat 32 v }]
/-- The accesses of a load and of a store (08 R210, R214). -/
def Work.loads (k : Work) (o : Operands) (n : Nat) (va : Nat → Nat) : List Acc :=
  (lanesOf k.act).flatMap fun l => groupAccs o l (va l) n (elemSize o) o.ty.signed
def Work.stores (k : Work) (o : Operands) (n : Nat) (va : Nat → Nat) : List Acc :=
  (lanesOf k.act).flatMap fun l =>
    (groupAccs o l (va l) n (elemSize o) false).zipIdx.map fun a => { a.1 with b := groupSource k.w o l a.2 (elemSize o) }
/-- Every lane's global address, or private address, passes the checks of R206, R208 and R209. -/
def Work.globalOk (k : Work) (o : Operands) : Prop := ∀ l ∈ lanesOf k.act, k.va o l % elemSize o = 0 ∧ k.va o l < 2 ^ 56
def Work.privateOk (k : Work) (o : Operands) (n : Nat) : Prop :=
  ∀ l ∈ lanesOf k.act, let x : Int := ((k.a o l).toNat : Int) + srcOffset k.s k.f k.w o l
    x % (elemSize o : Int) = 0 ∧ 0 ≤ x ∧ x + (n * elemSize o : Nat) ≤ (k.area : Int)

/-- What a request of an instruction or of a write-back meets at its home before its opening looks at it: it is outstanding (numbers come from the model's
counter), no older request of its core and no range change is ahead of it, no link on its way is waking, its home finds no error and has room for its line, and neither the host nor its
own die stands in its way (07 R172; 10 R262, R272, R275, R277; 16 R387). -/
def State.reaches (s : State) (id : Nat) (r : Req) : Prop :=
  s.req? id = some r ∧ r.from_ ≠ .agent ∧ id < s.nonce ∧ r.performed = false ∧ s.mustWait r = false ∧ s.wakingFor r = none ∧ s.reqError r = none ∧
  s.rangingAt r.line = false ∧ s.windowAt r.line = none ∧ (s.homeLine r.line).bi = [] ∧ r.flush = none ∧
  (s.mem.home.filter fun h => s.homeOf h.line == s.homeOf r.line && h.line != r.line).length < Config.sliceLines ∧
  (r.fetches = false → ∀ d, s.dieLine? (dieOf r.core) r.line = some d → d.writable = false)

/-- The value that a list of register writes leaves in a register of a lane, if it writes it. -/
def lastWrite (ws : List RegWrite) (l r : Nat) : Option Word := (ws.reverse.find? fun x => x.lane + 32 * x.reg == l + 32 * r).map RegWrite.val

/-- Width of the form's type: 64 for a pair, else 32. -/
def wideOf (o : Operands) : Nat := if o.ty.bits = 64 then 64 else 32

/-- Ext(x) of 05 R106 on a value as wide as the form's type. -/
def extOf (o : Operands) (x : DWord) : Int :=
  if o.ty.bits = 64 then (if o.ty.signed then x.toInt else x.toNat) else if o.ty.signed then (x.setWidth 32).toInt else (x.setWidth 32).toNat

/-- One destination register; a pair; by the form's type. -/
def destOne (o : Operands) : List Nat := [o.d.toNat]
def destPair (o : Operands) : List Nat := [o.d.toNat, o.d.toNat + 1]
def destTyped (o : Operands) : List Nat := if o.ty.bits = 64 then destPair o else destOne o

end Sys2Proof.Machine

namespace Sys2Proof
open Sys2Proof.Machine

/-- The registers and predicates that a form writes, for the forms that compute on registers alone (groups 0x0 to 0x3 and 0x5, clock and the RKL
divisions). -/
def Instr.writes : Instr → Option (List Nat × List Nat)
  | .iadd o | .isub o | .imul o | .iabs o | .ineg o | .imin o | .imax o => some (destTyped o, [])
  | .iadd3 o | .imulhi o | .imad o | .isad o | .lea o | .leaHi o | .udiv o | .urem o => some (destOne o, [])
  | .iaddc o | .isubb o => some (destOne o, [o.c.toNat])
  | .andB o | .orB o | .xorB o | .notB o | .shl o | .shr o | .sar o | .rotl o | .brev o => some (destTyped o, [])
  | .tern o | .fshl o | .bfe o | .bfi o | .popc o | .clz o | .ctz o | .bperm o => some (destOne o, [])
  | .icmp _ o | .psetp _ o | .fcmp _ o | .fclass o | .vote _ o => some ([], [o.d.toNat])
  | .sel o | .mov o | .srd o | .cvti o => some (destTyped o, [])
  | .movi o | .movk o | .p2v o => some (destOne o, [])
  | .v2p o => some ([], (List.range 7).filter fun p => o.b.field.getLsbD p)
  | .pack o => some (if o.ty.bits = 32 then destPair o else destOne o, [])
  | .unpack o | .clock _ o => some (destPair o, [])
  | .fadd o | .fsub o | .fmul o | .ffma o | .fmin o | .fmax o => some (destOne o, [])
  | .hadd2 o | .hmul2 o | .hfma2 o | .hmin2 o | .hmax2 o | .fdot2 o => some (destOne o, [])
  | .xlane _ o | .voteBallot o | .matchLanes _ o | .redux _ o | .fredux _ o | .scan _ o | .tagOpen o => some (destOne o, [])
  | _ => none

/-- What an atomic or a reduction with operands `o` computes (08 R217 to R220), and whether it returns the old value. -/
def Instr.rmwKind : Instr → Option (Operands × RmwKind × Bool)
  | .atom op o => some (o, rmwOf op o, true)
  | .atomCas o => some (o, .cas (is64 o), true)
  | .atomFadd o => some (o, faddOf o, true)
  | .red op o => some (o, rmwOf (redAtom op) o, false)
  | .redFadd o => some (o, faddOf o, false)
  | _ => none

end Sys2Proof
end

