-- ==== Sys2Proof/Certificates/Slice0/Obligations.lean ====
section
/-!
DEFINITION. Certificates/Slice0/Obligations.lean: the statements for the provers.

Every instruction is stated by what `exec` answers from the values that its operands hold (`Work`), in states given by conditions on the state and the
operands alone. The helpers used here (`Work`, `keepsBytes`, `keepsUnits`, `lastWrite` and the others) are defined in Sys2Proof/Safety.lean.
-/
open Sys2Proof Sys2Proof.Machine

/-- The words that the manual writes out, decoded: R108, R111, R138, R140, R60's example, R346, R353, R358, R370, R391 and the examples of 08. -/
def Obligations.DecodedWords : Prop :=
  let g : Guard := { neg := false, p := 7 }
  let z : Operands := { zeroOperands with guard := g }
  decodeWord {} 0x0A07020406016000 = .ok (.iaddc { z with d := 2, a := 4, b := .reg 6, c := 1, ty := .n32 }) ∧
  decodeWord {} 0x000A040503002020 = .ok (.iadd { z with guard := { neg := true, p := 2 }, d := 4, a := 5, b := .k 3, ty := .s32 }) ∧
  decodeWord {} 0x1107030102966000 = .ok (.tern { z with d := 3, a := 1, b := .reg 2, c := 0x96, ty := .n32 }) ∧
  decodeWord {} 0x320708070900A000 = .ok (.fmul { z with d := 8, a := 7, b := .reg 9, ty := .f32 }) ∧
  decodeWord {} 0x400707060000A000 = .ok (.frcp { z with d := 7, a := 6, ty := .f32 }) ∧
  decodeWord {} 0x48070506000AB000 = .ok (.cvt { z with d := 5, a := 6, c := 0xA, ty := .e4m3 }) ∧
  decodeWord {} 0x490708060009F400 = .ok (.cvtBlkTo { z with d := 8, a := 6, c := 9, ty := .slot, fs := 2 }) ∧
  decodeWord {} 0x5027010201056010 = .ok (.xlane .xor { z with d := 1, a := 2, b := .imm 1, c := 5, ty := .n32 }) ∧
  decodeWord {} 0x6027080210006114 = .ok (.ld .four { z with d := 8, a := 2, b := .imm 0x10, ty := .n32, sc := .dev, mod := 1 }) ∧
  decodeWord {} 0x61070A0400006118 = .ok (.st .one { z with d := 0xA, a := 4, b := .imm 0, ty := .n32, sc := .dev, mod := 2 }) ∧
  decodeWord {} 0x7007060201006111 = .ok (.atom .add { z with d := 6, a := 2, b := .imm 1, ty := .n32, sc := .dev, fsel := true }) ∧
  decodeWord {} 0x770700000000010C = .ok (.fence { z with sc := .dev, mod := 3 }) ∧
  decodeWord {} 0xA0070000F8000010 = .ok (.bra { z with b := .imm 0xF8 }) ∧
  decodeWord {} 0xB007010040000010 = .ok (.barInit { z with d := 1, b := .imm 64 }) ∧
  decodeWord {} 0xC207070205000020 = .ok (.qpost { z with d := 7, a := 2, b := .k 5 }) ∧
  decodeWord {} 0xD107000207000020 = .error .illegalOpcode ∧
  decodeWord {} 0xD107000207007020 = .ok (.csrw { z with a := 2, b := .k 7, ty := .n64 }) ∧
  decodeWord {} 0xD107000407007020 = .ok (.csrw { z with a := 4, b := .k 7, ty := .n64 }) ∧
  decodeWord { user := true } 0xD107000407007020 = .error .privilege ∧
  decodeWord {} 0xFF0001F400000000 = .error .illegalClause

/-- No bit of an encoding is dropped: the word of every well-formed instruction decodes to that instruction, with every operand at every value that
the encoding admits; grid-only and RKL-only forms where they are valid. -/
def Obligations.EncodedDecodes : Prop :=
  ∀ (i : Instr) (w : DWord), encode i = some w → WellFormedAs (tableAt w).handler (tableAt w).rkl i = true → decodeTableWord 64 w.toNat = some i

/-- Every word has one meaning: a word that decodes is the word of the instruction that it decodes to, which is well formed. -/
def Obligations.DecodedEncodes : Prop :=
  ∀ (at_ : DecodeAt) (i : Instr) (w : DWord), decodeWord at_ w = .ok i → encode i = some w ∧ WellFormedAs at_.handler at_.rkl i = true

/-- R77: the order of the checks of a word; a group 0xD form in user mode is PRIVILEGE before its fields are looked at.
R59, R60: the fields of a clause header, and the checks of a header in their order. -/
def Obligations.CheckOrderAndHeaders : Prop :=
  (
    ∀ (at_ : DecodeAt) (w : DWord),
      (wordOp w = 0xFF → decodeWord at_ w = .error .illegalClause) ∧
      (wordOp w ≠ 0xFF → (0xE9 ≤ wordOp w ∨ (0xE0 ≤ wordOp w ∧ at_.handler = false ∧ at_.rkl = false) ∨ mkInstr (wordOp w) (wordFn w) = none) →
        decodeWord at_ w = .error .illegalOpcode) ∧
      (∀ mk f, wordOp w < 0xE0 → mkInstr (wordOp w) (wordFn w) = some mk → (mk zeroOperands).form = some f →
        ((∃ t, Ty.ofCode (w.extractLsb' 12 4) = some t ∧ f.typeOk t = false) → decodeWord at_ w = .error .illegalOpcode) ∧
        ((∀ t, Ty.ofCode (w.extractLsb' 12 4) = some t → f.typeOk t = true) →
          (at_.user = true → 0xD0 ≤ wordOp w → wordOp w ≤ 0xD9 → decodeWord at_ w = .error .privilege) ∧
          (at_.user = false ∨ wordOp w < 0xD0 →
            (wordOperands w = none → decodeWord at_ w = .error .reservedField) ∧
            ∀ o, wordOperands w = some o → f.fieldsOk at_.handler at_.rkl (mk o).isMov o = false → decodeWord at_ w = .error .reservedField)))) ∧
  (
    (∀ (hd : Header) (h : DWord), h.toNat % 8 = 0 → h.toNat % 64 + 8 * (hd.cnt.toNat + 1) ≤ 64 → hd.cnt ≠ 0 →
      (hd.fx.toNat < 12 ∨ hd.fx.toNat = 15) → (hd.fy.toNat < 12 ∨ hd.fy.toNat = 15) → decodeHeader h (encodeHeader hd) = .ok hd) ∧
    (∀ (h w : DWord),
      let n := (w.extractLsb' 33 3).toNat
      let flag (i : Nat) : Nat := (w.extractLsb' i 4).toNat
      (h.toNat % 8 ≠ 0 ∨ w.extractLsb' 56 8 ≠ 0xFF#8 ∨ 64 < h.toNat % 64 + 8 * (n + 1) ∨ n = 0 ∨ (12 ≤ flag 40 ∧ flag 40 < 15) ∨ (12 ≤ flag 36 ∧ flag 36 < 15) →
        decodeHeader h w = .error .illegalClause) ∧
      (h.toNat % 8 = 0 → w.extractLsb' 56 8 = 0xFF#8 → h.toNat % 64 + 8 * (n + 1) ≤ 64 → n ≠ 0 → (flag 40 < 12 ∨ flag 40 = 15) →
        (flag 36 < 12 ∨ flag 36 = 15) → w.extractLsb' 0 24 ≠ 0#24 → decodeHeader h w = .error .reservedField)))

/-- A step runs the decoded instruction: the word at hand of the clause in progress, when it decodes and passes the checks of R60 and R77 and none of
its registers is still owed (R61), is executed in the state where the clause has moved past it, and that state differs only in the focus, the place in
the clause, the core's turn, its issue credit and the issue counters. Where an access of its own must wait (log entry 34, DESIGN CHOICE), the front end
waits instead and stands at the same word; where nothing holds accesses up, none has to. The same for the instruction that withFetchWord places: the
very next step runs it. -/
def Obligations.StepRunsDecoded : Prop :=
  (
    ∀ (s : State) (core : Nat) (i : Issue) (w : Warp) (word : DWord) (x : Instr), s.frontRuns core i w →
      i.words[i.idx]? = some word → decodeWord { user := !(w.thread (ctzV i.lanes)).sup } word = .ok x →
      (x.isTransfer = true → i.idx + 1 = i.words.length) → budgetRefused w.budget x = false → s.regHazard i x = [] →
      ((s.arrive i s.now).heldBy x = none → step s = exec x (s.arrive i s.now)) ∧
      ((s.arrive i s.now).holdsNow = [] → (s.arrive i s.now).heldBy x = none) ∧
      (∀ h, (s.arrive i s.now).heldBy x = some h → step s = .next (({ s with turn := core + 1 } : State).waitFor h none)) ∧
      (let t := s.arrive i s.now
       t.focus = some
          { core := i.core, slot := i.slot, lanes := i.lanes, pc := i.hdr + BitVec.ofNat 64 (8 * (i.idx + 1)), hdr := i.hdr, cnt := i.header.cnt.toNat,
            fx := i.header.fx, fy := i.header.fy, lmid := i.header.lmid } ∧
       t.mem = s.mem ∧ t.iso = s.iso ∧ t.alm = s.alm ∧ t.eng = s.eng ∧ t.mx = s.mx ∧ t.grid = s.grid ∧ t.links = s.links ∧ t.boot = s.boot ∧
       t.now = s.now ∧ t.agenda = s.agenda ∧ t.fe.wgs = s.fe.wgs ∧ t.fe.llops = s.fe.llops ∧
       ∃ w', t.warp? i.core i.slot = some w' ∧ { w' with issued := w.issued, stallck := w.stallck } = w)) ∧
  (
    ∀ (w : DWord) (x : Instr), decodeWord {} w = .ok x → budgetRefused 256 x = false →
      step (State.reset.withFetchWord 64 w.toNat)
        = exec x ((State.reset.withFetchWord 64 w.toNat).arrive (loadedIssue w) 0))

/-- R77, R60: a word that fails a check raises its trap, precise at the word, in every thread of the bundle, with no other effect. -/
def Obligations.StepTrapsBadWord : Prop :=
  ∀ (s : State) (core : Nat) (i : Issue) (w : Warp) (word : DWord), s.frontRuns core i w → i.words[i.idx]? = some word →
    let t := s.arrive i s.now
    let raises (kind : Nat) : Prop := ∀ f w', t.focus = some f → t.warp? i.core i.slot = some w' →
      step s = .next (t.takeTrap w' f.lanes f.lanes (i.hdr + BitVec.ofNat 64 (8 * (i.idx + 1))) i.hdr i.header.lmid { kind := kind })
    let at_ : DecodeAt := { user := !(w.thread (ctzV i.lanes)).sup }
    (decodeWord at_ word = .error .illegalOpcode → raises 0x0E01) ∧
    (decodeWord at_ word = .error .reservedField → raises 0x0E02) ∧
    (decodeWord at_ word = .error .illegalClause → raises 0x0E03) ∧
    (decodeWord at_ word = .error .privilege → raises 0x0E05) ∧
    (∀ x, decodeWord at_ word = .ok x → x.isTransfer = true → i.idx + 1 < i.words.length → raises 0x0E03) ∧
    (∀ x, decodeWord at_ word = .ok x → (x.isTransfer = true → i.idx + 1 = i.words.length) → budgetRefused w.budget x = true → raises 0x0E04)

/-- R378, R389, R401: taking an exception. In user mode with a handler, each thread of the bundle saves its state in its trap CSRs and stands at TVEC in
supervisor mode; nothing else of the warp, and no memory, changes.
R378, R401: a trap raised in supervisor mode is not taken, and one in a context whose TVEC is 0 is not either: the launch is killed, with the kind in
the handling thread's ECAUSE or with the trap's own kind. -/
def Obligations.TrapEntryAndKill : Prop :=
  (
    ∀ (s : State) (w : Warp) (c : Ctx) (lanes elanes : LaneMask) (epc eclh : DWord) (kind code va erec : Nat),
      s.warp? w.core w.slot = some w → s.ctx? (s.ctxOf w) = some c → c.tvec ≠ 0 → (∀ l, l < 32 → lanes.getLsbD l = true → (w.thread l).sup = false) →
      let t := s.enterTrap w lanes elanes epc eclh kind code va erec
      t.mem = s.mem ∧ t.iso = s.iso ∧ t.alm = s.alm ∧
      ∃ w', t.warp? w.core w.slot = some w' ∧ w'.regs = w.regs ∧ w'.preds = w.preds ∧ w'.flags = w.flags ∧ w'.ports = w.ports ∧ w'.budget = w.budget ∧
        ∀ l, l < w.threads.length →
          (l < 32 → lanes.getLsbD l = true → (w.thread l).exited = false →
            (w'.thread l).sup = true ∧ (w'.thread l).pc = c.tvec ∧ (w'.thread l).clh = none ∧
            (w'.thread l).csr =
              { estat := 0, ecause := BitVec.ofNat 32 (kind + code * 2 ^ 16), epc := epc, eclh := eclh, eva := BitVec.ofNat 64 va, elanes := elanes,
                erec := BitVec.ofNat 64 erec, escr := (w.thread l).csr.escr }) ∧
          (lanes.getLsbD l = false → w'.thread l = w.thread l)) ∧
  (
    ∀ (s : State) (w : Warp) (g : Wg) (lanes elanes : LaneMask) (epc eclh : DWord) (kind code va erec : Nat), s.wg? w.wg = some g →
      (∀ l, l < 32 → lanes.getLsbD l = true → (w.thread l).sup = true → (∀ j, j < l → lanes.getLsbD j = true → (w.thread j).sup = false) →
        s.enterTrap w lanes elanes epc eclh kind code va erec = s.killLaunch g.launch ((w.thread l).csr.ecause.toNat % 2 ^ 16)) ∧
      ((∀ l, l < 32 → lanes.getLsbD l = true → (w.thread l).sup = false) → (∀ c, s.ctx? (s.ctxOf w) = some c → c.tvec = 0) →
        s.enterTrap w lanes elanes epc eclh kind code va erec = s.killLaunch g.launch kind))

/-- R394: the return from an exception, for a thread whose trap was not a grid fault: the mode of ESTAT, and EPC inside or at the head of a clause. -/
def Obligations.ReturnFromTrap : Prop :=
  ∀ (s : State) (o : Operands) (k : Work), s.work o = some k → k.w.supIn k.f = true → (∀ l, (k.w.thread l).gridFault = none) →
    ∃ w', exec (.eret o) s = .next (k.s.setWarp w') ∧ w'.regs = k.w.regs ∧ w'.preds = k.w.preds ∧ w'.flags = k.w.flags ∧
      ∀ l, l < k.w.threads.length →
        let t := k.w.thread l
        let n := k.s.eclhCount k.f.core (k.s.ctxOf k.w) t
        (k.act.getLsbD l = false → w'.thread l = t) ∧
        (k.act.getLsbD l = true →
          (w'.thread l).sup = t.csr.estat.getLsbD 0 ∧ (w'.thread l).pc = t.csr.epc ∧ (w'.thread l).csr = t.csr ∧
          (t.csr.epc = t.csr.eclh → (w'.thread l).clh = none) ∧
          (t.csr.eclh < t.csr.epc → t.csr.epc ≤ t.csr.eclh + BitVec.ofNat 64 (8 * n) → (w'.thread l).clh = some t.csr.eclh) ∧
          (t.csr.epc ≠ t.csr.eclh → ¬ (t.csr.eclh < t.csr.epc ∧ t.csr.epc ≤ t.csr.eclh + BitVec.ofNat 64 (8 * n)) → (w'.thread l).clh = none))

/-- R389, R391: csrr of every listed number gives its value in each lane of Active(): the lane's own trap CSRs, or the context's and the module's
registers; the checks that come first raise their traps.
R389 to R391, 17 R411: csrw in every lane of Active(): each lane's own trap CSRs; the module's registers, which the highest lane writes last; and CMD,
whose commands are carried out lane by lane, each as its own event carries it out; the bundle stands until each is over: a load waits for a save of its
context and for accesses already translated, a flush for the configurations that drain.
R378: every form of group 0xD raises PRIVILEGE in user mode, where a word that reaches exec at all would be such a form. -/
def Obligations.CsrForms : Prop :=
  (
    ∀ (s : State) (o : Operands) (k : Work), s.work o = some k → k.w.supIn k.f = true →
      let n := k.n o (ctzV k.act)
      let ctx := k.s.ctxOf k.w
      let raises (kind : Nat) : Prop := exec (.csrr o) s = .next (k.s.trapHere k.f k.w k.act { kind := kind })
      let gives (v : Nat → DWord) : Prop := exec (.csrr o) s = .next (k.put o v)
      let thread (v : TrapCsrs → DWord) : Prop := gives fun l => v (k.w.thread l).csr
      let listed : Prop := n ≤ 7 ∨ (0x10 ≤ n ∧ n ≤ 0x12) ∨ (0x100 ≤ n ∧ n ≤ 0x106) ∨ (0x108 ≤ n ∧ n ≤ 0x10F)
      (¬ listed → raises 0x0E06) ∧
      (listed → 0x100 ≤ n → ctx ≠ 0 → raises 0x0E05) ∧
      (n = 0x103 → ctx = 0 → raises 0x0E06) ∧
      (n = 0 → thread fun c => c.estat.setWidth 64) ∧ (n = 1 → thread fun c => c.ecause.setWidth 64) ∧ (n = 2 → thread TrapCsrs.epc) ∧
      (n = 3 → thread TrapCsrs.eclh) ∧ (n = 4 → thread TrapCsrs.eva) ∧ (n = 5 → thread fun c => c.elanes.setWidth 64) ∧
      (n = 6 → thread TrapCsrs.erec) ∧ (n = 7 → thread TrapCsrs.escr) ∧
      (n = 0x10 → gives fun _ => BitVec.ofNat 64 ctx) ∧
      (n = 0x11 → gives fun _ => BitVec.ofNat 64 (((k.s.ctx? ctx).map Ctx.ten).getD 0)) ∧
      (n = 0x12 → gives fun _ => BitVec.ofNat 64 (((k.s.ctx? ctx).map Ctx.lockq).getD 0)) ∧
      (ctx = 0 →
        (n = 0x100 → gives fun _ => k.s.iso.ctxtab) ∧ (n = 0x101 → gives fun _ => k.s.iso.tentab) ∧ (n = 0x102 → gives fun _ => k.s.iso.qtab) ∧
        (n = 0x104 → gives fun _ => k.s.iso.cmdst.setWidth 64) ∧ (n = 0x105 → gives fun _ => k.s.boot.secver.setWidth 64) ∧
        (n = 0x106 → gives fun _ => (Config.fusedDbgst &&& 1#32).setWidth 64) ∧
        (∀ d, d < 4 → n = 0x108 + 2 * d → gives fun _ => BitVec.ofNat 64 ((k.s.boot.near[d]?).getD (0, 0)).1) ∧
        (∀ d, d < 4 → n = 0x109 + 2 * d → gives fun _ => BitVec.ofNat 64 ((k.s.boot.near[d]?).getD (0, 0)).2))) ∧
  (
    ∀ (s : State) (o : Operands) (k : Work), s.work o = some k → k.w.supIn k.f = true →
      let n := k.n o (ctzV k.act)
      let ctx := k.s.ctxOf k.w
      let v (l : Nat) : DWord := k.aw o l
      let raises (kind : Nat) : Prop := exec (.csrw o) s = .next (k.s.trapHere k.f k.w k.act { kind := kind })
      let thread (g : DWord → TrapCsrs → TrapCsrs) : Prop :=
        exec (.csrw o) s = .next (k.s.setWarp (k.w.mapThreads k.act fun l t => { t with csr := g (v l) t.csr }))
      let listed : Prop := n ≤ 7 ∨ (0x10 ≤ n ∧ n ≤ 0x12) ∨ (0x100 ≤ n ∧ n ≤ 0x106) ∨ (0x108 ≤ n ∧ n ≤ 0x10F)
      (¬ listed → raises 0x0E06) ∧
      (listed → 0x100 ≤ n → ctx ≠ 0 → raises 0x0E05) ∧
      (n = 6 ∨ (0x10 ≤ n ∧ n ≤ 0x12) ∨ (ctx = 0 ∧ 0x104 ≤ n) → raises 0x0E06) ∧
      (n = 0 → thread fun x c => { c with estat := x.setWidth 32 &&& 1 }) ∧ (n = 1 → thread fun x c => { c with ecause := x.setWidth 32 }) ∧
      (n = 2 → thread fun x c => { c with epc := x }) ∧ (n = 3 → thread fun x c => { c with eclh := x }) ∧
      (n = 4 → thread fun x c => { c with eva := x }) ∧ (n = 5 → thread fun x c => { c with elanes := x.setWidth 32 }) ∧
      (n = 7 → thread fun x c => { c with escr := x }) ∧
      (ctx = 0 →
        (∀ l ∈ lanesOf k.act, (∀ m ∈ lanesOf k.act, m ≤ l) →
          (n = 0x100 → exec (.csrw o) s = .next { k.s with iso := { k.s.iso with ctxtab := v l } }) ∧
          (n = 0x101 → exec (.csrw o) s = .next { k.s with iso := { k.s.iso with tentab := v l } }) ∧
          (n = 0x102 → exec (.csrw o) s = .next { k.s with iso := { k.s.iso with qtab := v l } })) ∧
        (n = 0x103 →
          let r := commandLanes k.f.core k.f.slot v (lanesOf k.act) k.s
          (r.2.warp? k.f.core k.f.slot = none → exec (.csrw o) s = .next r.2) ∧
          ∀ w1, r.2.warp? k.f.core k.f.slot = some w1 →
            exec (.csrw o) s = .next (if r.1 = true then r.2.setWarp (w1.mapThreads k.act fun _ t => { t with laneDone := none })
              else r.2.retryAll k.f w1 fun _ => .turn)))) ∧
  (
    ∀ (t : State) (w : Warp) (x : DWord),
      let code : Nat := x.toNat % 256
      let index : Nat := x.toNat / 256 % 256
      (∀ (core slot l : Nat) (v : Nat → DWord) (ls : List Nat), t.warp? core slot = some w → (w.thread l).laneDone = none →
        let r := t.command w none (v l)
        let u := r.2.updWarp core slot fun y => y.mapThreads (maskOf [l]) fun _ z => { z with laneDone := r.1 }
        commandLanes core slot v (l :: ls) t = if r.1 = some 1 then commandLanes core slot v ls u else (false, u)) ∧
      ((x.toNat / 2 ^ 16 ≠ 0 ∨ code = 0 ∨ 4 < code) → t.command w none x = (some 1, { t with iso := { t.iso with cmdst := 0x0C01 } })) ∧
      (x.toNat / 2 ^ 16 = 0 →
        (code = 1 → t.iso.ctxtab.toNat % 4096 ≠ 0 → t.command w none x = (some 1, { t with iso := { t.iso with cmdst := 0x0C01 } })) ∧
        (code = 1 → t.iso.ctxtab.toNat % 4096 = 0 → t.isDraining index = true → t.command w none x = (none, t)) ∧
        (code = 1 → t.iso.ctxtab.toNat % 4096 = 0 → t.isDraining index = false → (∀ y ∈ t.iso.invs, y.id < t.nonce ∧ y.cmd = 0) →
          (∀ r ∈ (t.beginLoad index 0 0 2).mem.reqs, r.ctx = index → r.performed = true) →
          ∃ u, exec (.loadContext index) t = .next u ∧ t.command w none x = (some 1, u)) ∧
        (code = 2 → ∃ u, exec (.loadTenant index) t = .next u ∧ t.command w none x = (some 1, u)) ∧
        (code = 3 → ∃ u, exec (.stopContext index) t = .next u ∧ t.command w none x = (some 1, u)) ∧
        (code = 4 → ∃ u, exec (.flushPlacementCache index) t = .next u ∧
          t.command w none x = (if u.grid.cfgs.any (fun c => c.ctx == index && c.leaving) then some 2 else some 1, u)))) ∧
  (
    ∀ (s : State) (o : Operands) (k : Work), k.w.supIn k.f = false →
      (s.work o = some k →
        ∀ i ∈ ([.csrr o, .csrw o, .tlbinvPage o, .tlbinvRange o, .tlbinvCtx o, .tlbinvAll o, .eret o, .faultDone o] : List Instr),
          exec i s = .next (k.s.trapHere k.f k.w k.act { kind := 0x0E05 })) ∧
      (s.workLL o = some k →
        ∀ i ∈ ([.tlbsync o, .ptabLoad o, .prangeSet o, .prangeClear o, .linkCtlRd o, .linkCtlRate o, .linkCtlRetire o, .linkCtlClr o, .ctxSave o,
            .ctxResume o] : List Instr),
          exec i s = .next (k.s.trapHere k.f k.w k.act { kind := 0x0E05 })))

/-- What reset leaves: the clock at zero (00 R3), nothing resident, no cores released (16 R395), contexts, tenants, ranges and tables not yet set, and
every link with the replay threshold of 256 that it has at boot (17 R413). That the links are up at their rated step with nothing counted, and that
memory lists nothing, is the model's choice (log entries 3 and 4). -/
def Obligations.ResetState : Prop :=
  State.reset.now = 0 ∧ State.reset.fe.warps = [] ∧ State.reset.fe.wgs = [] ∧ State.reset.alm.launches = [] ∧ State.reset.mem.bytes = [] ∧
  State.reset.mem.ranges = [] ∧ State.reset.mem.tables = [] ∧ State.reset.iso.ctxs = [] ∧ State.reset.iso.tenants = [] ∧ State.reset.grid.cfgs = [] ∧
  State.reset.boot.released = false ∧
  (∀ d l, d < 4 → l < 7 → ∃ x, State.reset.link? d l = some x ∧ x.rth = 256 ∧ x.rate = 32 ∧ x.crc = 0 ∧ x.replay = 0 ∧
    x.up = true ∧ x.retired = [] ∧ x.die = d ∧ x.link = l) ∧
  State.reset.links.links.length = 28

/-- Reset memory is in its canonical form (what an unlisted byte reads as is the model's choice, log entry 4, DESIGN CHOICE). -/
def Obligations.ResetCanonical : Prop :=
  State.reset.canonical = true

/-- Every step keeps memory in its canonical form: addresses strictly rising and no byte listed that reads as an unlisted one does (log entry 4, DESIGN
CHOICE). -/
def Obligations.StepKeepsCanonical : Prop :=
  ∀ s t : State, s.canonical = true → step s = .next t → t.canonical = true

/-- R54: an instruction with no lane in Active() has no effect: it writes nothing, pops no port, counts on no flag and makes no access. -/
def Obligations.GuardedOut : Prop :=
  ∀ (s : State) (f : Focus) (w : Warp) (i : Instr) (o : Operands), s.At f w → i.operands = some o → i.opcode.isSome = true → f.grid = false →
    activeLanes f w o.guard = 0 → exec i s = .next s

/-- R53: what a read of a port register does where it has no element: the bundle waits while the stream is live, and otherwise ORPHAN_READ is raised,
for every form of groups 0x0 to 0x3. -/
def Obligations.PortWithoutElement : Prop :=
  ∀ (s : State) (f : Focus) (w : Warp) (o : Operands) (p : Port), s.At f w → f.grid = false → o.qa = true → activeLanes f w o.guard ≠ 0 →
    w.ports[(o.a.extractLsb' 0 3).toNat]? = some p → p.queue = [] → w.heldElem f (o.a.extractLsb' 0 3).toNat = none →
    ∀ i ∈ ([.iadd o, .isub o, .iadd3 o, .imul o, .imulhi o, .imad o, .iabs o, .ineg o, .imin o, .imax o, .iaddc o, .isubb o, .isad o, .lea o, .andB o,
        .orB o, .xorB o, .notB o, .tern o, .shl o, .shr o, .sar o, .rotl o, .fshl o, .bfe o, .bfi o, .popc o, .clz o, .ctz o, .brev o, .bperm o,
        .icmp .lt o, .sel o, .mov o, .v2p o, .cvti o, .pack o, .unpack o, .fadd o, .fsub o, .fmul o, .ffma o, .fmin o, .fmax o, .fcmp .lt o, .fclass o,
        .hadd2 o, .hmul2 o, .hfma2 o, .hmin2 o, .hmax2 o, .fdot2 o] : List Instr),
      ((p.bound = true ∧ p.ended = false) ∨ p.queued ≠ 0 → exec i s = .next (s.retry f w (.port (o.a.extractLsb' 0 3).toNat))) ∧
      (p.queued = 0 → p.bound = false ∨ p.ended = true → exec i s = .next (s.trapHere f w (activeLanes f w o.guard) { kind := 0x0E10 }))

/-- The frame of the forms that compute on registers (R105): the registers and predicates that they name as destinations change, in the lanes of
Active() alone; every other register, predicate, flag, mode, program counter and trap CSR, every other warp, every byte of global and stage memory, and
every other unit of the module stay as they were. -/
def Obligations.RegisterFormsFrame : Prop :=
  ∀ (s t : State) (i : Instr) (o : Operands) (k : Work) (rs ps : List Nat), i.operands = some o → i.writes = some (rs, ps) → s.work o = some k →
    exec i s = .next t →
    ∃ w', t = k.s.setWarp w' ∧ { w' with regs := k.w.regs, preds := k.w.preds } = k.w ∧
      (∀ l r, l < 32 → r ∉ rs ∨ k.act.getLsbD l = false → w'.reg l r = k.w.reg l r) ∧
      (∀ l p, l < 32 → p < 7 → p ∉ ps ∨ k.act.getLsbD l = false → w'.pred l p = k.w.pred l p) ∧
      (∀ a, t.homeByte a = s.homeByte a ∧ t.byteNow a = s.byteNow a) ∧
      t.mem = s.mem ∧ t.iso = s.iso ∧ t.alm = s.alm ∧ t.eng = s.eng ∧ t.mx = s.mx ∧ t.grid = s.grid ∧ t.links = s.links ∧ t.boot = s.boot ∧
      t.fe.wgs = s.fe.wgs ∧ t.fe.llops = s.fe.llops ∧
      ∀ core slot, (core, slot) ≠ (k.w.core, k.w.slot) → t.warp? core slot = s.warp? core slot

/-- R107: the integer arithmetic forms complete with these results, in every lane of Active().
R108: the carry chain, through the predicate that C names; pt reads as true and discards the carry out.
R109: lea and lea.hi give the two words of the 64-bit sum of the shifted index and the base. -/
def Obligations.IntegerForms : Prop :=
  (
    ∀ (s : State) (o : Operands) (k : Work), s.work o = some k →
      exec (.iadd o) s = .next (k.put o fun l => BitVec.ofNat 64 ((k.aw o l).toNat + (k.bw o l).toNat)) ∧
      exec (.isub o) s = .next (k.put o fun l => BitVec.ofInt 64 (((k.aw o l).toNat : Int) - (k.bw o l).toNat)) ∧
      exec (.iadd3 o) s = .next (k.put32 o fun l => BitVec.ofNat 32 ((k.a o l).toNat + (k.b o l).toNat + (k.c o l).toNat)) ∧
      exec (.imul o) s = .next (k.put o fun l => BitVec.ofNat 64 ((k.aw o l).toNat * (k.bw o l).toNat)) ∧
      exec (.imulhi o) s = .next (k.put32 o fun l =>
        BitVec.ofInt 32 ((extend o.ty.signed (k.a o l) * extend o.ty.signed (k.b o l)) / 2 ^ 32)) ∧
      exec (.imad o) s = .next (k.put32 o fun l => BitVec.ofNat 32 ((k.a o l).toNat * (k.b o l).toNat + (k.c o l).toNat)) ∧
      (o.ty.signed = true → exec (.iabs o) s = .next (k.put o fun l => BitVec.ofNat 64 (extOf o (k.aw o l)).natAbs)) ∧
      exec (.ineg o) s = .next (k.put o fun l => BitVec.ofInt 64 (-(extOf o (k.aw o l)))) ∧
      exec (.imin o) s = .next (k.put o fun l => BitVec.ofInt 64 (min (extOf o (k.aw o l)) (extOf o (k.bw o l)))) ∧
      exec (.imax o) s = .next (k.put o fun l => BitVec.ofInt 64 (max (extOf o (k.aw o l)) (extOf o (k.bw o l)))) ∧
      (o.ty ≠ .n8 → exec (.isad o) s = .next (k.put32 o fun l =>
        BitVec.ofNat 32 ((extend o.ty.signed (k.a o l) - extend o.ty.signed (k.b o l)).natAbs + (k.c o l).toNat))) ∧
      (o.ty = .n8 → exec (.isad o) s = .next (k.put32 o fun l =>
        let diff (j : Nat) : Nat := ((((k.a o l).toNat / 2 ^ (8 * j)) % 256 : Nat) - (((k.b o l).toNat / 2 ^ (8 * j)) % 256 : Nat) : Int).natAbs
        BitVec.ofNat 32 ((k.c o l).toNat + diff 0 + diff 1 + diff 2 + diff 3)))) ∧
  (
    ∀ (s : State) (o : Operands) (k : Work), s.work o = some k →
      let cin (l : Nat) : Nat := if k.w.pred l o.c.toNat then 1 else 0
      exec (.iaddc o) s = .next (k.s.setWarp
        ((k.w.setReg k.act o.d.toNat fun l => BitVec.ofNat 32 ((k.a o l).toNat + (k.b o l).toNat + cin l)).setPred k.act o.c.toNat
          fun l => decide ((k.a o l).toNat + (k.b o l).toNat + cin l ≥ 2 ^ 32))) ∧
      exec (.isubb o) s = .next (k.s.setWarp
        ((k.w.setReg k.act o.d.toNat fun l => BitVec.ofNat 32 (2 ^ 33 + (k.a o l).toNat - (k.b o l).toNat - cin l)).setPred k.act o.c.toNat
          fun l => decide ((k.a o l).toNat < (k.b o l).toNat + cin l)))) ∧
  (
    ∀ (s : State) (o : Operands) (k : Work), s.work o = some k →
      exec (.lea o) s = .next (k.put32 o fun l =>
        BitVec.ofInt 32 (extend o.ty.signed (k.a o l) * 2 ^ o.c.toNat + (k.b o l).toNat)) ∧
      exec (.leaHi o) s = .next (k.put32 o fun l =>
        BitVec.ofInt 32 ((extend o.ty.signed (k.w.reg l o.a.toNat) * 2 ^ o.c.toNat + (k.w.reg l (o.a.toNat + 1)).toNat
          + (k.b o l).toNat * 2 ^ 32) / 2 ^ 32)))

/-- R110, R111: the bitwise forms and tern, bit by bit.
R112, R113: shifts and rotates by an unsigned count, and the funnel shift.
R114 to R116: bit fields, counts, reversal and the byte permute. -/
def Obligations.BitForms : Prop :=
  (
    ∀ (s : State) (o : Operands) (k : Work), s.work o = some k →
      exec (.andB o) s = .next (k.put o fun l => k.aw o l &&& k.bw o l) ∧
      exec (.orB o) s = .next (k.put o fun l => k.aw o l ||| k.bw o l) ∧
      exec (.xorB o) s = .next (k.put o fun l => k.aw o l ^^^ k.bw o l) ∧
      exec (.notB o) s = .next (k.put o fun l => ~~~(k.aw o l)) ∧
      ∃ v : Nat → Word, exec (.tern o) s = .next (k.put32 o v) ∧
        ∀ l j, j < 32 → (v l).getLsbD j
          = o.c.getLsbD (4 * ((k.d o l).getLsbD j).toNat + 2 * ((k.b o l).getLsbD j).toNat + ((k.a o l).getLsbD j).toNat)) ∧
  (
    ∀ (s : State) (o : Operands) (k : Work), s.work o = some k →
      exec (.shl o) s = .next (k.put o fun l => if k.n o l < wideOf o then BitVec.ofNat 64 ((k.aw o l).toNat * 2 ^ k.n o l) else 0) ∧
      exec (.shr o) s = .next (k.put o fun l => if k.n o l < wideOf o then BitVec.ofNat 64 ((k.aw o l).toNat / 2 ^ k.n o l) else 0) ∧
      (∃ v : Nat → DWord, exec (.sar o) s = .next (k.put o v) ∧
        ∀ l j, j < wideOf o →
          (v l).getLsbD j = (k.aw o l).getLsbD (if j + k.n o l < wideOf o then j + k.n o l else wideOf o - 1)) ∧
      (∃ v : Nat → DWord, exec (.rotl o) s = .next (k.put o v) ∧
        ∀ l j, j < wideOf o → (v l).getLsbD ((j + k.n o l) % wideOf o) = (k.aw o l).getLsbD j) ∧
      exec (.fshl o) s = .next (k.put32 o fun l =>
        BitVec.ofNat 32 ((((k.c o l).toNat * 2 ^ 32 + (k.a o l).toNat) * 2 ^ min (k.b o l).toNat 32) % 2 ^ 64 / 2 ^ 32))) ∧
  (
    ∀ (s : State) (o : Operands) (k : Work), s.work o = some k →
      (∃ v : Nat → Word, exec (.bfe o) s = .next (k.put32 o v) ∧ ∀ l,
        (o.c = 0 → v l = 0) ∧
        (o.c ≠ 0 →
          let field (j : Nat) : Bool := if k.n o l + j ≤ 31 then (k.a o l).getLsbD (k.n o l + j) else (o.ty.signed && (k.a o l).getLsbD 31)
          ∀ j, j < 32 → (v l).getLsbD j = if j < o.c.toNat then field j else (o.ty.signed && field (o.c.toNat - 1)))) ∧
      (∃ v : Nat → Word, exec (.bfi o) s = .next (k.put32 o v) ∧ ∀ l j, j < 32 →
        (v l).getLsbD j = if k.n o l ≤ j ∧ j < k.n o l + o.c.toNat then (k.a o l).getLsbD (j - k.n o l) else (k.d o l).getLsbD j) ∧
      exec (.popc o) s = .next (k.put32 o fun l => BitVec.ofNat 32 (((List.range (wideOf o)).filter fun j => (k.aw o l).getLsbD j).length)) ∧
      (∃ z : Nat → Nat, exec (.clz o) s = .next (k.put32 o fun l => BitVec.ofNat 32 (z l)) ∧ ∀ l,
        (k.aw o l = 0 → z l = wideOf o) ∧
        (k.aw o l ≠ 0 → z l < wideOf o ∧ (k.aw o l).getLsbD (wideOf o - 1 - z l) = true ∧
          ∀ j, wideOf o - 1 - z l < j → j < wideOf o → (k.aw o l).getLsbD j = false)) ∧
      (∃ z : Nat → Nat, exec (.ctz o) s = .next (k.put32 o fun l => BitVec.ofNat 32 (z l)) ∧ ∀ l,
        (k.aw o l = 0 → z l = wideOf o) ∧
        (k.aw o l ≠ 0 → z l < wideOf o ∧ (k.aw o l).getLsbD (z l) = true ∧ ∀ j, j < z l → (k.aw o l).getLsbD j = false)) ∧
      (∃ v : Nat → DWord, exec (.brev o) s = .next (k.put o v) ∧
        ∀ l j, j < wideOf o → (v l).getLsbD j = (k.aw o l).getLsbD (wideOf o - 1 - j)) ∧
      (∃ v : Nat → Word, exec (.bperm o) s = .next (k.put32 o v) ∧ ∀ l i, i < 4 →
        let z : Nat := ((k.b o l).toNat / 2 ^ (4 * i)) % 16
        let byte : Nat := (((k.c o l).toNat * 2 ^ 32 + (k.a o l).toNat) / 2 ^ (8 * (z % 8))) % 256
        (v l).toNat / 2 ^ (8 * i) % 256 = if z < 8 then byte else if byte ≥ 128 then 0xFF else 0))

/-- R117 to R121: compares, selects and moves.
R122, R123: combining predicates, and predicates to and from a register. -/
def Obligations.CompareAndMove : Prop :=
  (
    ∀ (s : State) (o : Operands) (k : Work), s.work o = some k →
      let x (l : Nat) : Int := extOf o (k.aw o l)
      let y (l : Nat) : Int := extOf o (k.bw o l)
      exec (.icmp .eq o) s = .next (k.putP o fun l => decide (x l = y l)) ∧
      exec (.icmp .ne o) s = .next (k.putP o fun l => decide (x l ≠ y l)) ∧
      exec (.icmp .lt o) s = .next (k.putP o fun l => decide (x l < y l)) ∧
      exec (.icmp .le o) s = .next (k.putP o fun l => decide (x l ≤ y l)) ∧
      exec (.icmp .gt o) s = .next (k.putP o fun l => decide (x l > y l)) ∧
      exec (.icmp .ge o) s = .next (k.putP o fun l => decide (x l ≥ y l)) ∧
      exec (.sel o) s = .next (k.put o fun l => if k.w.pred l o.c.toNat then k.aw o l else k.bw o l) ∧
      exec (.mov o) s = .next (k.put o fun l => k.aw o l) ∧
      (∀ v, o.b = .imm v → o.c.toNat < 4 → ∃ r : Nat → Word, exec (.movi o) s = .next (k.put32 o r) ∧
        ∀ l i, i < 4 → (r l).toNat / 2 ^ (8 * i) % 256 = if i = o.c.toNat then v.toNat else (k.d o l).toNat / 2 ^ (8 * i) % 256) ∧
      (∀ i, o.b = .k i → exec (.movk o) s = .next (k.put32 o fun _ => k.s.kreg k.w i.toNat)) ∧
      (∀ r, o.b = .reg r → exec (.movk o) s = .next (k.put32 o fun l => k.s.kreg k.w ((k.w.reg l r.toNat).toNat % 64)))) ∧
  (
    ∀ (s : State) (o : Operands) (k : Work), s.work o = some k →
      (∀ p, o.b = .reg p →
        let a (l : Nat) : Bool := k.w.pred l o.a.toNat
        let b (l : Nat) : Bool := k.w.pred l p.toNat
        exec (.psetp .and o) s = .next (k.putP o fun l => a l && b l) ∧
        exec (.psetp .or o) s = .next (k.putP o fun l => a l || b l) ∧
        exec (.psetp .xor o) s = .next (k.putP o fun l => a l != b l) ∧
        exec (.psetp .andn o) s = .next (k.putP o fun l => a l && !b l)) ∧
      (∃ v : Nat → Word, exec (.p2v o) s = .next (k.put32 o v) ∧
        ∀ l j, j < 32 → (v l).getLsbD j = (decide (j < 7) && k.w.pred l j)) ∧
      (∀ m, o.b = .imm m → ∃ w' : Warp, exec (.v2p o) s = .next (k.s.setWarp w') ∧ { w' with preds := k.w.preds } = k.w ∧
        ∀ p l, p < 7 → l < 32 → w'.pred l p = if m.getLsbD p && k.act.getLsbD l then (k.a o l).getLsbD p else k.w.pred l p))

/-- R124: every special value. -/
def Obligations.SpecialReads : Prop :=
  ∀ (s : State) (o : Operands) (k : Work) (g : Wg) (la : Launch), s.work o = some k → k.s.wg? k.w.wg = some g → k.s.launch? g.launch = some la →
    exec (.srd o) s = .next (k.put o fun l => specialValue k.s k.f k.w o.a.toNat l) ∧
    ∀ l, l < 32 →
      specialValue k.s k.f k.w 0x00 l = BitVec.ofNat 64 l ∧
      specialValue k.s k.f k.w 0x01 l = BitVec.ofNat 64 k.w.sub ∧
      specialValue k.s k.f k.w 0x02 l = BitVec.ofNat 64 g.warps ∧
      specialValue k.s k.f k.w 0x03 l = BitVec.ofNat 64 g.x ∧
      specialValue k.s k.f k.w 0x04 l = BitVec.ofNat 64 g.y ∧
      specialValue k.s k.f k.w 0x05 l = BitVec.ofNat 64 g.z ∧
      specialValue k.s k.f k.w 0x06 l = BitVec.ofNat 64 la.gx ∧
      specialValue k.s k.f k.w 0x07 l = BitVec.ofNat 64 la.gy ∧
      specialValue k.s k.f k.w 0x08 l = BitVec.ofNat 64 la.gz ∧
      specialValue k.s k.f k.w 0x09 l = BitVec.ofNat 64 g.clrank ∧
      specialValue k.s k.f k.w 0x0A l = BitVec.ofNat 64 g.clsize ∧
      specialValue k.s k.f k.w 0x0B l = BitVec.ofNat 64 k.w.budget ∧
      specialValue k.s k.f k.w 0x0C l = BitVec.ofNat 64 g.privIdx ∧
      specialValue k.s k.f k.w 0x0D l = BitVec.ofNat 64 la.tag ∧
      specialValue k.s k.f k.w 0x0E l = BitVec.ofNat 64 la.ctx ∧
      specialValue k.s k.f k.w 0x0F l = BitVec.ofNat 64 k.w.slot ∧
      specialValue k.s k.f k.w 0x10 l = BitVec.ofNat 64 k.w.core ∧
      specialValue k.s k.f k.w 0x11 l = BitVec.ofNat 64 (k.w.core / 4) ∧
      specialValue k.s k.f k.w 0x12 l = BitVec.ofNat 64 (k.w.core / 192) ∧
      specialValue k.s k.f k.w 0x13 l = k.f.lanes.setWidth 64 ∧
      specialValue k.s k.f k.w 0x14 l = BitVec.ofNat 64 (2 ^ l - 1) ∧
      specialValue k.s k.f k.w 0x15 l = BitVec.ofNat 64 (2 ^ (l + 1) - 1) ∧
      specialValue k.s k.f k.w 0x16 l = BitVec.ofNat 64 (2 ^ 32 - 2 ^ (l + 1)) ∧
      specialValue k.s k.f k.w 0x17 l = BitVec.ofNat 64 (2 ^ 32 - 2 ^ l) ∧
      specialValue k.s k.f k.w 0x20 l = la.compl ∧
      specialValue k.s k.f k.w 0x21 l = la.rcb ∧
      specialValue k.s k.f k.w 0x22 l
        = if la.privs = 0 then 0 else BitVec.ofNat 64 (la.privb.toNat + (512 * g.privIdx + 32 * k.w.sub + l) * la.privs * 16)

/-- R126, R127: integer conversions, wrapping or clamping, and packing. -/
def Obligations.IntegerConversion : Prop :=
  ∀ (s : State) (o : Operands) (k : Work), s.work o = some k →
    (∀ src, o.srcTy = some src →
      let x (l : Nat) : Int := src.intOf (if src.bits = 64 then srcA64 k.w o l else (k.a o l).setWidth 64)
      (o.mod ≠ 1 → exec (.cvti o) s = .next (k.put o fun l => o.ty.widen (x l))) ∧
      (o.mod = 1 → exec (.cvti o) s = .next (k.put o fun l => o.ty.widen (max o.ty.minInt (min (x l) o.ty.maxInt))))) ∧
    (o.ty.bits = 16 → exec (.pack o) s = .next (k.put32 o fun l =>
      BitVec.ofNat 32 ((k.b o l).toNat % 2 ^ 16 * 2 ^ 16 + (k.a o l).toNat % 2 ^ 16))) ∧
    (o.ty.bits = 32 → exec (.pack o) s = .next (k.put64 o fun l => BitVec.ofNat 64 ((k.b o l).toNat * 2 ^ 32 + (k.a o l).toNat))) ∧
    exec (.unpack o) s = .next (k.put64 o fun l =>
      let half (i : Nat) : BitVec 16 := BitVec.ofNat 16 ((k.a o l).toNat / 2 ^ (16 * i))
      let wide (h : BitVec 16) : Word := if o.ty.signed then BitVec.ofInt 32 h.toInt else BitVec.ofNat 32 h.toNat
      wide (half 1) ++ wide (half 0))

/-- R128: one rounding of the exact result by MOD, overflow as R91 says with SAT 0.
R129 to R131: minimum and maximum, compares with NaN and the two zeros, and the class test.
R132, R133: packed halves, each as the scalar form in the 16-bit format, and the two-term dot product with one rounding. -/
def Obligations.FloatForms : Prop :=
  (
    ∀ (s : State) (o : Operands) (k : Work), s.work o = some k →
      let md := Rnd.ofBits o.mod
      let x (l : Nat) : FVal := fmt32.decode (k.a o l).toNat
      let y (l : Nat) : FVal := fmt32.decode (k.b o l).toNat
      let z (l : Nat) : FVal := fmt32.decode (k.c o l).toNat
      exec (.fadd o) s = .next (k.put32 o fun l => BitVec.ofNat 32 (fmt32.round md false (FVal.sum md [x l, y l]))) ∧
      exec (.fsub o) s = .next (k.put32 o fun l => BitVec.ofNat 32 (fmt32.round md false (FVal.sum md [x l, (y l).neg]))) ∧
      exec (.fmul o) s = .next (k.put32 o fun l => BitVec.ofNat 32 (fmt32.round md false ((x l).mul (y l)))) ∧
      exec (.ffma o) s = .next (k.put32 o fun l => BitVec.ofNat 32 (fmt32.round md false (FVal.sum md [(x l).mul (y l), z l])))) ∧
  (
    ∀ (s : State) (o : Operands) (k : Work), s.work o = some k →
      let x (l : Nat) : FVal := fmt32.decode (k.a o l).toNat
      let y (l : Nat) : FVal := fmt32.decode (k.b o l).toNat
      let un (l : Nat) : Bool := x l == .nan || y l == .nan
      let lt (l : Nat) : Bool := decide (f32Units (x l) < f32Units (y l)) || (decide (f32Units (x l) = f32Units (y l)) && (k.a o l).msb && !(k.b o l).msb)
      let pick (isMax : Bool) (l : Nat) : Word :=
        if x l = .nan ∧ y l = .nan then 0x7FC00000
        else if x l = .nan then k.b o l
        else if y l = .nan then k.a o l
        else if lt l = isMax then k.b o l else k.a o l
      exec (.fmin o) s = .next (k.put32 o (pick false)) ∧
      exec (.fmax o) s = .next (k.put32 o (pick true)) ∧
      exec (.fcmp .eq o) s = .next (k.putP o fun l => !un l && decide (f32Units (x l) = f32Units (y l))) ∧
      exec (.fcmp .ne o) s = .next (k.putP o fun l => un l || decide (f32Units (x l) ≠ f32Units (y l))) ∧
      exec (.fcmp .lt o) s = .next (k.putP o fun l => !un l && decide (f32Units (x l) < f32Units (y l))) ∧
      exec (.fcmp .le o) s = .next (k.putP o fun l => !un l && decide (f32Units (x l) ≤ f32Units (y l))) ∧
      exec (.fcmp .gt o) s = .next (k.putP o fun l => !un l && decide (f32Units (x l) > f32Units (y l))) ∧
      exec (.fcmp .ge o) s = .next (k.putP o fun l => !un l && decide (f32Units (x l) ≥ f32Units (y l))) ∧
      exec (.fcmp .unord o) s = .next (k.putP o un) ∧
      exec (.fcmp .ord o) s = .next (k.putP o fun l => !un l) ∧
      (∀ m, o.b = .imm m → exec (.fclass o) s = .next (k.putP o fun l =>
        match x l with
        | .nan => m.getLsbD 0
        | .inf true => m.getLsbD 1
        | .inf false => m.getLsbD 7
        | .num neg sig _ =>
          if sig = 0 then m.getLsbD 4
          else if sig < 2 ^ 23 then (if neg then m.getLsbD 3 else m.getLsbD 5)
          else (if neg then m.getLsbD 2 else m.getLsbD 6)))) ∧
  (
    ∀ (s : State) (o : Operands) (k : Work), s.work o = some k →
      let md := Rnd.ofBits o.mod
      let h (x : Word) (i : Nat) : Nat := x.toNat / 2 ^ (16 * i) % 2 ^ 16
      let both (g : Nat → Nat → Nat) (l : Nat) : Word := BitVec.ofNat 32 (g l 1 % 2 ^ 16 * 2 ^ 16 + g l 0 % 2 ^ 16)
      exec (.hadd2 o) s = .next (k.put32 o (both fun l i => o.ty.fmt.add md (h (k.a o l) i) (h (k.b o l) i))) ∧
      exec (.hmul2 o) s = .next (k.put32 o (both fun l i => o.ty.fmt.mul md (h (k.a o l) i) (h (k.b o l) i))) ∧
      exec (.hfma2 o) s = .next (k.put32 o (both fun l i => o.ty.fmt.fma md (h (k.a o l) i) (h (k.b o l) i) (h (k.c o l) i))) ∧
      exec (.hmin2 o) s = .next (k.put32 o (both fun l i => o.ty.fmt.minmax false (h (k.a o l) i) (h (k.b o l) i))) ∧
      exec (.hmax2 o) s = .next (k.put32 o (both fun l i => o.ty.fmt.minmax true (h (k.a o l) i) (h (k.b o l) i))) ∧
      exec (.fdot2 o) s = .next (k.put32 o fun l =>
        let p (i : Nat) : FVal := (o.ty.fmt.decode (h (k.a o l) i)).mul (o.ty.fmt.decode (h (k.b o l) i))
        BitVec.ofNat 32 (fmt32.round md false (FVal.sum md [p 0, p 1, fmt32.decode (k.c o l).toNat]))))

/-- R134 with R62 and R63: each special function counts on its flag at issue and owes its result, a fixed function of its input, to D.
R135: the results that special inputs give, by form: -inf, -0, +0, +inf, then NaN and negative inputs, and the three further results. -/
def Obligations.SpecialFunctions : Prop :=
  (
    ∀ (s : State) (o : Operands) (k : Work), s.workLL o = some k →
      let owes (op : SfOp) : Host.Outcome State Fault Refusal :=
        .next (k.s.llResult k.f k.w k.act o.fsel [o.d.toNat] ((lanesOf k.act).map fun l => { lane := l, reg := o.d.toNat, val := sfValue op (k.a o l) }))
      exec (.frcp o) s = owes .rcp ∧ exec (.frsq o) s = owes .rsq ∧ exec (.fsqrt o) s = owes .sqrt ∧ exec (.fexp2 o) s = owes .exp2 ∧
      exec (.flog2 o) s = owes .log2 ∧ exec (.fsin o) s = owes .sin ∧ exec (.fcos o) s = owes .cos ∧ exec (.ftanh o) s = owes .tanh) ∧
  (
    (let row (op : SfOp) : List Word := [0xFF800000, 0x80000000, 0x00000000, 0x7F800000].map (sfValue op)
     row .rcp = [0x80000000, 0xFF800000, 0x7F800000, 0x00000000] ∧
     row .rsq = [0x7FC00000, 0xFF800000, 0x7F800000, 0x00000000] ∧
     row .sqrt = [0x7FC00000, 0x80000000, 0x00000000, 0x7F800000] ∧
     row .exp2 = [0x00000000, 0x3F800000, 0x3F800000, 0x7F800000] ∧
     row .log2 = [0x7FC00000, 0xFF800000, 0xFF800000, 0x7F800000] ∧
     row .sin = [0x7FC00000, 0x80000000, 0x00000000, 0x7FC00000] ∧
     row .cos = [0x7FC00000, 0x3F800000, 0x3F800000, 0x7FC00000] ∧
     row .tanh = [0xBF800000, 0x80000000, 0x00000000, 0x3F800000]) ∧
    (∀ op x, fmt32.decode x.toNat = .nan → sfValue op x = 0x7FC00000) ∧
    (∀ op x m e, op = .rsq ∨ op = .sqrt ∨ op = .log2 → fmt32.decode x.toNat = .num true m e → m ≠ 0 → sfValue op x = 0x7FC00000) ∧
    sfValue .log2 0x3F800000 = 0 ∧
    (∀ x : Word, 0 < x.toNat → x.toNat ≤ 2 ^ 21 → sfValue .rcp x = 0x7F800000 ∧ sfValue .rcp (x ||| 0x80000000) = 0xFF800000) ∧
    (∀ x : Word, 0x43000000 < x.toNat → x.toNat ≤ 0x7F800000 → sfValue .exp2 x = 0x7F800000) ∧
    (∀ x : Word, 0xC3160000 < x.toNat → x.toNat ≤ 0xFF800000 → sfValue .exp2 x = 0))

/-- R136, R137: cvt without a slot, and through a slot of a published format; any other slot traps.
R139, R140: a bundle's lanes as one DX block, absent lanes as +0, and one element decoded in each lane.
R97: the exponent pair and the codes of a DX block of 32 values. -/
def Obligations.Conversions : Prop :=
  (
    ∀ (s : State) (o : Operands) (k : Work) (src : Ty), s.work o = some k → o.srcTy = some src →
      let a (l : Nat) : DWord := if src.bits = 64 then srcA64 k.w o l else (k.a o l).setWidth 64
      let sl := k.s.slotOf k.w o.fs.toNat
      let clamp (x : Int) : Int := max o.ty.minInt (min x o.ty.maxInt)
      let toInt (md : Rnd) : FVal → Int
        | .nan => 0
        | .inf neg => if neg then o.ty.minInt else o.ty.maxInt
        | .num neg m e => clamp (if neg then -(roundScaled md neg m e : Int) else (roundScaled md neg m e : Int))
      let value (l : Nat) : FVal := if src.isFloat then src.fmt.decode ((a l).toNat % 2 ^ src.bits) else .ofInt (src.intOf (a l))
      (o.ty ≠ .slot → src ≠ .slot →
        let md := Rnd.ofBits o.mod
        (o.ty.isFloat = true → exec (.cvt o) s = .next (k.put o fun l => BitVec.ofNat 64 (o.ty.fmt.round md false (value l)))) ∧
        (o.ty.isFloat = false → src.isFloat = true → exec (.cvt o) s = .next (k.put o fun l => o.ty.widen (toInt md (value l)))) ∧
        (o.ty.isFloat = false → src.isFloat = false → exec (.cvt o) s = .next (k.put o fun l => o.ty.widen (clamp (src.intOf (a l)))))) ∧
      (∀ fm fmt, sl.format? = some fm → fm.published = some fmt →
        let sc := sl.scaleExp (k.s.kreg k.w)
        let slotValue (l : Nat) : FVal := (fmt.decode ((k.a o l).toNat % 2 ^ fmt.width)).scale sc
        (o.ty = .slot → exec (.cvt o) s = .next (k.put32 o fun l => BitVec.ofNat 32 (fmt.round sl.mode sl.sat ((value l).scale (-sc))))) ∧
        (o.ty ≠ .slot → src = .slot → o.ty.isFloat = true →
          exec (.cvt o) s = .next (k.put o fun l => BitVec.ofNat 64 (o.ty.fmt.round sl.mode sl.sat (slotValue l)))) ∧
        (o.ty ≠ .slot → src = .slot → o.ty.isFloat = false →
          exec (.cvt o) s = .next (k.put o fun l => o.ty.widen (toInt sl.mode (slotValue l))))) ∧
      ((sl.format?).bind SlotFmt.published = none → o.ty = .slot ∨ src = .slot →
        exec (.cvt o) s = .next (k.s.trapHere k.f k.w k.act { kind := kSlotFormat }))) ∧
  (
    ∀ (s : State) (o : Operands) (k : Work) (fm : SlotFmt) (wd : Nat), s.work o = some k →
      let sl := k.s.slotOf k.w o.fs.toNat
      sl.format? = some fm → fm.dxWidth = some wd →
      let sc := sl.scaleExp (k.s.kreg k.w)
      let r := dxEncode sl wd sc ((List.range 32).map fun i => if k.act.getLsbD i then fmt32.decode (k.a o i).toNat else .num false 0 0)
      exec (.cvtBlkTo o) s = .next (k.s.setWarp
        ((k.w.setReg k.act o.d.toNat fun l => BitVec.ofNat 32 ((r.1[l]?).getD 0)).setReg k.act o.c.toNat
          fun _ => BitVec.ofNat 32 (r.2.2 * 2 ^ 8 + r.2.1))) ∧
      exec (.cvtBlkFrom o) s = .next (k.put32 o fun l =>
        BitVec.ofNat 32 (fmt32.round .rn false
          (dxValue ((k.a o l).toNat % 2 ^ (wd + 2)) ((k.c o l).toNat % 256) ((k.c o l).toNat / 256 % 256) wd sc)))) ∧
  (
    ∀ (sl : Slot) (w : Nat) (sc : Int) (x : List FVal), w = 6 ∨ w = 4 ∨ w = 2 → x.length = 32 →
      let t := 2 ^ w - 1
      let y (i : Nat) : FVal := ((x[i]?).getD .nan).scale (-sc)
      let fits (i e : Nat) : Prop := ∃ m, dxMag sl.mode w (y i) e = some m ∧ m ≤ t
      let bad (i : Nat) : Prop := y i = .nan ∨ (sl.sat = false ∧ ¬ fits i 254)
      let r := dxEncode sl w sc x
      r.1.length = 32 ∧
      ∃ ehi : Nat, ehi ≤ 254 ∧
        ((∃ e, e ≤ 254 ∧ ∀ i, i < 32 → ¬ bad i → fits i e) →
          (∀ i, i < 32 → ¬ bad i → fits i ehi) ∧ ∀ e, e < ehi → ∃ i, i < 32 ∧ ¬ bad i ∧ ¬ fits i e) ∧
        ((¬ ∃ e, e ≤ 254 ∧ ∀ i, i < 32 → ¬ bad i → fits i e) → ehi = 254) ∧
        ((∃ i, i < 32 ∧ bad i) → r.2 = (ehi, 0xFF)) ∧
        ((¬ ∃ i, i < 32 ∧ bad i) → r.2 = (ehi - sl.gap.toNat, ehi)) ∧
        ∀ i, i < 32 →
          (bad i → r.1[i]? = some (2 ^ (w + 1) + t)) ∧
          (¬ bad i → ∃ e m, ((((∃ j, j < 32 ∧ bad j) ∨ fits i r.2.1) ∧ e = r.2.1 ∧ r.1[i]? = some ((y i).signBit.toNat * 2 ^ w + m)) ∨
              ((¬ ∃ j, j < 32 ∧ bad j) ∧ ¬ fits i r.2.1 ∧ e = r.2.2 ∧ r.1[i]? = some (2 ^ (w + 1) + (y i).signBit.toNat * 2 ^ w + m))) ∧
            ((dxMag sl.mode w (y i) e = none ∧ m = t) ∨ ∃ mm, dxMag sl.mode w (y i) e = some mm ∧ m = min mm t)))

/-- R340 to R345 (R339): exchanges, votes, matches, reductions and prefixes over the lanes of Active().
R344, R345 with R104: floating reductions, and running results in ascending lane order. -/
def Obligations.CrossLaneForms : Prop :=
  (
    ∀ (s : State) (o : Operands) (k : Work), s.work o = some k →
      (o.c.toNat ≤ 5 → ∀ op, ∃ src : Nat → Nat,
        exec (.xlane op o) s = .next (k.put32 o fun l => if k.act.getLsbD (src l) then k.a o (src l) else k.a o l) ∧
        ∀ l, l < 32 →
          let w := 2 ^ o.c.toNat
          src l / w = l / w ∧
          (src l % w = match op with
            | .sel => k.n o l % w
            | .rot => (l % w + k.n o l) % w
            | .xor => (l % w) ^^^ (k.n o l % w)
            | .mir => (((k.n o l : Int) - (l % w : Nat)) % (w : Int)).toNat)) ∧
      (let p (l : Nat) : Bool := k.w.pred l o.a.toNat
       exec (.vote .all o) s = .next (k.putP o fun _ => decide (∀ i ∈ lanesOf k.act, p i = true)) ∧
       exec (.vote .any o) s = .next (k.putP o fun _ => decide (∃ i ∈ lanesOf k.act, p i = true)) ∧
       exec (.vote .eq o) s = .next (k.putP o fun _ => decide (∀ i ∈ lanesOf k.act, ∀ j ∈ lanesOf k.act, p i = p j)) ∧
       ∃ m : Word, exec (.voteBallot o) s = .next (k.put32 o fun _ => m) ∧ ∀ i, i < 32 → m.getLsbD i = (k.act.getLsbD i && p i)) ∧
      (∃ m : Nat → Word, exec (.matchLanes .any o) s = .next (k.put32 o m) ∧
        ∀ l i, i < 32 → (m l).getLsbD i = (k.act.getLsbD i && decide (k.aw o i = k.aw o l))) ∧
      (∃ m : Nat → Word, exec (.matchLanes .all o) s = .next (k.put32 o m) ∧ ∀ l, k.act.getLsbD l = true →
        m l = if ∀ i ∈ lanesOf k.act, ∀ j ∈ lanesOf k.act, k.aw o i = k.aw o j then k.act else 0) ∧
      exec (.redux .add o) s = .next (k.put32 o fun _ => BitVec.ofNat 32 ((lanesOf k.act).map fun i => (k.a o i).toNat).sum) ∧
      (let ext (i : Nat) : Int := extend o.ty.signed (k.a o i)
       (∃ r : Word, exec (.redux .min o) s = .next (k.put32 o fun _ => r) ∧
         (∃ i ∈ lanesOf k.act, r = k.a o i) ∧ ∀ i ∈ lanesOf k.act, extend o.ty.signed r ≤ ext i) ∧
       (∃ r : Word, exec (.redux .max o) s = .next (k.put32 o fun _ => r) ∧
         (∃ i ∈ lanesOf k.act, r = k.a o i) ∧ ∀ i ∈ lanesOf k.act, ext i ≤ extend o.ty.signed r)) ∧
      (∃ r : Word, exec (.redux .and o) s = .next (k.put32 o fun _ => r) ∧
        ∀ j, j < 32 → (r.getLsbD j = true ↔ ∀ i ∈ lanesOf k.act, (k.a o i).getLsbD j = true)) ∧
      (∃ r : Word, exec (.redux .or o) s = .next (k.put32 o fun _ => r) ∧
        ∀ j, j < 32 → (r.getLsbD j = true ↔ ∃ i ∈ lanesOf k.act, (k.a o i).getLsbD j = true)) ∧
      (∃ r : Word, exec (.redux .xor o) s = .next (k.put32 o fun _ => r) ∧
        ∀ j, j < 32 → (r.getLsbD j = true ↔ ((lanesOf k.act).filter fun i => (k.a o i).getLsbD j).length % 2 = 1))) ∧
  (
    ∀ (s : State) (o : Operands) (k : Work), s.work o = some k →
      (let x (l : Nat) : Nat := if k.act.getLsbD l then (k.a o l).toNat else 0x80000000
       let add (p q : Nat) : Nat := fmt32.add .rn p q
       let s2 (i : Nat) : Nat := add (x (2 * i)) (x (2 * i + 1))
       let s4 (i : Nat) : Nat := add (s2 (2 * i)) (s2 (2 * i + 1))
       let s8 (i : Nat) : Nat := add (s4 (2 * i)) (s4 (2 * i + 1))
       let s16 (i : Nat) : Nat := add (s8 (2 * i)) (s8 (2 * i + 1))
       exec (.fredux .add o) s = .next (k.put32 o fun _ => BitVec.ofNat 32 (add (s16 0) (s16 1)))) ∧
      (let nan (x : Word) : Prop := fmt32.decode x.toNat = .nan
       (∃ r : Word, exec (.fredux .min o) s = .next (k.put32 o fun _ => r) ∧
         ((∀ i ∈ lanesOf k.act, nan (k.a o i)) → r = 0x7FC00000) ∧
         ((∃ i ∈ lanesOf k.act, ¬ nan (k.a o i)) → ¬ nan r ∧ (∃ i ∈ lanesOf k.act, r = k.a o i) ∧
           ∀ i ∈ lanesOf k.act, ¬ nan (k.a o i) → fmt32.key r.toNat ≤ fmt32.key (k.a o i).toNat)) ∧
       (∃ r : Word, exec (.fredux .max o) s = .next (k.put32 o fun _ => r) ∧
         ((∀ i ∈ lanesOf k.act, nan (k.a o i)) → r = 0x7FC00000) ∧
         ((∃ i ∈ lanesOf k.act, ¬ nan (k.a o i)) → ¬ nan r ∧ (∃ i ∈ lanesOf k.act, r = k.a o i) ∧
           ∀ i ∈ lanesOf k.act, ¬ nan (k.a o i) → fmt32.key (k.a o i).toNat ≤ fmt32.key r.toNat))) ∧
      (let upTo (l : Nat) : List Word := ((lanesOf k.act).filter fun i => decide (i ≤ l)).map (k.a o)
       let before (l : Nat) : List Word := ((lanesOf k.act).filter fun i => decide (i < l)).map (k.a o)
       let fadd (a x : Word) : Word := BitVec.ofNat 32 (fmt32.add .rn a.toNat x.toNat)
       let fmm (m : Bool) (a x : Word) : Word := BitVec.ofNat 32 (fmt32.minmax m a.toNat x.toNat)
       let run (g : Word → Word → Word) : List Word → Word
         | [] => 0
         | x :: t => t.foldl g x
       (o.ty ≠ .f32 →
         exec (.scan .add o) s = .next (k.put32 o fun l => BitVec.ofNat 32 ((upTo l).map BitVec.toNat).sum) ∧
         exec (.scan .xadd o) s = .next (k.put32 o fun l => BitVec.ofNat 32 ((before l).map BitVec.toNat).sum) ∧
         exec (.scan .min o) s = .next (k.put32 o fun l => run (iminmax o.ty.signed false) (upTo l)) ∧
         exec (.scan .max o) s = .next (k.put32 o fun l => run (iminmax o.ty.signed true) (upTo l))) ∧
       (o.ty = .f32 →
         exec (.scan .add o) s = .next (k.put32 o fun l => run fadd (upTo l)) ∧
         exec (.scan .xadd o) s = .next (k.put32 o fun l => if before l = [] then 0x80000000 else run fadd (before l)) ∧
         exec (.scan .min o) s = .next (k.put32 o fun l => run (fmm false) (upTo l)) ∧
         exec (.scan .max o) s = .next (k.put32 o fun l => run (fmm true) (upTo l)))))

/-- R206, R208 to R210, R213, R62, R63: a load from global or private memory issues. Its flag rises, it stands among the outstanding instructions with
its destinations, and each line that it names is answered from the core's or its die's copy, or asked of its home; ldc looks at the constant path of its
cluster and not at its core's copy (R215). Registers, predicates and every byte of memory stay as they were. -/
def Obligations.LoadIssue : Prop :=
  ∀ (s s1 : State) (n : GroupN) (o : Operands) (k : Work) (i : Instr) (accs : List Acc) (ps : List Piece), s.workLL o = some k → k.quiet = true →
    ((i = .ld n o ∨ (i = .ldc o ∧ n = .one)) ∧ k.globalOk o ∧ accs = k.loads o n.count (k.va o)) ∨
      (i = .ldp n o ∧ k.privateOk o n.count ∧ accs = k.loads o n.count (k.pva o)) →
    (k.fenced o).resolve k.f.core (k.s.ctxOf k.w) (k.w.supIn k.f) .read accs = .ok (ps, s1) →
    ∃ t op, exec i s = .next t ∧ t.warp? k.f.core k.f.slot = some (k.w.addFlag (k.f.flag o.fsel)) ∧
      t.llop? k.s.nonce = some op ∧ op.lanes = k.act ∧ op.flag = k.f.flag o.fsel ∧ op.dests = groupDests o n.count ∧ op.iaddr = k.f.pc ∧
      (∀ p ∈ ps, (∃ d, ∀ x ∈ p.accs.flatMap (accWrites d), x ∈ op.writes) ∨
        ∃ r ∈ t.mem.reqs, r.kind = .read ∧ r.llop = some k.s.nonce ∧ r.line = p.line ∧ r.mask = p.mask ∧ r.accs = p.accs ∧ r.core = k.f.core ∧
          r.ctx = k.s.ctxOf k.w ∧ ∃ m ∈ t.agenda, m.what = .read r.id) ∧
      (∀ p, ps = [p] →
        let fab := (k.fenced o).fab? k.f.core (k.s.ctxOf k.w) p.vline
        let path := k.s.const? k.f.core (k.s.ctxOf k.w) p.vline
        let die := (k.fenced o).dieCopy (dieOf k.f.core) p.line
        let answered (d : LineData) : Prop :=
          op.writes = p.accs.flatMap (accWrites d) ∧ op.pending = 0 ∧ ∃ m ∈ t.agenda, m.what = .longLatencyComplete k.s.nonce
        let farther : Prop :=
          (∀ d, k.mayHit p → die = some d → answered d.data) ∧ (¬ k.mayHit p ∨ die = none → op.writes = [] ∧ op.pending = 1)
        (i ≠ .ldc o →
          (∀ l, fab = some l → Scope.wide o.sc = false → l.pline = p.line → l.valid &&& p.mask = p.mask → k.mayHit p → answered l.data) ∧
          (Scope.wide o.sc = true ∨ fab = none → farther)) ∧
        (i = .ldc o →
          (∀ l, path = some l → l.pline = p.line → l.valid &&& p.mask = p.mask → k.s.copyOk (k.s.ctxOf k.w) p.line true false = true →
            answered l.data) ∧
          (path = none → farther))) ∧
      k.s.keepsBytes t ∧ k.s.keepsUnits t ∧ k.s.keepsPeers t k.w

/-- R213, R207: lds reads stage memory at issue, little-endian, and writes its registers when it completes; nothing else changes.
R214, R207: sts writes stage memory at issue, higher lanes over lower: each byte of stage memory is the last one stored there, and every other byte,
every register, and every byte of global memory stay as they were. -/
def Obligations.StageAccess : Prop :=
  (
    ∀ (s : State) (n : GroupN) (o : Operands) (k : Work) (g : Wg) (place : Nat → Nat × Nat), s.workLL o = some k → k.quiet = true →
      k.s.wg? k.w.wg = some g →
      (∀ l ∈ lanesOf k.act,
        k.s.stageAddr g (k.a o l) (srcOffset k.s k.f k.w o l) (elemSize o) (n.count * elemSize o) (Scope.wide o.sc) = .ok (place l)) →
      ∃ t op, exec (.lds n o) s = .next t ∧ t.warp? k.f.core k.f.slot = some (k.w.addFlag (k.f.flag o.fsel)) ∧
        t.llop? k.s.nonce = some op ∧ op.lanes = k.act ∧ op.flag = k.f.flag o.fsel ∧ op.dests = groupDests o n.count ∧ op.pending = 0 ∧
        op.writes = ((lanesOf k.act).flatMap fun l => (List.range n.count).flatMap fun e =>
          elemRegs o l e (k.s.stageRead (place l).1 ((place l).2 + e * elemSize o) (elemSize o))) ∧
        (∃ m ∈ t.agenda, m.what = .longLatencyComplete k.s.nonce) ∧ k.s.keepsBytes t ∧ k.s.keepsUnits t ∧ k.s.keepsOthers t k.w) ∧
  (
    ∀ (s : State) (n : GroupN) (o : Operands) (k : Work) (g : Wg) (place : Nat → Nat × Nat), s.work o = some k → k.quiet = true →
      k.s.wg? k.w.wg = some g →
      (∀ l ∈ lanesOf k.act,
        k.s.stageAddr g (k.a o l) (srcOffset k.s k.f k.w o l) (elemSize o) (n.count * elemSize o) (Scope.wide o.sc) = .ok (place l)) →
      let stored : List ((Nat × Nat) × Byte) := (lanesOf k.act).flatMap fun l => (List.range n.count).flatMap fun e => (List.range (elemSize o)).map fun j =>
        (((place l).1, (place l).2 + e * elemSize o + j), byteOf (groupSource k.w o l e (elemSize o)).toNat j)
      ∃ t, exec (.sts n o) s = .next t ∧ (∀ core slot, t.warp? core slot = k.s.warp? core slot) ∧
        (∀ wg off, t.stageAt wg off = match stored.reverse.find? fun x => x.1 == (wg, off) with
          | some x => some x.2
          | none => k.s.stageAt wg off) ∧
        (∀ wg, (t.wg? wg).map (fun x => { x with stage := [] }) = (k.s.wg? wg).map fun x => { x with stage := [] }) ∧
        k.s.keepsBytes t ∧ k.s.keepsUnits t)

/-- R206, R208 to R210, R214, 07 R166: a store to global or private memory issues. For .thr and .wg its bytes are in the core's fabric cache; for a
wider scope, and in a versioned window (10 R273), they are on their way to their homes. A byte of a line is that of the highest lane whose access covers
it, by whatever virtual address. No register changes, and no byte at a home changes before the store arrives there. -/
def Obligations.StoreIssue : Prop :=
  ∀ (s s1 : State) (n : GroupN) (o : Operands) (k : Work) (i : Instr) (va : Nat → Nat) (ps : List Piece), s.work o = some k → k.quiet = true →
    (i = .st n o ∧ va = k.va o ∧ k.globalOk o) ∨ (i = .stp n o ∧ va = k.pva o ∧ k.privateOk o n.count) →
    (k.fenced o).resolve k.f.core (k.s.ctxOf k.w) (k.w.supIn k.f) .write (k.stores o n.count va) = .ok (ps, s1) →
    ∃ t, exec i s = .next t ∧ (∀ core slot, t.warp? core slot = k.s.warp? core slot) ∧
      k.s.keepsWgs t ∧
      (∀ p ∈ ps, Scope.wide o.sc = true ∨ k.s.windowAt p.line ≠ none →
        ∃ r ∈ t.mem.reqs, r.kind = .write ∧ r.line = p.line ∧ r.mask = p.mask ∧ r.data = p.dataIn ps ∧ r.core = k.f.core ∧
          r.ctx = k.s.ctxOf k.w ∧ r.performed = false ∧ ∃ m ∈ t.agenda, m.what = .write r.id) ∧
      (Scope.wide o.sc = true → ∀ r ∈ t.mem.reqs, r ∈ k.s.mem.reqs ∨ ∃ p ∈ ps, r.line = p.line ∧ r.mask = p.mask ∧ r.data = p.dataIn ps) ∧
      (Scope.wide o.sc = false → ∀ p, ps = [p] → k.s.windowAt p.line = none → t.mem.die = k.s.mem.die ∧
        ∃ l, t.fab? k.f.core (k.s.ctxOf k.w) p.vline = some l ∧
          ∀ b, b < 128 → p.mask.getLsbD b = true →
            l.valid.getLsbD b = true ∧ l.dirty.getLsbD b = true ∧ LineData.byte l.data b = LineData.byte (p.dataIn ps) b) ∧
      (∀ p ∈ ps, ∀ b, b < 128 →
        let covers (a : Acc) : Prop := a.off ≤ b ∧ b < a.off + a.size
        let all := (ps.filter fun q => q.line == p.line).flatMap Piece.accs
        (p.mask.getLsbD b = true ↔ ∃ a ∈ p.accs, covers a) ∧
        ∀ a ∈ all, covers a → (∀ x ∈ all, covers x → x.lane < a.lane ∨ x = a) → LineData.byte (p.dataIn ps) b = byteOf a.b.toNat (b - a.off)) ∧
      k.s.keepsBytes t ∧ k.s.keepsUnits t

/-- R217 to R219: the new value of a read-modify-write.
R206, R217 to R221: an atomic or a reduction issues. On global memory with a scope wider than .wg each line that it names is asked of its home; for .thr
and .wg it is performed at once in the core's fabric cache where that holds its bytes (07 R182); on stage memory it is performed at once. The forms are
atom, atom.cas (atomCas), atom.fadd (atomFadd), red and red.fadd (redFadd). An atomic's flag rises and it stands outstanding; a reduction leaves no
trace in its warp. -/
def Obligations.Atomics : Prop :=
  (
    ∀ (o : Operands) (old b c : DWord),
      let w32 (x : DWord) : Word := x.setWidth 32
      let int (op : AtomOp) : DWord := (rmwOf op o).eval old b c
      (o.ty.bits = 64 →
        int .add = old + b ∧ int .and = old &&& b ∧ int .or = old ||| b ∧ int .xor = old ^^^ b ∧ int .exch = b ∧
        int .min = BitVec.ofInt 64 (min (extOf o old) (extOf o b)) ∧ int .max = BitVec.ofInt 64 (max (extOf o old) (extOf o b)) ∧
        (RmwKind.cas (is64 o)).eval old b c = if old = b then c else old) ∧
      (o.ty.bits = 32 →
        int .add = (w32 old + w32 b).setWidth 64 ∧ int .and = (w32 old &&& w32 b).setWidth 64 ∧ int .or = (w32 old ||| w32 b).setWidth 64 ∧
        int .xor = (w32 old ^^^ w32 b).setWidth 64 ∧ int .exch = (w32 b).setWidth 64 ∧
        w32 (int .min) = BitVec.ofInt 32 (min (extOf o old) (extOf o b)) ∧ w32 (int .max) = BitVec.ofInt 32 (max (extOf o old) (extOf o b)) ∧
        w32 ((RmwKind.cas (is64 o)).eval old b c) = if w32 old = w32 b then w32 c else w32 old) ∧
      (o.ty = .f32 → ((faddOf o).eval old b c).toNat = fmt32.add .rn (w32 old).toNat (w32 b).toNat) ∧
      (o.ty = .f16 → ∀ h, h < 2 → (((faddOf o).eval old b c).toNat / 2 ^ (16 * h)) % 2 ^ 16
        = fmt16.add .rn (old.toNat / 2 ^ (16 * h) % 2 ^ 16) (b.toNat / 2 ^ (16 * h) % 2 ^ 16) % 2 ^ 16) ∧
      (o.ty = .bf16 → ∀ h, h < 2 → (((faddOf o).eval old b c).toNat / 2 ^ (16 * h)) % 2 ^ 16
        = fmtB16.add .rn (old.toNat / 2 ^ (16 * h) % 2 ^ 16) (b.toNat / 2 ^ (16 * h) % 2 ^ 16) % 2 ^ 16)) ∧
  (
    ∀ (s s1 : State) (i : Instr) (o : Operands) (kind : RmwKind) (returns : Bool) (k : Work), i.rmwKind = some (o, kind, returns) → s.workLL o = some k →
      k.quiet = true →
      let value (x : DWord) : DWord := if is64 o then x else (x.setWidth 32).setWidth 64
      let acc (l va : Nat) : Acc :=
        { lane := l, off := va % 128, size := rmwSize o, va := va, reg := o.d.toNat,
          b := value (if is64 o then srcB64 k.s k.f k.w o l else (k.b o l).setWidth 64),
          c := if is64 o then k.w.pair l o.c.toNat else (k.c o l).setWidth 64 }
      let outstanding (t : State) (op : LLOp) : Prop :=
        t.warp? k.f.core k.f.slot = some (k.w.addFlag (k.f.flag o.fsel)) ∧ t.llop? k.s.nonce = some op ∧ op.lanes = k.act ∧
        op.flag = k.f.flag o.fsel ∧ op.dests = if is64 o then [o.d.toNat, o.d.toNat + 1] else [o.d.toNat]
      ((∀ l ∈ lanesOf k.act, (srcA64 k.w o l).toNat < 2 ^ 56 ∧ (srcA64 k.w o l).toNat % rmwSize o = 0) →
        ∀ ps, (k.fenced o).resolve k.f.core (k.s.ctxOf k.w) (k.w.supIn k.f) (if returns then .both else .write) ((lanesOf k.act).map fun l => acc l (srcA64 k.w o l).toNat) = .ok (ps, s1) →
        ∃ t, exec i s = .next t ∧
          (if returns then ∃ op, outstanding t op else ∀ core slot, t.warp? core slot = k.s.warp? core slot) ∧
          (Scope.wide o.sc = true →
            (∀ p ∈ ps, ∃ r ∈ t.mem.reqs, r.kind = .rmw kind ∧ r.line = p.line ∧ r.mask = p.mask ∧ r.accs = p.accs ∧ r.core = k.f.core ∧
              r.llop = (if returns then some k.s.nonce else none) ∧ ∃ m ∈ t.agenda, m.what = .rmw r.id)) ∧
          (Scope.wide o.sc = false → ∀ p l, ps = [p] → k.s.fab? k.f.core (k.s.ctxOf k.w) p.vline = some l → l.pline = p.line → l.valid &&& p.mask = p.mask →
            k.s.copyOk (k.s.ctxOf k.w) p.line returns true = true → k.s.windowAt p.line = none → k.s.poisonHit p.line p.mask = false →
            k.s.writeOnce p.line = false →
            let res := rmwAll kind l.data p.accs
            (∃ x, t.fab? k.f.core (k.s.ctxOf k.w) p.vline = some x ∧ ∀ b, b < 128 →
              LineData.byte x.data b = if p.mask.getLsbD b = true then LineData.byte res.1 b else LineData.byte l.data b) ∧
            (returns = true → ∃ op, t.llop? k.s.nonce = some op ∧ op.writes = res.2.flatMap oldWrites ∧ op.pending = 0)) ∧
          k.s.keepsBytes t ∧ k.s.keepsUnits t ∧ k.s.keepsPeers t k.w) ∧
      (∀ l g wg off, lanesOf k.act = [l] → (srcA64 k.w o l).toNat / 2 ^ 32 = 2 ^ 31 → o.sc = .wg ∨ o.sc = .cl → k.s.wg? k.w.wg = some g →
        k.s.stageAddr g ((srcA64 k.w o l).setWidth 32) 0 (rmwSize o) (rmwSize o) (o.sc == .cl) = .ok (wg, off) →
        let old := k.s.stageRead wg off (rmwSize o)
        let new := (kind.eval (BitVec.ofNat 64 old) (acc l off).b (acc l off).c).toNat
        ∃ t, exec i s = .next t ∧
          (if returns then ∃ op, outstanding t op ∧ op.writes = oldWrites (acc l off, old) ∧ op.pending = 0
            else ∀ core slot, t.warp? core slot = k.s.warp? core slot) ∧
          (∀ wg' off', t.stageAt wg' off' =
            if wg' = wg ∧ off ≤ off' ∧ off' < off + rmwSize o then some (byteOf new (off' - off)) else k.s.stageAt wg' off') ∧
          k.s.keepsBytes t ∧ k.s.keepsUnits t))

/-- R262, R264, R266, 07 R182: READ, WRITE and RMW at the home of a DRAM line whose opening is LEASE. A read's words are the home's bytes, under the
bytes that its core has yet to write; it changes no byte at the home. A write changes exactly the bytes of its mask. A read-modify-write of a scope
wider than .wg changes those of its operation, on the line or, at .cl and .die, on its die's copy; at .thr and .wg it takes the line to its core's
fabric cache and is performed there, and stays there unless an ordering operation or an invalidate waits for it. Its old values are returned. A write
carries the timestamp max(clock of its die, rts + 1), and its acknowledgement is on its way.
R221: the read-modify-writes that one instruction makes in a line, in ascending lane order: each sees the ones before it. -/
def Obligations.HomeUnderLease : Prop :=
  (
    ∀ (s : State) (id : Nat) (r : Req), s.reaches id r → isHostPa r.line = false → s.hdmAt r.line = false → s.slotAt r.line ≠ 4 →
      s.tableFor r.line = leaseTable → (s.homeLine r.line).st = 0 → (s.homeLine r.line).backMask = 0 → r.line % 128 = 0 →
      let h := s.homeLine r.line
      let wts := max (s.ptsOf (dieOf r.core)) (h.rts + 1)
      let returned (t : State) (ws : List RegWrite) : Prop := ∀ n op, r.llop = some n → s.llop? n = some op →
        ∃ op', t.llop? n = some op' ∧ op'.pending = op.pending - 1 ∧ op'.writes = op.writes ++ ws
      let wrote (t : State) (d : LineData) : Prop := ∀ a, t.homeByte a =
        if r.line ≤ a ∧ a < r.line + 128 ∧ r.mask.getLsbD (a - r.line) = true then LineData.byte d (a - r.line) else s.homeByte a
      let acked (t : State) : Prop :=
        (t.homeLine r.line).wts = wts ∧ (t.req? id).map Req.performed = some true ∧ ∃ m ∈ t.agenda, m.what = .writeAcknowledgement id
      (r.kind = .read → ∃ t, exec (.read id) s = .next t ∧ (∀ a, t.homeByte a = s.homeByte a) ∧ t.req? id = none ∧
        returned t (r.accs.flatMap (accWrites (mergeLine (s.homeData r.line) r.data r.overlay)))) ∧
      (r.kind = .write → r.mask ≠ 0 → ∃ t, exec (.write id) s = .next t ∧ wrote t r.data ∧ acked t) ∧
      (∀ kind, r.kind = .rmw kind →
        (Scope.wide r.scope = true →
          let base := if r.scope = .cl ∨ r.scope = .die then ((s.dieCopy (dieOf r.core) r.line).map DieLine.data).getD (s.lineNow r.line) else s.lineNow r.line
          let res := rmwAll kind base r.accs
          ∃ t, exec (.rmw id) s = .next t ∧ wrote t res.1 ∧ acked t ∧ returned t (res.2.flatMap oldWrites)) ∧
        (Scope.wide r.scope = false → s.pressed r.core id = false →
          let res := rmwAll kind (mergeLine (s.homeData r.line) r.data r.overlay) r.accs
          ∃ t l, exec (.rmw id) s = .next t ∧ (∀ a, t.homeByte a = s.homeByte a) ∧ t.req? id = none ∧ returned t (res.2.flatMap oldWrites) ∧
            t.fab? r.core r.ctx r.vline = some l ∧
            ∀ b, b < 128 → r.mask.getLsbD b = true → r.later.getLsbD b = false → l.dirty.getLsbD b = true ∧ LineData.byte l.data b = LineData.byte res.1 b))) ∧
  (
    ∀ (k : RmwKind) (d : LineData) (a : Acc) (t : List Acc), a.off + a.size ≤ 128 → a.size ≤ 8 →
      let old := takeBytes d a.off a.size
      let new := (k.eval (BitVec.ofNat 64 old) a.b a.c).toNat % 2 ^ (8 * a.size)
      ∃ d1, rmwAll k d (a :: t) = ((rmwAll k d1 t).1, (a, old) :: (rmwAll k d1 t).2) ∧ takeBytes d1 a.off a.size = new ∧
        ∀ b, b < 128 → b < a.off ∨ a.off + a.size ≤ b → LineData.byte d1 b = LineData.byte d b)

/-- R63, R212, R266: what comes back to a core. A completion writes its registers, lowers its flag by one, and removes the instruction; every other
register, predicate and flag stays. An acknowledgement removes its request and moves no clock back. An error response gives a load's registers the
poison word, and leaves a fault due in the lanes of a store, or of every store that a write-back carries. -/
def Obligations.Responses : Prop :=
  ∀ (s : State) (id : Nat),
    (∀ op w, s.llop? id = some op → op.queue = none → op.pending = 0 → op.errors = [] → s.warp? op.core op.slot = some w → w.wg = op.wg →
      ∃ t w', exec (.longLatencyComplete id) s = .next t ∧ t.llop? id = none ∧ t.warp? op.core op.slot = some w' ∧ w'.preds = w.preds ∧
        (∀ l r, w'.reg l r = (lastWrite op.writes l r).getD (w.reg l r)) ∧
        (∀ fl, smGet w'.flags fl = smGet w.flags fl - (if op.flag = some fl then 1 else 0)) ∧
        (∀ l, l < w.threads.length → { w'.thread l with seen := (w.thread l).seen } = w.thread l) ∧
        s.keepsBytes t ∧ s.keepsUnits t ∧ s.keepsOthers t w) ∧
    (∀ r, s.req? id = some r → r.performed = true → r.error = none →
      ∃ t, exec (.writeAcknowledgement id) s = .next t ∧ t.req? id = none ∧ (∀ j, j ≠ id → t.req? j = s.req? j) ∧
        (∀ d, r.wts < 2 ^ 48 → s.ptsOf d ≤ t.ptsOf d) ∧ t.fe = s.fe ∧ s.keepsBytes t ∧ s.keepsUnits t) ∧
    (∀ r n op, s.req? id = some r → r.kind = .read → r.llop = some n → s.llop? n = some op →
      ∃ t op', exec (.errorResponseDelivery id) s = .next t ∧ t.req? id = none ∧ t.llop? n = some op' ∧ op'.pending = op.pending - 1 ∧
        op'.writes = op.writes ++ r.accs.flatMap accPoison ∧
        op'.errors = op.errors ++ r.accs.map (fun a => { lane := a.lane, kind := r.error.getD 0, va := a.va, page := r.page }) ∧
        t.fe.warps = s.fe.warps ∧ s.keepsBytes t ∧ s.keepsUnits t) ∧
    (∀ r slot w, s.req? id = some r → r.kind = .write → r.llop = none → r.from_ = .writeback → s.warp? r.core slot = some w →
      ∃ t w', exec (.errorResponseDelivery id) s = .next t ∧ t.req? id = none ∧ t.warp? r.core slot = some w' ∧ w'.regs = w.regs ∧
        (∀ l, l < 32 → l < w.threads.length →
          (w'.thread l).deferred = (w.thread l).deferred ++ (r.writers.filter fun x => x.slot == slot && x.lanes.getLsbD l).map fun x =>
            { kind := r.error.getD 0, va := r.vline + ctzV r.mask, iaddr := x.iaddr, page := r.page, seq := x.seq, itag := x.itag, iter := x.iter,
              lmid := x.lmid }) ∧ s.keepsBytes t ∧ s.keepsUnits t) ∧
    (∀ r w, s.req? id = some r → r.kind = .write → r.llop = none → r.from_ = .thread → s.warp? r.core r.slot = some w →
      ∃ t w', exec (.errorResponseDelivery id) s = .next t ∧ t.req? id = none ∧ t.warp? r.core r.slot = some w' ∧ w'.regs = w.regs ∧
        (∀ l, l < 32 → l < w.threads.length →
          (w'.thread l).deferred = (w.thread l).deferred ++ (r.accs.filter fun a => a.lane == l).map fun a =>
            { kind := r.error.getD 0, va := a.va, iaddr := r.iaddr, page := r.page, lmid := r.lmid }) ∧ s.keepsBytes t ∧ s.keepsUnits t) ∧
    (∀ r, s.req? id = some r → r.performed = false → s.tableFor r.line = woTable → (s.homeLine r.line).st = 0 → s.homeLost r.line = false →
      s.writeOnce r.line = true → r.from_ ≠ .agent → (∀ pa, s.whoTenant r.who pa = none) →
      ∃ t, exec (.writeAgain id) s = .next t ∧ (t.req? id).map Req.error = some (some 0x0E41) ∧ (∀ a, t.homeByte a = s.homeByte a) ∧
        ∃ m ∈ t.agenda, m.what = .errorResponseDelivery id)

/-- R227, R212, 07 R174 to R180: a fence waits for the outstanding reads of its lanes. With nothing outstanding it completes: its die's clock moves past
what has been performed (log entry 34, DESIGN CHOICE), and one with acquire at a scope wider than .wg leaves no clean byte of its context in its core's
fabric cache. It changes no register, predicate, flag or byte.
R216: prefetch completes and never faults. A lane whose address translates asks for its line, which fills the fabric cache for .l1 alone, unless the
core holds the whole line for .l1, or the line is in a versioned window (10 R273). No register, predicate, flag or byte changes.
R228: lock.line. Its lanes lock in ascending order, and each lane's predicate is its own result; at the first line that is not resident the bundle
stands at the instruction and the line is asked for, and a line that its home serves uncached is not locked. A lane's lock holds afterwards if its
workgroup held one already, or fewer than 11 lines of the set are locked and the context is below its quota.
R230: unlock.line completes, and takes its workgroup's locks from the lines that it names; nothing else changes.
R231: cflush completes. For .thr and .wg it does nothing; at a wider scope the dirty bytes of the lines that it names are on their way home, at .dev and
.sys to the home slice, and .inv drops a line that nobody locks. At .dev and .sys the die's copy follows: dirty, its bytes go home; clean, .inv drops
it. No register, predicate, flag or byte at a home changes. -/
def Obligations.OrderingAndCacheForms : Prop :=
  (
    ∀ (s : State) (o : Operands) (k : Work), s.work o = some k → k.f.grid = false →
      let ctx := k.s.ctxOf k.w
      let die := dieOf k.f.core
      let wideAcquire : Prop := (o.mod = 1#2 ∨ o.mod = 3#2) ∧ Scope.wide o.sc = true
      let seen := (lanesOf k.act).foldl (fun m l => max m (k.w.thread l).seen) 0
      (k.s.readsOut k.f ≠ [] → exec (.fence o) s = .next (k.s.retry k.f k.w (.llRegs (k.s.readsOut k.f)))) ∧
      (k.quiet = true →
        (¬ wideAcquire → exec (.fence o) s = .next (k.s.catchUp die)) ∧
        (wideAcquire → ∃ t, exec (.fence o) s = .next t ∧ t = ((k.s.catchUp die).acquireFab k.f.core ctx).setPts die seen ∧
          ∀ l ∈ t.mem.fab, l.core = k.f.core → l.ctx = ctx → l.valid = 0 ∧ l.locks ≠ [])) ∧
      (let t := k.s.catchUp die
       t.fe = k.s.fe ∧ k.s.keepsBytes t ∧ k.s.keepsUnits t ∧ t.mem.fab = k.s.mem.fab ∧ t.mem.reqs = k.s.mem.reqs ∧
       (∀ d, d ≠ die → t.ptsOf d = k.s.ptsOf d) ∧ (k.s.lineClock < 2 ^ 48 → k.s.lineClock ≤ t.ptsOf die))) ∧
  (
    ∀ (s : State) (lv : CacheLevel) (o : Operands) (k : Work), s.work o = some k →
      let ctx := k.s.ctxOf k.w
      ∃ t, exec (.prefetch lv o) s = .next t ∧ (lv = .llc → t.fe = k.s.fe) ∧
        { t.fe with wgs := k.s.fe.wgs } = k.s.fe ∧ k.s.keepsWgs t ∧ k.s.keepsBytes t ∧ k.s.keepsUnits t ∧ t.mem.fab = k.s.mem.fab ∧
        (∀ r ∈ t.mem.reqs, r ∈ k.s.mem.reqs ∨ (r.kind = .read ∧ r.llop = none ∧ r.core = k.f.core ∧ r.fill = (lv == .l1))) ∧
        ∀ l, lanesOf k.act = [l] →
          (2 ^ 56 ≤ k.va o l ∨ (∃ e, k.s.translate k.f.core ctx (k.w.supIn k.f) .read (k.va o l) = .error e) → t = k.s) ∧
          (∀ x, k.va o l < 2 ^ 56 → k.s.translate k.f.core ctx (k.w.supIn k.f) .read (k.va o l) = .ok x →
            let whole : Prop := ∃ y, k.s.fab? k.f.core ctx (lineOf (k.va o l)) = some y ∧ y.valid = BitVec.allOnes 128
            (k.s.windowAt (lineOf x.pa) ≠ none ∨ (lv = .l1 ∧ whole) → t.mem = k.s.mem) ∧
            (k.s.windowAt (lineOf x.pa) = none → lv = .llc ∨ ¬ whole →
              ∃ r ∈ t.mem.reqs, r.kind = .read ∧ r.id = k.s.nonce ∧ r.line = lineOf x.pa ∧ r.vline = lineOf (k.va o l) ∧
                ∃ m ∈ t.agenda, m.what = .read r.id))) ∧
  (
    (∀ (s s1 : State) (o : Operands) (k : Work) (ps : List Piece), s.work o = some k → (∀ l ∈ lanesOf k.act, (srcA64 k.w o l).toNat < 2 ^ 56) →
      let ctx := k.s.ctxOf k.w
      let va (l : Nat) : Nat := (srcA64 k.w o l).toNat
      k.s.resolve k.f.core ctx (k.w.supIn k.f) .read ((lanesOf k.act).map fun l => { lane := l, off := va l % 128, size := 1, va := va l }) = .ok (ps, s1) →
      let r := s1.lockEach k.f k.w ps ((lanesOf k.act).map fun l => (l, va l))
      let there (p : Piece) : Prop := s1.uncached p.line = true ∨ ∃ x, k.s.fab? k.f.core ctx p.vline = some x ∧ x.pline = p.line
      ((∀ p ∈ ps, there p) → r.2.2 = none) ∧
      (r.2.2 = none → exec (.lockLine o) s =
        .next (r.1.setWarp ((r.2.1.setPred k.act o.d.toNat fun l => (r.2.1.thread l).laneDone == some 1).mapThreads k.act fun _ t => { t with laneDone := none }))) ∧
      (r.1.fe = k.s.fe ∧ k.s.keepsBytes r.1 ∧ k.s.keepsUnits r.1 ∧ r.1.mem.reqs = k.s.mem.reqs) ∧
      (k.f.grid = false → ∀ p, r.2.2 = some p →
        ∃ t w', exec (.lockLine o) s = .next t ∧ t.warp? k.f.core k.f.slot = some w' ∧ w'.regs = k.w.regs ∧ w'.preds = k.w.preds ∧
          (∀ l, l < k.w.threads.length → l < 32 → k.f.lanes.getLsbD l = true →
            (w'.thread l).pc = k.f.pc ∧ (w'.thread l).wait = .op r.1.nonce ∧ (w'.thread l).laneDone = (r.2.1.thread l).laneDone) ∧
          (∃ q ∈ t.mem.reqs, q.kind = .read ∧ q.llop = some r.1.nonce ∧ q.line = p.line ∧ q.fill = true ∧ ∃ m ∈ t.agenda, m.what = .read q.id) ∧
          k.s.keepsBytes t ∧ k.s.keepsUnits t)) ∧
    (∀ (s : State) (f : Focus) (w : Warp) (ps : List Piece) (l va : Nat) (rest : List (Nat × Nat)) (p : Piece),
      let note (b : Bool) : Warp := w.mapThreads (maskOf [l]) fun _ x => { x with laneDone := some (if b then 1 else 0) }
      let resident : Prop := ∃ x, s.fab? f.core (s.ctxOf w) p.vline = some x ∧ x.pline = p.line
      let one := s.lockOne f.core (s.ctxOf w) w.wg (lineOf va)
      s.lockEach f w ps [] = (s, w, none) ∧
      ((w.thread l).laneDone ≠ none → s.lockEach f w ps ((l, va) :: rest) = s.lockEach f w ps rest) ∧
      ((w.thread l).laneDone = none → (ps.find? fun q => q.vline == lineOf va) = some p →
        (s.uncached p.line = true → s.lockEach f w ps ((l, va) :: rest) = s.lockEach f (note false) ps rest) ∧
        (s.uncached p.line = false → ¬ resident → s.lockEach f w ps ((l, va) :: rest) = (s, w, some p)) ∧
        (s.uncached p.line = false → resident → s.lockEach f w ps ((l, va) :: rest) = one.2.lockEach f (note one.1) ps rest))) ∧
    (∀ (s : State) (core ctx wg vline : Nat) (x : FabLine), s.fab? core ctx vline = some x →
      let held : Prop := ∃ y ∈ x.locks, y.1 = wg
      let full : Prop := 11 ≤ ((s.sameSet core vline).filter fun y => y.locks != []).length ∨
        ((s.ctx? ctx).map Ctx.lockq).getD 0 ≤ s.lockedOf core ctx
      let r := s.lockOne core ctx wg vline
      (r.1 = true ↔ held ∨ ¬ full) ∧
      ∃ x', r.2.fab? core ctx vline = some x' ∧ { x' with locks := x.locks } = x ∧ (r.1 = true → ∃ y ∈ x'.locks, y.1 = wg) ∧ (r.1 = false → x' = x))) ∧
  (
    ∀ (s : State) (o : Operands) (k : Work), s.work o = some k →
      let ctx := k.s.ctxOf k.w
      let line (l : Nat) : Nat := lineOf (srcA64 k.w o l).toNat
      ∃ t, exec (.unlockLine o) s = .next t ∧ t = { k.s with mem := { k.s.mem with fab := t.mem.fab } } ∧
        (∀ l ∈ lanesOf k.act, t.fab? k.f.core ctx (line l) =
          (k.s.fab? k.f.core ctx (line l)).map fun (x : FabLine) => { x with locks := x.locks.filter (·.1 != k.w.wg) }) ∧
        (∀ core c v, (∀ l ∈ lanesOf k.act, (core, c, v) ≠ (k.f.core, ctx, line l)) → t.fab? core c v = k.s.fab? core c v)) ∧
  (
    ∀ (s s1 : State) (op : FlushOp) (o : Operands) (k : Work) (ps : List Piece), s.work o = some k →
      let ctx := k.s.ctxOf k.w
      let far : Prop := o.sc = .dev ∨ o.sc = .sys
      (∀ l ∈ lanesOf k.act, (srcA64 k.w o l).toNat < 2 ^ 56) →
      k.s.resolve k.f.core ctx (k.w.supIn k.f) .read
        ((lanesOf k.act).map fun l => { lane := l, off := (srcA64 k.w o l).toNat % 128, size := 1, va := (srcA64 k.w o l).toNat }) = .ok (ps, s1) →
      (Scope.wide o.sc = false → exec (.cflush op o) s = .next s1) ∧
      ∃ t, exec (.cflush op o) s = .next t ∧ t.fe = k.s.fe ∧ k.s.keepsBytes t ∧ k.s.keepsUnits t ∧
        (Scope.wide o.sc = true → ∀ p, ps = [p] →
          (∀ x, k.s.fab? k.f.core ctx p.vline = some x →
            t.fab? k.f.core ctx p.vline =
              (if op = .inv ∧ x.locks = [] then none else some { x with dirty := 0, writers := if x.dirty = 0 then x.writers else [] }) ∧
            (x.dirty ≠ 0 → ∃ r ∈ t.mem.reqs, r.kind = .write ∧ r.from_ = .writeback ∧ r.line = x.pline ∧ r.mask = x.dirty ∧ r.data = x.data ∧
              (far → r.flush = some (op == .inv)) ∧ (¬ far → r.flush = none) ∧ ∃ m ∈ t.agenda, m.what = .write r.id)) ∧
          (∀ d, far → (∀ x, k.s.fab? k.f.core ctx p.vline = some x → x.dirty = 0) → k.s.dieLine? (dieOf k.f.core) p.line = some d →
            (d.dirty ≠ 0 → ∃ r ∈ t.mem.reqs, r.kind = .write ∧ r.line = p.line ∧ r.core = k.f.core ∧ r.mask = 0 ∧ r.flush = some (op == .inv) ∧
              ∃ m ∈ t.agenda, m.what = .write r.id) ∧
            (d.dirty = 0 → op = .inv → ∃ m ∈ t.agenda, m.what = .evictClean (dieOf k.f.core) p.line))))

/-- R232: waddr at its first issue, where in every lane the word meets the condition or the wait is 0, writes in each lane whether the word met it;
issued again once every lane is resolved, it writes each lane's result, true for a match. Where a lane is not resolved at the first issue, the bundle
stands at the instruction with its deadlines. WADDR_DEADLINE tests the word, and resolves its lane. No register and no byte changes. -/
def Obligations.WaitOnAddress : Prop :=
  (∀ (s : State) (op : WaddrOp) (o : Operands) (k : Work) (g : Wg) (place : Nat → Nat × Nat), s.work o = some k →
    k.s.wg? k.w.wg = some g → (∀ l ∈ lanesOf k.act, k.s.stageAddr g (k.a o l) 0 4 4 false = .ok (place l)) →
    let word (l : Nat) : Word := BitVec.ofNat 32 (k.s.stageRead (place l).1 (place l).2 4)
    let meets (l : Nat) : Prop := match op with
      | .eq => word l = k.b o l
      | .ne => word l ≠ k.b o l
    let first : Prop := ∀ l ∈ lanesOf k.act, (k.w.thread l).waddrDeadline = none
    let writes (v : Nat → Bool) : Prop :=
      ∃ t w', exec (.waddr op o) s = .next t ∧ t.warp? k.f.core k.f.slot = some w' ∧ w'.regs = k.w.regs ∧ w'.flags = k.w.flags ∧
        w'.preds = (k.w.setPred k.act o.d.toNat v).preds ∧
        (∀ l, l < k.w.threads.length → w'.thread l =
          if k.act.getLsbD l = true then { k.w.thread l with waddrDeadline := none, waddrDone := none } else k.w.thread l) ∧
        k.s.keepsBytes t ∧ k.s.keepsUnits t ∧ k.s.keepsOthers t k.w
    (∀ v : Nat → Bool, first → (∀ l ∈ lanesOf k.act, (meets l ∧ v l = true) ∨ (¬ meets l ∧ k.c o l = 0 ∧ v l = false)) → writes v) ∧
    (∀ v : Nat → Bool,
      (∀ l ∈ lanesOf k.act, (k.w.thread l).waddrDeadline ≠ none ∧ ((k.w.thread l).waddrDone = some (v l) ∨
        ((k.w.thread l).waddrDone = none ∧ v l = true ∧ k.s.fe.matched.contains (k.f.core, k.f.slot, l) = true))) → writes v) ∧
    (∀ l, k.f.grid = false → first → l ∈ lanesOf k.act → l < k.w.threads.length → ¬ meets l → k.c o l ≠ 0 →
      ∃ t w', exec (.waddr op o) s = .next t ∧ t.warp? k.f.core k.f.slot = some w' ∧ w'.regs = k.w.regs ∧ w'.preds = k.w.preds ∧
        (w'.thread l).wait = .word k.act (place l).2 (op == .ne) (k.b o l) ∧ (w'.thread l).pc = k.f.pc ∧ (w'.thread l).waddrDone = none ∧
        (w'.thread l).waddrDeadline =
          some (if k.c o l = 0xFFFFFFFF#32 then none else some (k.s.cal (dieOf k.f.core) + (k.c o l).toNat)) ∧
        (k.c o l ≠ 0xFFFFFFFF#32 → ∃ m ∈ t.agenda, m.what = .waddrDeadline k.f.core k.f.slot l ∧ m.at_ = k.s.now + 2 * (k.c o l).toNat) ∧
        k.s.keepsBytes t ∧ k.s.keepsUnits t)) ∧
  (∀ (s : State) (core slot l : Nat),
    let runs (t : State) : Prop := exec (.waddrDeadline core slot l) s = .next t
    (s.warp? core slot = none → runs s) ∧
    (∀ w, s.warp? core slot = some w →
      ((∀ d, (w.thread l).waddrDeadline = some (some d) → s.cal (dieOf core) < d) ∨ (w.thread l).waddrDone ≠ none → runs s) ∧
      (∀ d m off ne b, (w.thread l).waddrDeadline = some (some d) → (w.thread l).wait = .word m off ne b → d ≤ s.cal (dieOf core) →
        (w.thread l).waddrDone = none → s.fe.matched.contains (core, slot, l) = false →
        let word : Word := BitVec.ofNat 32 (s.stageRead w.wg off 4)
        let hit : Bool := if ne then decide (word ≠ b) else decide (word = b)
        runs (s.setWarp (w.mapThreads (maskOf [l]) fun _ x => { x with waddrDone := some hit })))))

/-- R222, R224 to R226: the versioned forms issue: each lane's request goes to the home of its word, the flag rises, and the instruction stands
outstanding with its registers; the threads of an ldv wait for the answer. No byte changes.
R197 to R200, R223 to R226: a versioned request at its home. In a window that is open, `old` are the versions that its word holds, newest first. In one
that is closed, or where there is none, it is answered CLOSED or NOWIN. -/
def Obligations.VersionedForms : Prop :=
  (
    ∀ (s s1 : State) (o : Operands) (k : Work) (ps : List Piece), s.workLL o = some k → k.quiet = true →
      let issued (i : Instr) (size status : Nat) (dests : List Nat) (need : Need) (kind : Word → ReqKind) (value : Nat → DWord) (holds : Bool) : Prop :=
        let acc (l : Nat) : Acc :=
          { lane := l, off := (srcA64 k.w o l).toNat % 128, size := size, va := (srcA64 k.w o l).toNat, reg := o.d.toNat, b := value l }
        (∀ l ∈ lanesOf k.act, (srcA64 k.w o l).toNat < 2 ^ 56 ∧ (srcA64 k.w o l).toNat % size = 0) →
        k.s.resolve k.f.core (k.s.ctxOf k.w) (k.w.supIn k.f) need ((lanesOf k.act).map acc) = .ok (ps, s1) →
        ∃ t op w', exec i s = .next t ∧ t.llop? k.s.nonce = some op ∧ op.lanes = k.act ∧ op.dests = dests ++ [status] ∧
          op.flag = k.f.flag o.fsel ∧ op.writes = [] ∧
          (∀ l ∈ lanesOf k.act, ∃ r ∈ t.mem.reqs, r.kind = kind (BitVec.ofNat 32 (k.n o l)) ∧ r.llop = some k.s.nonce ∧ r.accs = [acc l] ∧
            r.status = status ∧ ∃ m ∈ t.agenda, m.what = .versionedAccessAtHome r.id) ∧
          t.warp? k.f.core k.f.slot = some w' ∧ w'.regs = k.w.regs ∧ w'.preds = k.w.preds ∧
          w'.flags = (k.w.addFlag (k.f.flag o.fsel)).flags ∧
          (∀ l, l < 32 → l < k.w.threads.length → k.act.getLsbD l = true →
            if holds then (w'.thread l).wait = .op k.s.nonce ∧ (w'.thread l).pc = k.f.pc + 8 else w'.thread l = k.w.thread l) ∧
          k.s.keepsBytes t ∧ k.s.keepsUnits t
      issued (.ldv o) (elemSize o) o.c.toNat (groupDests o 1) .read ReqKind.ldv (fun _ => 0) true ∧
      issued (.stv o) (elemSize o) o.c.toNat [] .write ReqKind.stv (fun l => groupSource k.w o l 0 (elemSize o)) false ∧
      issued (.reclaim o) 8 o.d.toNat [o.d.toNat] .write ReqKind.reclaim (fun _ => 0) false) ∧
  (
    (∀ (s : State) (id n0 : Nat) (r : Req) (a : Acc) (w : VWindow) (op : LLOp), s.req? id = some r → id < s.nonce → r.performed = false →
      s.mustWait r = false → s.wakingFor r = none → s.versionedError r.who r = none → r.accs = [a] →
      s.windowAt r.line = some w → w.closed = false → r.llop = some n0 → s.llop? n0 = some op →
      let addr := (r.line + a.off) - (r.line + a.off) % 8
      let old := (w.word addr).versions
      let latest := (old.headD (0, 0)).1
      let answers (t : State) (ws : List RegWrite) : Prop :=
        exec (.versionedAccessAtHome id) s = .next t ∧ t.req? id = none ∧
          (∃ op', t.llop? n0 = some op' ∧ op'.writes = op.writes ++ ws ∧ op'.pending = op.pending - 1) ∧ (∀ b, t.homeByte b = s.homeByte b)
      let status (c : Word) : List RegWrite := [{ lane := a.lane, reg := r.status, val := c }]
      let newerThan (x y : Word) : Prop := 0 < (x - y).toNat ∧ (x - y).toNat < 2 ^ 31
      (∀ n, r.kind = .ldv n →
        (∀ v, (old.find? fun x => x.1 == n) = some v → ∃ t, answers t (accWrites (placeBytes (a.off - a.off % 8) v.2.toNat) a ++ status 0)) ∧
        ((old.find? fun x => x.1 == n) = none → newerThan n latest →
          ∃ t, exec (.versionedAccessAtHome id) s = .next t ∧ t.windowAt r.line = some { w with waiting := w.waiting ++ [id] } ∧ t.req? id = some r) ∧
        ((old.find? fun x => x.1 == n) = none → ¬ newerThan n latest → ∃ t, answers t (status 0x0303) ∧ t.windowAt r.line = some w)) ∧
      (∀ n, r.kind = .stv n →
        (n ≠ latest + 1 → ∃ t, answers t (status 0x0301) ∧ t.windowAt r.line = some w) ∧
        (n = latest + 1 → 4 ≤ old.length → ∃ t, answers t (status 0x0302) ∧ t.windowAt r.line = some w) ∧
        (n = latest + 1 → old.length < 4 → ∃ t w' v, answers t (status 0) ∧ t.windowAt r.line = some w' ∧ w'.waiting = [] ∧ w'.floor = w.floor ∧
          (w'.word addr).versions = (n, v) :: old.filter (fun y => !newer w.floor y.1) ∧ (r.wide = true → v = a.b) ∧
          (∀ b, b ≠ addr → w'.word b = w.word b) ∧ ∀ j ∈ w.waiting, ∃ m ∈ t.agenda, m.what = .versionedAccessAtHome j)) ∧
      (∀ n, r.kind = .reclaim n → ∃ t w', answers t (status 0) ∧ t.windowAt r.line = some w' ∧
        (newerThan n w.floor → w'.floor = n) ∧ (¬ newerThan n w.floor → w' = w))) ∧
    (∀ (s : State) (id n0 : Nat) (r : Req) (a : Acc) (op : LLOp), s.req? id = some r → id < s.nonce → r.performed = false →
      s.mustWait r = false → s.wakingFor r = none → s.versionedError r.who r = none → r.accs = [a] → r.llop = some n0 →
      s.llop? n0 = some op →
      let answers (c : Word) : Prop := ∃ t op', exec (.versionedAccessAtHome id) s = .next t ∧ t.req? id = none ∧ t.llop? n0 = some op' ∧
        op'.writes = op.writes ++ [{ lane := a.lane, reg := r.status, val := c }] ∧ op'.pending = op.pending - 1 ∧ t.mem.windows = s.mem.windows ∧
        t.mem.bytes = s.mem.bytes
      (s.windowAt r.line = none → answers 0x0305) ∧ (∀ w, s.windowAt r.line = some w → w.closed = true → answers 0x0304)))

/-- R262, R264 to R266, R276: EVICT_CLEAN and EVICT_DIRTY under the built-in openings, with no range being changed. A dirty copy that a die gives up is
written at its home with what was on its way there, and no other byte; a clean copy goes without a change of any byte; the die holds the line no longer.
A copy that is not there, or of the other kind, is left alone.
R264, R269, R281, R282: ACK_IN and DATA_IN. While an acknowledgement is awaited they do nothing. Under INV, the last acknowledgement of invalidations,
or awaited data, writes what has come with it at the home; then a write that waited longest is performed over it and acknowledged; the line is in I, and
everything else that waited is presented again in its order.
R266, R269: the timers of a line and of a die. TIMEOUT acts only where the line is still in the state that it was set in, and then raises its event; the
end of a lease changes no byte and no copy; a die's logical clock advances by one for every 64 ns.
R264, R277: INVALIDATION_RECEIVED. A die from which no acknowledgement is awaited ignores it, and one behind a waking link takes it later. Otherwise the
die drops its copy, whose dirty bytes go home with its acknowledgement, or takes a pushed write into it; after the last acknowledgement ACK_IN or
DATA_IN is on its way. No byte at the home changes. -/
def Obligations.OpeningEvents : Prop :=
  (
    ∀ (s : State) (die line : Nat), s.mem.ranging = [] →
      let h := s.homeLine line
      let t := s.tableFor line
      (s.dieLine? die line = none → exec (.evictDirty die line) s = .next s ∧ exec (.evictClean die line) s = .next s) ∧
      ∀ d, s.dieLine? die line = some d →
        (d.dirty = 0 → exec (.evictDirty die line) s = .next s) ∧ (d.dirty ≠ 0 → exec (.evictClean die line) s = .next s) ∧
        (d.dirty ≠ 0 → isHostPa line = true → exec (.evictDirty die line) s = .next ((s.dropDieLine die line).putLine line d.dirty d.data)) ∧
        (d.dirty = 0 → isHostPa line = true → exec (.evictClean die line) s = .next (s.dropDieLine die line)) ∧
        (d.dirty ≠ 0 → isHostPa line = false →
          (t = leaseTable ∧ h.st = 0) ∨ (t = invTable ∧ h.st < 7) ∨ (t = updTable ∧ h.st < 4) ∨ (t = migTable ∧ h.st < 3) →
          ∃ u, exec (.evictDirty die line) s = .next u ∧ u.dieLine? die line = none ∧ (u.homeLine line).holders = h.holders.filter (· != die) ∧
            ∀ a, u.homeByte a =
              if line ≤ a ∧ a < line + 128 ∧ d.dirty.getLsbD (a - line) = true then LineData.byte d.data (a - line)
              else if line ≤ a ∧ a < line + 128 ∧ h.backMask.getLsbD (a - line) = true then LineData.byte h.back (a - line) else s.homeByte a) ∧
        (d.dirty = 0 → isHostPa line = false → t = leaseTable ∨ t = invTable ∨ t = updTable ∨ t = migTable ∨ t = woTable →
          ∃ u, exec (.evictClean die line) s = .next u ∧ u.dieLine? die line = none ∧ (u.homeLine line).holders = h.holders.filter (· != die) ∧
            ∀ a, u.homeByte a = s.homeByte a)) ∧
  (
    ∀ (s : State) (line : Nat), s.mem.ranging = [] →
      let h := s.homeLine line
      let back (a : Nat) : Byte := if line ≤ a ∧ a < line + 128 ∧ h.backMask.getLsbD (a - line) = true then LineData.byte h.back (a - line) else s.homeByte a
      let answers (i : Instr) : Prop :=
        (h.waiters = [] → ∃ t, exec i s = .next t ∧ (t.homeLine line).st = 0 ∧ (t.homeLine line).waiters = [] ∧ ∀ a, t.homeByte a = back a) ∧
        (∀ n rest r, h.waiters = Waiter.req n :: rest → s.req? n = some r → r.kind = .write → r.performed = false → r.from_ ≠ .agent → ¬ Waiter.req n ∈ rest →
          ∃ t, exec i s = .next t ∧ (t.homeLine line).st = 0 ∧
            (∀ a, t.homeByte a =
              if line ≤ a ∧ a < line + 128 ∧ r.mask.getLsbD (a - line) = true then LineData.byte r.data (a - line) else back a) ∧
            (t.req? n).map Req.performed = some true ∧ (∃ m ∈ t.agenda, m.what = .writeAcknowledgement n) ∧
            ∀ x, Waiter.req x ∈ rest → ∀ q, s.req? x = some q → q.performed = false → ∃ m ∈ t.agenda, m.what = q.again ∧ m.at_ = s.now)
      (h.acks ≠ [] → exec (.ackIn line) s = .next s ∧ exec (.dataIn line) s = .next s) ∧
      (h.acks = [] → h.bi = [] → s.tableFor line = invTable → (h.st = 4 ∨ h.st = 6 → answers (.ackIn line)) ∧ (h.st = 6 → answers (.dataIn line)))) ∧
  (
    ∀ (s : State) (die line : Nat),
      let h := s.homeLine line
      let due (x : Nat × Nat) : Bool := decide (x.1 = h.st ∧ x.2 ≤ s.now)
      ((∀ x ∈ h.tmo, due x = false) → exec (.timeout line) s = .next s) ∧
      ((∃ x ∈ h.tmo, due x = true) →
        exec (.timeout line) s = .next ((s.setHomeLine { h with tmo := h.tmo.filter fun x => !due x }).lineEvent line 7 .none)) ∧
      ((∃ x ∈ h.tmo, due x = true) → s.tableFor line = leaseTable ∨ s.tableFor line = invTable ∨ s.tableFor line = updTable ∨
          s.tableFor line = migTable ∨ s.tableFor line = woTable →
        ∃ t, exec (.timeout line) s = .next t ∧ t.mem.bytes = s.mem.bytes ∧ t.mem.die = s.mem.die ∧ t.fe = s.fe ∧ ∀ x ∈ (t.homeLine line).tmo, x ∈ h.tmo) ∧
      (s.tableFor line = leaseTable → h.st = 0 → ∃ t, exec (.leaseEnd line) s = .next t ∧ (t.homeLine line).st = 0 ∧ t.mem.bytes = s.mem.bytes ∧
        t.mem.die = s.mem.die ∧ t.fe = s.fe) ∧
      (s.ptsOf die + 1 < 2 ^ 48 → ∃ t, exec (.ptsAdvance die) s = .next t ∧ t.ptsOf die = s.ptsOf die + 1 ∧ (∀ d, d ≠ die → t.ptsOf d = s.ptsOf d) ∧
        (∃ m ∈ t.agenda, m.what = .ptsAdvance die ∧ m.at_ = s.now + 128) ∧ t.fe = s.fe ∧ s.keepsBytes t ∧ s.keepsUnits t)) ∧
  (
    ∀ (s : State) (die line : Nat),
      let h := s.homeLine line
      (h.acks.contains die = false → exec (.invalidationReceived die line) s = .next s) ∧
      (h.acks.contains die = true → s.wakingOn (pathTo die (s.homeOf line)) ≠ none →
        ∃ t, exec (.invalidationReceived die line) s = .next t ∧ t.mem = s.mem ∧ t.fe = s.fe ∧ ∃ m ∈ t.agenda, m.what = .invalidationReceived die line) ∧
      (h.acks.contains die = true → s.wakingOn (pathTo die (s.homeOf line)) = none →
        ∃ t, exec (.invalidationReceived die line) s = .next t ∧ t.mem.bytes = s.mem.bytes ∧ t.fe = s.fe ∧
          (t.homeLine line).acks = h.acks.filter (· != die) ∧
          (h.pushing = false → t.dieLine? die line = none ∧ ∀ d b, s.dieLine? die line = some d → b < 128 → d.dirty.getLsbD b = true →
            (t.homeLine line).backMask.getLsbD b = true ∧ LineData.byte (t.homeLine line).back b = LineData.byte d.data b) ∧
          (h.pushing = true → t.dieLine? die line = (s.dieLine? die line).map fun d => { d with data := mergeLine d.data h.push h.pushMask }) ∧
          (h.acks.filter (· != die) = [] → ∃ m ∈ t.agenda, m.what = if h.awaitData.isSome then .dataIn line else .ackIn line)))

/-- R20, R275, R281, R427: what the host's reads and writes do. Outside host-managed ranges a read is answered as poisoned and a write is dropped.
Inside one whose opening is LEASE, with its home and the way to it in order, a read returns its half of the line and leaves the mark that it asked for;
a write puts exactly its 64 bytes at the home and clears the mark of its half; a write of a half whose back-invalidation is pending brings its data
home. A lost home answers with an error, and a message whose way has a waking link waits for it.
R275, R276, R281: the host's answers and snoops. A response to a pending back-invalidation leaves the mark that it names, and nothing is pending for its
half any more; one that answers nothing is ignored. A snoop is answered with its half of the copy of CD0, whose dirty bytes come home and which goes if
it is asked to. -/
def Obligations.HostMessages : Prop :=
  (
    ∀ (s : State) (pa : Nat) (mark : HostMark) (data : BitVec 512),
      let line := lineOf pa
      let h := s.homeLine line
      let half := pa % 128 / 64
      let hostWrote (t : State) : Prop := ∀ a, t.homeByte a =
        if pa - pa % 64 ≤ a ∧ a < pa - pa % 64 + 64 then data.extractLsb' (8 * (a - (pa - pa % 64))) 8 else s.homeByte a
      let reached : Prop := s.homeLost line = false ∧ s.wakingTo 0 line = none ∧ s.rangingAt line = false ∧
        (s.mem.home.filter fun x => s.homeOf x.line == s.homeOf line && x.line != line).length < Config.sliceLines
      (s.hdmAt pa = false →
        (∃ t, exec (.m2sMemRd pa mark) s = .next t ∧ t.mem.s2m = ("MemData poisoned", pa, 0) :: s.mem.s2m ∧ { t with mem := s.mem } = s ∧
          s.keepsBytes t) ∧
        ∃ t, exec (.m2sMemWr pa data) s = .next t ∧ t.mem.s2m = ("Cmp", pa, 0) :: s.mem.s2m ∧ { t with mem := s.mem } = s ∧ s.keepsBytes t) ∧
      (s.hdmAt pa = true → s.tableFor line = leaseTable → s.slotAt line ≠ 4 → h.st = 0 → h.backMask = 0 →
        (h.bi = [] → reached →
          (∃ t, exec (.m2sMemRd pa mark) s = .next t ∧
            t.mem.s2m = ("MemData", pa, (s.homeData line).extractLsb' (512 * half) 512) :: s.mem.s2m ∧
            (t.homeLine line).mark half = (if mark = .none then h.mark half else mark) ∧ (∀ a, t.homeByte a = s.homeByte a) ∧ t.fe = s.fe) ∧
          ∃ t, exec (.m2sMemWr pa data) s = .next t ∧ t.mem.s2m = ("Cmp", pa, 0) :: s.mem.s2m ∧ (t.homeLine line).mark half = .none ∧ hostWrote t ∧
            t.fe = s.fe) ∧
        (h.bi.contains half = true → s.homeLost line = false → s.wakingTo 0 line = none →
          ∃ t, exec (.m2sMemWr pa data) s = .next t ∧ t.mem.s2m = ("Cmp", pa, 0) :: s.mem.s2m ∧ hostWrote t ∧ t.fe = s.fe)) ∧
      (s.hdmAt pa = true → s.homeLost line = true →
        ∀ i ∈ ([.m2sMemRd pa mark, .m2sMemWr pa data] : List Instr), ∃ t, exec i s = .next t ∧ t.mem.s2m = ("Error", pa, 0) :: s.mem.s2m ∧
          { t with mem := s.mem } = s ∧ s.keepsBytes t) ∧
      (s.hdmAt pa = true → s.homeLost line = false → s.wakingTo 0 line ≠ none →
        ∀ i ∈ ([.m2sMemRd pa mark, .m2sMemWr pa data] : List Instr), ∃ t x, exec i s = .next t ∧ t.mem = s.mem ∧ t.fe = s.fe ∧ x ∈ t.links.waits ∧
          x.line = some line ∧ s.wakingTo 0 line = some x.via)) ∧
  (
    ∀ (s : State) (pa : Nat) (flag : Bool), s.mem.ranging = [] →
      let line := lineOf pa
      let h := s.homeLine line
      let half := pa % 128 / 64
      (h.bi.contains half = false → exec (.m2sBiRsp pa flag) s = .next s) ∧
      (h.bi.contains half = true → s.homeLost line = false → s.wakingTo 0 line = none → (h.bi.filter (· != half)) ≠ [] ∨ (s.tableFor line = leaseTable ∧ h.st = 0) →
        ∃ t, exec (.m2sBiRsp pa flag) s = .next t ∧ (t.homeLine line).mark half = (if flag = true then .s else .none) ∧
          (t.homeLine line).bi = h.bi.filter (· != half) ∧ s.keepsBytes t ∧ t.fe = s.fe) ∧
      (s.dieLine? 0 line = none →
        ∃ t, exec (.hostSnoop pa flag) s = .next t ∧ t.mem.s2m = ("RspMiss", pa, 0) :: s.mem.s2m ∧ { t with mem := s.mem } = s ∧ s.keepsBytes t) ∧
      (∀ d, s.dieLine? 0 line = some d → ∃ t, exec (.hostSnoop pa flag) s = .next t ∧
        t.mem.s2m = ((if d.dirty = 0 then "RspHit" else "RspFwd"), pa, d.data.extractLsb' (512 * half) 512) :: s.mem.s2m ∧
        (∀ a, t.homeByte a =
          if line ≤ a ∧ a < line + 128 ∧ d.dirty.getLsbD (a - line) = true then LineData.byte d.data (a - line) else s.homeByte a) ∧
        t.dieLine? 0 line = (if flag = true then none else some { d with dirty := 0 }) ∧ t.fe = s.fe))

/-- R277, R401, R416: a link that wakes is up at both its ends, unless it is lost, and nothing waits for it any longer. A wait whose WWAIT has run out
raises WAKE_LATE on its link and goes on waiting. A die is lost only when a request has waited 50 µs for it or every lane of a link to it is retired;
its links are then down for good. -/
def Obligations.WakingAndLoss : Prop :=
  ∀ (s : State) (die link : Nat),
    (∃ t, exec (.linkWakeComplete die link) s = .next t ∧ (∀ x, s.link? die link = some x →
        t.link? die link = some { x with up := !x.lost, waking := false }) ∧
      (∀ d l y, farEnd die link = some (d, l) → s.link? d l = some y → t.link? d l = some { y with up := !y.lost, waking := false }) ∧
      (∀ d l, (d, l) ≠ (die, link) → farEnd die link ≠ some (d, l) → t.link? d l = s.link? d l) ∧
      (∀ x ∈ t.links.waits, x ∈ s.links.waits ∧ t.wakingOn [x.via] ≠ none) ∧ t.fe = s.fe ∧ t.mem = s.mem ∧ t.iso = s.iso) ∧
    (∀ id, (s.links.waits.find? fun x => x.id == id) = none → exec (.wakeLate id) s = .next s) ∧
    (∀ id x, (s.links.waits.find? fun x => x.id == id) = some x →
        (∀ l, x.line = some l → s.tableFor l = leaseTable ∧ (s.homeLine l).st = 0) →
      ∃ t, exec (.wakeLate id) s = .next t ∧ t.irqs.head? = some (none, 0) ∧ t.links.waits = s.links.waits ∧
        ∀ y, s.link? x.via.1 x.via.2 = some y → ∃ y', t.link? x.via.1 x.via.2 = some y' ∧ y'.lastev = 0x0801) ∧
    (let late : Prop := ∃ x ∈ s.links.waits, x.die = die ∧ x.since + 100000 ≤ s.now
     let severed : Prop := ∃ l ∈ s.links.links, farDie l.die l.link = die ∧ (if l.link < 4 then 2048 else 1024) ≤ l.retired.length
     (s.links.lost.contains die = true ∨ (¬ late ∧ ¬ severed) → exec (.dieLost die) s = .next s) ∧
     (s.links.lost.contains die = false → late ∨ severed →
       ∃ t, exec (.dieLost die) s = .next t ∧ die ∈ t.links.lost ∧ ∀ l ∈ t.links.links, farDie l.die l.link = die → l.up = false ∧ l.lost = true))

/-- R347, R348: branches, calls and the loop. A target is the clause header's address plus the displacement, or the address that a pair holds; a call
writes the address of the successor clause; loop decrements and branches where the result is not zero. Threads whose lane is not in Active() stay where
they are, and only the program counter and the named register change in the warp; no byte of memory changes. A target above 56 bits faults, and the
forms then write nothing. -/
def Obligations.Transfers : Prop :=
  ∀ (s : State) (o : Operands) (k : Work), s.work o = some k → k.f.grid = false →
    let disp (l : Nat) : DWord := match o.b with
      | .imm v => BitVec.ofInt 64 (8 * v.toInt)
      | _ => (BitVec.ofNat 32 (k.n o l)).signExtend 64
    let rel (l : Nat) : DWord := k.f.hdr + disp l
    let abs (l : Nat) : DWord := srcA64 k.w o l
    let back : DWord := k.f.hdr + BitVec.ofNat 64 (8 * (k.f.cnt + 1))
    let at_ (w : Warp) (m : LaneMask) (target : Nat → DWord) : Warp := w.mapThreads m fun l t => { t with pc := target l, clh := none }
    let fine (m : LaneMask) (target : Nat → DWord) : Prop := ∀ l ∈ lanesOf m, (target l).toNat < 2 ^ 56
    let goes (i : Instr) (w : Warp) : Prop := ∃ t, exec i s = .next t ∧ t.warp? k.f.core k.f.slot = some w ∧ t.mem = k.s.mem ∧ t.iso = k.s.iso ∧
      t.alm = k.s.alm ∧ t.eng = k.s.eng ∧ t.mx = k.s.mx ∧
      ∀ core slot, (core, slot) ≠ (k.w.core, k.w.slot) → t.warp? core slot = k.s.warp? core slot
    let faults (i : Instr) (m : LaneMask) (target : Nat → DWord) : Prop :=
      ¬ fine m target → exec i s = .next (k.s.trapHere k.f k.w k.act
        { kind := 0x0E30,
          errs := ((lanesOf m).filter fun l => decide (2 ^ 56 ≤ (target l).toNat)).map fun l =>
            { lane := l, kind := 0x0E30, va := (target l).toNat, page := 4096 } })
    let dec (l : Nat) : Word := k.d o l - 1
    let taken := maskOf ((lanesOf k.act).filter fun l => dec l != 0)
    (fine k.act rel → goes (.bra o) (at_ k.w k.act rel) ∧ goes (.jcall o) (at_ (k.w.setPair k.act o.d.toNat fun _ => back) k.act rel)) ∧
    (fine k.act abs → goes (.brx o) (at_ k.w k.act abs) ∧ goes (.ret o) (at_ k.w k.act abs) ∧
      goes (.jcallInd o) (at_ (k.w.setPair k.act o.d.toNat fun _ => back) k.act abs)) ∧
    (fine taken rel → goes (.loop o) (at_ (k.w.setReg k.act o.d.toNat dec) taken rel)) ∧
    faults (.bra o) k.act rel ∧ faults (.loop o) taken rel ∧ faults (.jcall o) k.act rel ∧ faults (.brx o) k.act abs ∧ faults (.ret o) k.act abs ∧ faults (.jcallInd o) k.act abs

/-- R349 to R352: exit ends its lanes once nothing that it waits for is outstanding; a warp with lanes left goes on with them, and one whose lanes have
all ended leaves its slot. nop, yield and the capture forms change nothing but the warp's own bit; trap and brk raise their traps, precise at
themselves, with the code in ECAUSE.
R361 to R363, R59: tag.open and tag.close on the front end, sleep, and the wait for flags. -/
def Obligations.ControlTagsAndSleep : Prop :=
  (
    ∀ (s : State) (o : Operands) (k : Work), s.work o = some k →
      exec (.nop o) s = .next s ∧
      exec (.yield o) s = .next (k.s.setWarp { k.w with yielded := true }) ∧
      exec (.capOff o) s = .next (k.s.setWarp { k.w with capd := true }) ∧
      exec (.capOn o) s = .next (k.s.setWarp { k.w with capd := false }) ∧
      exec (.trap o) s = .next (k.s.trapHere k.f k.w k.act { kind := 0x0E20, code := o.b.field.toNat, aux := o.b.field.toNat }) ∧
      exec (.brk o) s = .next (k.s.trapHere k.f k.w k.act { kind := 0x0E21 }) ∧
      (k.quiet = true → k.s.failedOp k.f.core k.f.slot k.w.wg = none → k.s.failedWin k.f.core k.f.slot = none →
        k.s.failedStrm k.f.core k.f.slot = none → (∀ w ∈ k.s.fe.warps, w.castles = []) →
        let left := (List.range k.w.threads.length).filter fun l => !(k.w.thread l).exited && !k.act.getLsbD l
        (left ≠ [] → ∃ t w', exec (.exit o) s = .next t ∧ t.warp? k.f.core k.f.slot = some w' ∧ w'.regs = k.w.regs ∧ w'.preds = k.w.preds ∧
          (∀ l, l < k.w.threads.length → if k.act.getLsbD l = true then (w'.thread l).exited = true else w'.thread l = k.w.thread l) ∧
          k.s.keepsBytes t ∧ k.s.keepsUnits t ∧ k.s.keepsOthers t k.w) ∧
        (left = [] → (∀ g, k.s.wg? k.w.wg = some g → (∃ w ∈ k.s.fe.warps, w.wg = g.id ∧ (w.core, w.slot) ≠ (k.w.core, k.w.slot))) →
          ∃ t, exec (.exit o) s = .next t ∧ t.warp? k.f.core k.f.slot = none ∧ t.fe.wgs = k.s.fe.wgs ∧ k.s.keepsBytes t))) ∧
  (
    ∀ (s : State) (o : Operands) (k : Work), s.work o = some k → k.f.grid = false →
      exec (.tagOpen o) s = .next (k.put32 o fun _ => 0) ∧
      exec (.tagClose o) s = .next k.s ∧
      (let asleep := (lanesOf k.act).filter fun l => k.n o l ≠ 0
       let last := asleep.foldl (fun m l => max m (k.n o l)) 0
       ∃ t w', exec (.sleep o) s = .next t ∧ t.warp? k.f.core k.f.slot = some w' ∧ w'.regs = k.w.regs ∧ w'.preds = k.w.preds ∧
        (∀ l, l < k.w.threads.length →
          if l ∈ asleep then (w'.thread l).wait = .sleep (k.s.now + 2 * last) ∧ (w'.thread l).pc = k.f.pc + 8 else w'.thread l = k.w.thread l) ∧
        (∀ l ∈ asleep, ∃ m ∈ t.agenda, m.what = .sleepExpiry k.f.core k.f.slot l ∧ m.at_ = k.s.now + 2 * last) ∧ k.s.keepsBytes t ∧ k.s.keepsUnits t) ∧
      (∀ t0 w l at_, t0.warp? k.f.core k.f.slot = some w → l < 32 → l < w.threads.length → (w.thread l).wait = .sleep at_ →
        (at_ ≤ t0.now → ∃ t w', exec (.sleepExpiry k.f.core k.f.slot l) t0 = .next t ∧ t.warp? k.f.core k.f.slot = some w' ∧
          w'.thread l = { w.thread l with wait := .none } ∧ (∀ j, j ≠ l → w'.thread j = w.thread j) ∧ t.mem = t0.mem) ∧
        (t0.now < at_ → exec (.sleepExpiry k.f.core k.f.slot l) t0 = .next t0)) ∧
      (let mask : BitVec 12 := BitVec.ofNat 12 (o.b.field.toNat + 256 * (o.c.toNat % 16))
       let clear := ∀ j, j < 12 → mask.getLsbD j = true → k.w.flagCount j = 0
       (clear → exec (.flagWait o) s = .next k.s) ∧
       (¬ clear → ∃ t w', exec (.flagWait o) s = .next t ∧ t.warp? k.f.core k.f.slot = some w' ∧ w'.regs = k.w.regs ∧
          ∀ l ∈ lanesOf k.act, l < k.w.threads.length → (w'.thread l).wait = .flags mask ∧ (w'.thread l).pc = k.f.pc + 8)))

/-- R354 to R356: the named barriers. An arrival in lane order completes a phase whenever the count E is reached: then the count starts again at zero
and the phase that was current is left. With A below E, as every form leaves it, m arrivals leave A = (A + m) mod E and the phase P + (A + m) / E. The
threads of the workgroup that wait for a completed phase go on; an arrival first waits for the acquires of its bundle (R357); bar.wait waits for the
phase that is current, and bar.sync for the one in which its lane arrived unless that has completed. Other barriers, registers and memory stay.
R359, R360: the rendezvous of two warps of a workgroup, when the second comes to its castle: one gives and one takes the same number of groups of 8
registers, and both go on with their budgets changed by it. -/
def Obligations.BarriersAndCastle : Prop :=
  (
    ∀ (s : State) (o : Operands) (k : Work) (g : Wg), s.work o = some k → k.f.grid = false → k.s.wg? k.w.wg = some g → g.barriers.length = 16 →
      o.d.toNat < 16 →
      let n := o.d.toNat
      let b := g.bar n
      let m := (lanesOf k.act).length
      let count := k.n o (ctzV k.act)
      let rank (l : Nat) : Nat := ((lanesOf k.act).filter fun x => decide (x < l)).length
      let after : Barrier := { e := b.e, a := (b.a + m) % b.e, p := (b.p + (b.a + m) / b.e) % 2 ^ 16 }
      let joined (l : Nat) : Nat := (b.p + (b.a + rank l) / b.e) % 2 ^ 16
      let past (p : Nat) : Prop := ∃ l ∈ lanesOf k.act, p = joined l ∧ p ≠ after.p
      (count < 1 ∨ 512 < count → exec (.barInit o) s = .next (k.s.trapHere k.f k.w k.act { kind := 0x0E16 })) ∧
      (1 ≤ count → count ≤ 512 → b.a ≠ 0 → exec (.barInit o) s = .next (k.s.trapHere k.f k.w k.act { kind := 0x0E17 })) ∧
      (1 ≤ count → count ≤ 512 → b.a = 0 → exec (.barInit o) s = .next (k.s.setWg { g with barriers := g.barriers.set n { b with e := count } })) ∧
      (b.e = 0 → ∀ i ∈ ([.barArrive o, .barWait o, .barSync o] : List Instr),
        exec i s = .next (k.s.trapHere k.f k.w k.act { kind := 0x0E17 })) ∧
      (b.e ≠ 0 → k.s.acquiring k.f ≠ [] → ∀ i ∈ ([.barArrive o, .barSync o] : List Instr),
        exec i s = .next (k.s.retry k.f k.w (.llRegs (k.s.acquiring k.f)))) ∧
      (b.a < b.e → b.p < 2 ^ 16 → k.s.acquiring k.f = [] →
        let same (t : State) : Prop := k.s.keepsBytes t ∧ k.s.keepsUnits t ∧ t.wg? g.id = some { g with barriers := g.barriers.set n after } ∧
          ∀ core slot w, (core, slot) ≠ (k.w.core, k.w.slot) → k.s.warp? core slot = some w → ∃ w', t.warp? core slot = some w' ∧
            w'.regs = w.regs ∧ w'.preds = w.preds ∧ ∀ l, l < w.threads.length →
              let goes := w.wg = g.id ∧ ∃ p, (w.thread l).wait = .bar n p ∧ past p
              (goes → w'.thread l = { w.thread l with wait := .none }) ∧ (¬ goes → w'.thread l = w.thread l)
        (∃ t w', exec (.barArrive o) s = .next t ∧ same t ∧ t.warp? k.f.core k.f.slot = some w' ∧ w'.regs = k.w.regs ∧
          ∀ l ∈ lanesOf k.act, l < k.w.threads.length → (n, joined l) ∈ (w'.thread l).arrivals ∧ (w'.thread l).pc = (k.w.thread l).pc) ∧
        (∃ t w', exec (.barSync o) s = .next t ∧ same t ∧ t.warp? k.f.core k.f.slot = some w' ∧ w'.regs = k.w.regs ∧
          ∀ l ∈ lanesOf k.act, l < k.w.threads.length →
            (past (joined l) → (w'.thread l).pc = (k.w.thread l).pc) ∧
            (¬ past (joined l) → (w'.thread l).wait = .bar n (joined l) ∧ (w'.thread l).pc = k.f.pc + 8)) ∧
        ∃ t w', exec (.barWait o) s = .next t ∧ t.fe.wgs = k.s.fe.wgs ∧ t.warp? k.f.core k.f.slot = some w' ∧ w'.regs = k.w.regs ∧
          (∀ l ∈ lanesOf k.act, l < k.w.threads.length → (w'.thread l).wait = .bar n b.p ∧ (w'.thread l).pc = k.f.pc + 8) ∧ k.s.keepsBytes t ∧
          k.s.keepsUnits t)) ∧
  (
    ∀ (s : State) (o : Operands) (k : Work) (g : Wg) (x : Warp) (c : CastleReq), s.work o = some k → k.f.grid = false → k.s.wg? k.w.wg = some g →
      (∀ l, l < k.w.threads.length → (k.w.thread l).exited = true ∨ (l < 32 ∧ k.act.getLsbD l = true)) →
      k.w.sub < 16 → x.sub < 16 → k.w.sub ≠ x.sub → x.sub < g.warps →
      k.s.subWarp k.w.wg k.w.sub = some k.w → k.s.subWarp k.w.wg x.sub = some x → k.s.warp? x.core x.slot = some x →
      (∀ l, l < x.threads.length → (x.thread l).exited = true ∨ (x.thread l).wait = .castle) →
      k.w.castles = [] → x.castles = [c] → (∀ w ∈ k.s.fe.warps, w.castles ≠ [] → w = x) →
      (BitVec.ofNat 32 (k.n o (ctzV k.act))).setWidth 16 = (1#16) <<< x.sub → c.partners = (1#16) <<< k.w.sub →
      c.take ≠ (o.mod == 1#2) → c.amount = o.c.toNat →
      let give := 8 * o.c.toNat
      let (mine, theirs) : Int × Int := if o.mod = 1#2 then ((k.w.budget : Int) + give, (x.budget : Int) - give)
        else ((k.w.budget : Int) - give, (x.budget : Int) + give)
      16 ≤ mine → mine ≤ 256 → 16 ≤ theirs → theirs ≤ 256 →
      ∃ t w' x', exec (.castle o) s = .next t ∧ t.warp? k.f.core k.f.slot = some w' ∧ t.warp? x.core x.slot = some x' ∧
        (w'.budget : Int) = mine ∧ (x'.budget : Int) = theirs ∧ w'.castles = [] ∧ x'.castles = [] ∧
        (∀ l ∈ lanesOf k.act, l < k.w.threads.length → (w'.thread l).wait = .none ∧ (w'.thread l).pc = k.f.pc + 8) ∧
        (∀ l, l < x.threads.length → (x'.thread l).exited = false → (x'.thread l).wait = .none) ∧
        (∀ l r : Nat, l < 32 → (r : Int) < mine → w'.reg l r = if r < k.w.budget then k.w.reg l r else 0) ∧ k.s.keepsBytes t ∧ k.s.keepsUnits t)

/-- R26, R27, R61, R310: the steps of the front end. Regrouping leaves bundles that hold every runnable lane of each warp of its core that runs no
clause in progress, each once, a bundle's lanes at one place, and changes no warp otherwise; a clause that issues, away from a captured loop's head, is
the one at the bundle's place, and its threads stand at the successor; a bucket is refilled by its rate every 64 clocks; a rate is never below 1/16 of
the full one, and changes at most once in a microsecond. -/
def Obligations.FrontEndSteps : Prop :=
  ∀ (s : State) (core : Nat),
    (∃ t, exec (.bundlerRegroup core) s = .next t ∧ { t with fe := s.fe } = s ∧ t.fe.wgs = s.fe.wgs ∧ t.fe.issues = s.fe.issues ∧
      ∀ slot w, s.warp? core slot = some w → ∃ w', t.warp? core slot = some w' ∧ { w' with bundles := w.bundles } = w ∧
        let free (l : Nat) : Prop := (s.running w).getLsbD l = false ∧ s.runnable w (w.thread l) = true
        (∀ l, l < 32 → (free l ↔ ∃ b ∈ w'.bundles, b.getLsbD l = true)) ∧
        ∀ b ∈ w'.bundles, ∀ l l', l < 32 → l' < 32 → b.getLsbD l = true →
          (b.getLsbD l' = true ↔ free l' ∧ (w.thread l').place = (w.thread l).place)) ∧
    (s.fe.issues.any (fun i => i.core == core) = true ∨ s.nextIssuer core = none → exec (.clauseIssue core) s = .next s) ∧
    (∀ w b i, s.fe.issues.any (fun i => i.core == core) = false → s.nextIssuer core = some (w, b) → s.headOf w b = .clause i →
      ((w.thread (ctzV b)).clh = none → s.placeRec (s.ctxOf w) i.hdr = none ∧ (∀ l, (w.thread l).gskip = none) ∧
        ∀ l, s.launchOf w = some l → ∀ p ∈ l.placed, p.1 ≠ i.hdr) → s.raiseGridDue w b = none → s.warp? w.core w.slot = some w →
      ∃ t w', exec (.clauseIssue core) s = .next t ∧ t.fe.issues = i :: s.fe.issues ∧ t.warp? w.core w.slot = some w' ∧ w'.regs = w.regs ∧
        w'.preds = w.preds ∧ w'.flags = w.flags ∧
        (∀ l, l < w.threads.length → if b.getLsbD l = true
          then (w'.thread l).pc = i.hdr + BitVec.ofNat 64 (8 * (i.header.cnt.toNat + 1)) ∧ (w'.thread l).clh = none ∧ (w'.thread l).wait = .none
          else w'.thread l = w.thread l) ∧ t.mem = s.mem ∧ t.fe.wgs = s.fe.wgs) ∧
    (∀ port bk, (s.fe.buckets.find? fun x => x.core == core && x.port == port) = some bk →
      (∃ t bk', exec (.leakyBucketRefill core port) s = .next t ∧ (t.fe.buckets.find? fun x => x.core == core && x.port == port) = some bk' ∧
        bk'.credit = min 64 (bk.credit + bk.rate) ∧ bk'.rate = bk.rate ∧
        (∃ m ∈ t.agenda, m.what = .leakyBucketRefill core port ∧ m.at_ = s.now + 64) ∧ t.fe.warps = s.fe.warps ∧ t.mem = s.mem) ∧
      ∀ rate,
        (bk.changed + 2000 ≤ s.now → ∃ t bk', exec (.powerRateChange core port rate) s = .next t ∧
          (t.fe.buckets.find? fun x => x.core == core && x.port == port) = some bk' ∧ bk'.rate = min 64 (max 4 rate) ∧ bk'.credit = bk.credit ∧
          bk'.changed = s.now ∧ t.fe.warps = s.fe.warps ∧ t.mem = s.mem) ∧
        (s.now < bk.changed + 2000 → ∃ t, exec (.powerRateChange core port rate) s = .next t ∧ t.fe = s.fe ∧ t.mem = s.mem ∧
          ∃ m ∈ t.agenda, m.what = .powerRateChange core port rate ∧ m.at_ = bk.changed + 2000)) ∧
    (∀ port, (s.fe.buckets.find? fun x => x.core == core && x.port == port) = none →
      exec (.leakyBucketRefill core port) s = .next s ∧
      ∀ rate, ∃ t bk, exec (.powerRateChange core port rate) s = .next t ∧
        (t.fe.buckets.find? fun x => x.core == core && x.port == port) = some bk ∧ bk.rate = min 64 (max 4 rate) ∧
        (∃ m ∈ t.agenda, m.what = .leakyBucketRefill core port ∧ m.at_ = s.now + 64) ∧ t.fe.warps = s.fe.warps ∧ t.mem = s.mem)

/-- R235 to R241, R257 to R260, R187: a lane's bt.copy, bt.gather, bt.scatter and lay. The instruction issues, its flag raised. The checks at acceptance
give a refusal, an exception status in the destination register with no other effect; an accepted command binds the lowest free handle, raises its
generation, gives its identifier, and leaves an operation with its chunks to move; with every handle bound, or 64 layout commands with the die's
engines, the command waits in the instruction's flag count while the thread goes on. The registers are written when the instruction completes.
R242, R244: waiting for, testing and stopping an operation, for every lane of Active(). A lane whose identifier names no operation has nothing to
wait for; where some lane waits, every lane of the bundle issues the instruction again. Joining is an acquire. A stop ends what the lane's operand names
where its workgroup owns it, and has no effect on a stale identifier, an operation that has ended in error, another workgroup's port or window stream,
or a number that names no port. -/
def Obligations.TransferForms : Prop :=
  (
    ∀ (s : State) (o : Operands) (k : Work) (l : Nat) (g : Wg), s.workLL o = some k → k.quiet = true → lanesOf k.act = [l] →
      k.s.wg? k.w.wg = some g → (∀ x ∈ k.s.fe.llops, x.queue = none) →
      let ctx := k.s.ctxOf k.w
      let near := dieOf k.f.core
      let issues (i : Instr) (form : EngForm) (d : List Byte) (c total : Nat) (lay : Bool) : Prop :=
        let issued (t : State) (ws : List RegWrite) (q : Option (Issuer × List (Nat × EngCmd))) : Prop := exec i s = .next t ∧
          ∃ op, t.fe.llops = op :: k.s.fe.llops ∧ op.lanes = k.act ∧ op.flag = k.f.flag o.fsel ∧ op.dests = [o.d.toNat] ∧ op.pending = 0 ∧
            op.writes = ws ∧ op.queue = q ∧ (∃ m ∈ t.agenda, m.what = .longLatencyComplete op.id) ∧
            t.warp? k.f.core k.f.slot = some (k.w.addFlag (k.f.flag o.fsel)) ∧ k.s.keepsBytes t
        let answered (t : State) (v : Word) : Prop := issued t [{ lane := l, reg := o.d.toNat, val := v }] none
        let room : Prop := lay = true → k.s.laysOf near < 64
        (c ≠ 0 → ∃ t, answered t (excStatus c) ∧ t.eng = k.s.eng ∧ t.fe.wgs = k.s.fe.wgs) ∧
        (∀ h, c = 0 → room → (g.handles.findIdx? fun x => x.op.isNone) = some h →
          let gen := (((g.handles[h]?).getD {}).gen + 1) % 2 ^ 25
          ∃ t e, answered t (BitVec.ofNat 32 (h + 32 * gen + (if lay then 2 ^ 30 else 0))) ∧ t.eng.ops = k.s.eng.ops ++ [e] ∧
            e.owner = .handle g.id h ∧ e.form = form ∧ e.desc = d ∧ e.sc = o.sc ∧ e.total = total ∧ e.done = [] ∧ e.failed = none ∧ e.ctx = ctx ∧
            e.ident = BitVec.ofNat 32 (h + 32 * gen + (if lay then 2 ^ 30 else 0)) ∧
            t.wg? g.id = some { g with handles := g.handles.set h { gen := gen, op := some e.id } } ∧
            (0 < total → ∃ m ∈ t.agenda, m.what = .btChunkComplete e.id 0)) ∧
        (c = 0 → (¬ room ∨ (g.handles.findIdx? fun x => x.op.isNone) = none) →
          ∃ t, issued t [] (some (k.s.issuer k.f k.w, [(l, .move form d o.sc total 0)])) ∧ t.eng = k.s.eng ∧ t.fe.wgs = k.s.fe.wgs)
      (∀ form wg off, k.s.stageAddr g (k.a o l) 0 64 64 (Scope.wide o.sc) = .ok (wg, off) →
        let d := k.s.stageBytes wg off 64
        let c := k.s.btStatus g form d (Scope.wide o.sc)
        (form = .copy → issues (.btCopy o) form d c ((btTotal d + 511) / 512) false) ∧
        (form = .gather → issues (.btGather o) form d c ((btTotal d + 511) / 512) false) ∧
        (form = .scatter → issues (.btScatter o) form d c ((btTotal d + 511) / 512) false)) ∧
      (let m := srcB64 k.s k.f k.w o l
       let va := (srcA64 k.w o l).toNat
       (va % 64 ≠ 0 → issues (.lay o) (.lay m) [] 0x0601 0 true) ∧
       (∀ d, va % 64 = 0 → (k.s.catchUp near).vread (Who.front ctx k.f) k.f.core (k.w.supIn k.f) .read none va 128 = .ok d →
         issues (.lay o) (.lay m) d (k.s.layStatus g va d m (Scope.wide o.sc)) ((layCount d * 2 ^ dmwEsz m + layGroup d - 1) / layGroup d) true))) ∧
  (
    ∀ (s : State) (o : Operands) (k : Work), s.work o = some k → k.f.grid = false →
      let named (l : Nat) : List Nat := ((List.range 32).filter fun i => decide ((k.n o l / 2 ^ i) % 2 = 1)).map fun i => 32 * o.mod.toNat + i
      let set (l : Nat) (e : EngOp) : Bool := (named l).all fun j => decide (e.total ≤ j) || e.done.contains j
      let op (l : Nat) : Option EngOp := k.s.opNamed k.w.wg (k.a o l)
      let joined : State := k.s.joinAll k.f.core (k.s.ctxOf k.w)
      (∀ l e, op l = some e → k.s.op? e.id = some e) →
      ((∀ l ∈ lanesOf k.act, ∀ e, op l = some e → e.failed = none ∧ set l e = true) → exec (.btWait o) s = .next joined) ∧
      (∀ l e, l ∈ lanesOf k.act → op l = some e → e.failed = none → set l e = false → l < k.w.threads.length →
        ∃ t w', exec (.btWait o) s = .next t ∧ t.warp? k.f.core k.f.slot = some w' ∧ (w'.thread l).wait = .chunks e.id (named l) ∧
          (∀ x ∈ lanesOf k.f.lanes, x < k.w.threads.length → (w'.thread x).pc = k.f.pc) ∧ w'.regs = k.w.regs ∧ t.eng = k.s.eng ∧ t.mem = k.s.mem) ∧
      ((∀ l ∈ lanesOf k.act, ∀ e, op l = some e → e.failed = none) →
        let got (l : Nat) : Bool := ((op l).map (set l)).getD true
        ∃ t, exec (.btTest o) s = .next t ∧ t.warp? k.f.core k.f.slot = some (k.w.setPred k.act o.d.toNat got) ∧ t.eng = k.s.eng ∧
          k.s.keepsBytes t ∧ k.s.keepsOthers t k.w) ∧
      (∀ l kind, lanesOf k.act = [l] → kind = .bt ∨ kind = .lay →
        (∀ e, op l = some e → e.failed = none → (k.a o l).getLsbD 30 = (kind == .lay) → ∃ t, exec (.engCancel kind o) s = .next t ∧
          t.eng.ops = k.s.eng.ops.filter (fun x => x.id != e.id) ∧ t.fe.warps = k.s.fe.warps ∧ k.s.keepsBytes t) ∧
        (op l = none ∨ (∃ e, op l = some e ∧ e.failed ≠ none) ∨ (k.a o l).getLsbD 30 ≠ (kind == .lay) →
          exec (.engCancel kind o) s = .next joined)) ∧
      (∀ l, lanesOf k.act = [l] →
        let a := k.a o l
        let port := if a.getLsbD 4 then gridPort k.f.core (a.extractLsb' 0 4).toNat else qPort k.f.core k.f.slot (a.extractLsb' 0 3).toNat
        let names : Prop := a.getLsbD 5 = false ∧ (a.getLsbD 4 = true ∨ a.getLsbD 3 = false)
        (names → k.s.portOwner port = some k.w.wg → ∃ t, exec (.engCancel .strm o) s = .next t ∧
          (∀ x ∈ t.eng.strms, x.failed = none → x.port ≠ port) ∧
          (∀ x ∈ t.eng.wins, x.failed = none → x.port ≠ some port) ∧ t.eng.ops = k.s.eng.ops ∧ k.s.keepsBytes t) ∧
        (names → k.s.portOwner port ≠ some k.w.wg → exec (.engCancel .strm o) s = .next joined) ∧
        (a.getLsbD 5 = false → a.getLsbD 4 = false → a.getLsbD 3 = true → exec (.engCancel .strm o) s = .next joined) ∧
        (a.getLsbD 5 = true →
          (∀ u, k.s.liveWin (clusterOf k.f.core) = some u → u.wg = k.w.wg → ∃ t, exec (.engCancel .strm o) s = .next t ∧
            t.eng.strms = k.s.eng.strms ∧ t.eng.ops = k.s.eng.ops ∧ k.s.keepsBytes t ∧ t.eng.wins = k.s.eng.wins.filter fun x => x.id != u.id) ∧
          ((∀ u, k.s.liveWin (clusterOf k.f.core) = some u → u.wg ≠ k.w.wg) → exec (.engCancel .strm o) s = .next joined))))

/-- R249, R254: a lane's strm.bind and win.cfg. The instruction issues, its flag raised. Where the dispatcher, or the cluster's unit, has room, STAT is
written into the descriptor's last word in stage memory; an accepted command stands in its dispatcher or unit and starts; a refused one has no other
effect. With no room the command waits in the flag count, whatever its descriptor holds. A unit whose configuration has ended has room. -/
def Obligations.StreamIssue : Prop :=
  ∀ (s : State) (o : Operands) (k : Work) (l : Nat) (g : Wg) (wg off : Nat), s.workLL o = some k → k.quiet = true → lanesOf k.act = [l] →
    k.s.wg? k.w.wg = some g → k.s.stageAddr g (k.a o l) 0 64 64 (Scope.wide o.sc) = .ok (wg, off) → (∀ x ∈ k.s.fe.llops, x.queue = none) →
    let d := k.s.stageBytes wg off 64
    let port := if o.d.getLsbD 4 then gridPort k.f.core (o.d.extractLsb' 0 4).toNat else qPort k.f.core k.f.slot (o.d.extractLsb' 0 3).toNat
    let cl := clusterOf k.f.core
    let issued (i : Instr) (t : State) (q : Option (Issuer × List (Nat × EngCmd))) : Prop := exec i s = .next t ∧ k.s.keepsBytes t ∧
      ∃ op, t.fe.llops = op :: k.s.fe.llops ∧ op.lanes = k.act ∧ op.dests = [] ∧ op.flag = k.f.flag o.fsel ∧ op.queue = q ∧
        ∃ m ∈ t.agenda, m.what = .longLatencyComplete op.id
    let answered (i : Instr) (t : State) (c : Nat) : Prop := issued i t none ∧
      ∀ a b, t.stageAt a b = if a = wg ∧ off + 0x3C ≤ b ∧ b < off + 0x40 then some (byteOf c (b - (off + 0x3C))) else k.s.stageAt a b
    let waits (i : Instr) (c : EngCmd) : Prop := ∃ t, issued i t (some (k.s.issuer k.f k.w, [(l, c)])) ∧ t.eng = k.s.eng ∧ t.fe.wgs = k.s.fe.wgs
    let c := k.s.strmStatus g d
    let v := winStatus d
    (k.s.strmsOf k.f.core < 16 →
      (c ≠ 0 → ∃ t, answered (.strmBind o) t c ∧ t.eng = k.s.eng) ∧
      (c = 0 → ∃ t x, answered (.strmBind o) t 0 ∧ t.eng.strms = k.s.eng.strms ++ [x] ∧
        x.port = port ∧ x.desc = d ∧ x.wg = k.w.wg ∧ x.started = false ∧ x.next = 0 ∧ ∃ m ∈ t.agenda, m.what = .streamStart port)) ∧
    (16 ≤ k.s.strmsOf k.f.core → waits (.strmBind o) (.strm port wg off d)) ∧
    (k.s.failedWin k.f.core k.f.slot = none →
      ((k.s.liveWin cl).isSome = true → waits (.winCfg o) (.win wg off d)) ∧
      (k.s.liveWin cl = none →
        (v ≠ 0 → ∃ t, answered (.winCfg o) t v ∧ t.eng = k.s.eng) ∧
        (v = 0 → ∃ t u, answered (.winCfg o) t 0 ∧ u ∈ t.eng.wins ∧ (∀ x ∈ t.eng.wins, x.cluster = cl → x.failed = none → x = u) ∧
          (∀ x ∈ k.s.eng.wins, x.cluster ≠ cl → x ∈ t.eng.wins) ∧ u.cluster = cl ∧ u.cfg = d ∧ u.wg = k.w.wg ∧ u.oy = 0 ∧ u.ox = 0 ∧
          u.rows = [] ∧ ∃ m ∈ t.agenda, m.what = .windowRowEmit cl)))

/-- R239, R241: a chunk of an operation whose handle it owns. A chunk whose bytes have all moved is set, and after the last, where there is no signal
word, the handle is free and the operation is gone; a chunk that meets a fault is not set, and its fault is kept with the operation.
R239: a tile of one row that moves within stage memory in one chunk: the destination's bytes are the source's, and no other byte changes. -/
def Obligations.EngineSteps : Prop :=
  (
    ∀ (s : State) (id c : Nat) (e : EngOp) (g : Wg) (h : Nat), s.op? id = some e → e.id = id → e.owner = .handle g.id h → s.wg? g.id = some g →
      e.failed = none → e.met = [] → e.held = [] → c < e.total → e.done.contains c = false → s.olderThan e.core e.slot id = false →
      (∀ s1, s.runChunk e c = (none, s1) →
        (e.done.length + 1 < e.total → ∃ t e', exec (.btChunkComplete id c) s = .next t ∧ t.op? id = some e' ∧ e'.done = e.done ++ [c] ∧
          t.mem = s1.mem ∧ t.fe.wgs = s1.fe.wgs ∧ t.fe.warps = s1.fe.warps) ∧
        (e.done.length + 1 = e.total → e.signal = none → (∃ w ∈ s.fe.warps, w.wg = g.id) →
          ∃ t, exec (.btChunkComplete id c) s = .next t ∧ t.op? id = none ∧ t.mem = s1.mem)) ∧
      (∀ kind va s1, s.runChunk e c = (some (kind, va), s1) → ∃ t e', exec (.btChunkComplete id c) s = .next t ∧ t.op? id = some e' ∧
        e'.met = [(c, kind, va)] ∧ e'.done = e.done ∧
        ∃ m ∈ t.agenda, m.what = if kind = 0x0E31 ∨ kind = 0x0E32 ∨ kind = 0x0E33 then .engineFaultHeld id else .engineFault id)) ∧
  (
    ∀ (s : State) (e : EngOp) (g : Wg) (h n src dst : Nat), e.owner = .handle g.id h → s.wg? g.id = some g → e.form = .copy → btSsp e.desc = true →
      btDsp e.desc = true → btRowb e.desc = n → btNrow e.desc = 1 → 0 < n → n ≤ 512 → btField e.desc true = src → btField e.desc false = dst →
      src < 2 ^ 18 → dst < 2 ^ 18 → src + n ≤ g.stageKiB * 1024 → dst + n ≤ g.stageKiB * 1024 →
      ∃ s1, s.runChunk e 0 = (none, s1) ∧ s1.mem = s.mem ∧
        ∀ a b, s1.stageAt a b = if a = g.id ∧ dst ≤ b ∧ b < dst + n then some (g.stageByte (src + (b - dst))) else s.stageAt a b)

/-- R243, R248, R250, R253, R423: held and ending faults of an operation, a stream's start and its elements, a window stream's rows. A held fault's
record is written once for an address while the hold lasts; here it has been written, or the context has no place for it. -/
def Obligations.StreamSteps : Prop :=
  ∀ (s : State) (id : Nat),
    (∀ e, s.op? id = some e → (∀ x ∈ e.met, heldKind x.2.1 = false) → exec (.engineFaultHeld id) s = .next s) ∧
    (∀ e c kind va, s.op? id = some e → e.met = [(c, kind, va)] → heldKind kind = true → s.ctx? e.ctx = none ∨ e.noted.contains va = true →
      ∃ t e', exec (.engineFaultHeld id) s = .next t ∧ t.op? id = some e' ∧ e'.met = [] ∧ e'.held = e.held ++ [(c, kind, va)] ∧ e'.failed = e.failed ∧
        e'.noted.contains va = true ∧ (∃ m ∈ t.agenda, m.what = .heldFaultRetry id) ∧ t.mem = s.mem ∧ t.fe = s.fe) ∧
    (∀ e c kind va g h w, s.op? id = some e → e.owner = .handle g h → e.met = [(c, kind, va)] → heldKind kind = false →
      s.warp? e.core e.slot = some w → w.wg = g → ∃ t e', exec (.engineFault id) s = .next t ∧ t.op? id = some e' ∧ e'.failed = some (kind, va) ∧
        e'.met = [] ∧ e'.held = [] ∧ t.mem = s.mem) ∧
    (∀ e c kind va s1, s.op? id = some e → e.id = id → e.failed = none → e.met = [] → e.held = [(c, kind, va)] → e.total = c + 2 → e.done = [] →
      s.runChunk e c = (none, s1) → ∃ t e', exec (.heldFaultRetry id) s = .next t ∧ t.op? id = some e' ∧ e'.held = [] ∧ e'.done = [c] ∧ t.mem = s1.mem) ∧
    (∀ port p x, s.portAt port = some p → (s.eng.strms.find? fun y => y.port == port && !y.delivered) = some x → x.started = false →
      p.bound = false ∨ (p.ended = true ∧ p.queue = []) → ∃ t p', exec (.streamStart port) s = .next t ∧ t.portAt port = some p' ∧ p'.bound = true ∧
        p'.ended = false ∧ p'.queue = p.queue ∧ p'.queued = p.queued - 1 ∧ (∃ m ∈ t.agenda, m.what = .streamElementDelivery port) ∧ t.mem = s.mem) ∧
    (∀ port p x el, s.portAt port = some p → (s.eng.strms.find? fun y => y.port == port && !y.delivered) = some x → x.started = true → x.met = none →
      x.held = none → s.olderThan x.core x.slot x.id = false → p.queue.length < 4 → s.strmElem x = .ok el → el.errs = [] →
      (∀ y ∈ s.eng.strms, y.id = x.id → y = x) →
      ∃ t p', exec (.streamElementDelivery port) s = .next t ∧ t.portAt port = some p' ∧ p'.queue = p.queue ++ [el] ∧
        (p'.ended = true ↔ strmCount x.desc ≤ x.next + 1) ∧ s.keepsBytes t ∧
        (∃ y ∈ t.eng.strms, y.id = x.id ∧ y.next = x.next + 1 ∧ (y.delivered = true ↔ strmCount x.desc ≤ x.next + 1)) ∧
        (x.next + 1 < strmCount x.desc → ∃ m ∈ t.agenda, m.what = .streamElementDelivery port)) ∧
    (∀ cl u row line, s.liveWin cl = some u → u.emitted = false → u.met = none → u.held = none → s.olderThan u.core u.slot u.id = false →
      winDest u.cfg = false → s.winRead u (winPlaces u.cfg u.oy u.ox) = .ok (row, line) →
      (∀ y ∈ s.eng.wins, y.id = u.id → y = u) →
      ∃ t u', exec (.windowRowEmit cl) s = .next t ∧ t.liveWin cl = some u' ∧ u'.rows = u.rows ++ [row] ∧
        (u'.oy, u'.ox) = (if u.ox + 1 < winOw u.cfg then (u.oy, u.ox + 1) else (u.oy + 1, 0)) ∧
        (u'.emitted = true ↔ winOw u.cfg ≤ u.ox + 1 ∧ winOh u.cfg ≤ u.oy + 1) ∧ s.keepsBytes t)

/-- R147, R152, R156, R161 to R165: the matrix forms, in one lane. A refusal gives its exception status and leaves everything else; an accepted post
binds the lowest free request handle and leaves a pending entry, and with no room in the table or the handles it waits in its flag count while the
thread goes on; an accepted load binds the lowest free block handle and the lowest free frame. Waiting and polling look at the request or load that the
identifier names, and a stale identifier has nothing to wait for. Joining is an acquire. -/
def Obligations.MatrixForms : Prop :=
  ∀ (s : State) (o : Operands) (k : Work) (l : Nat) (g : Wg), s.workLL o = some k → k.quiet = true → lanesOf k.act = [l] → l < k.w.threads.length →
    k.s.wg? k.w.wg = some g → (∀ x ∈ k.s.fe.llops, x.queue = none) →
    let cl := clusterOf k.f.core
    let a := k.a o l
    let gives (i : Instr) (t : State) (v : Word) : Prop := exec i s = .next t ∧ k.s.keepsBytes t ∧
      ∃ op, t.fe.llops = op :: k.s.fe.llops ∧ op.lanes = k.act ∧ op.flag = k.f.flag o.fsel ∧ op.dests = [o.d.toNat] ∧
        op.writes = [{ lane := l, reg := o.d.toNat, val := v }] ∧ op.queue = none ∧ ∃ m ∈ t.agenda, m.what = .longLatencyComplete op.id
    let joined : State := k.s.joinAll k.f.core (k.s.ctxOf k.w)
    let stands (i : Instr) (w : Wait) : Prop := ∃ t w', exec i s = .next t ∧ t.warp? k.f.core k.f.slot = some w' ∧ (w'.thread l).wait = w ∧
      (w'.thread l).pc = k.f.pc ∧ w'.regs = k.w.regs ∧ t.mx = k.s.mx ∧ t.fe.wgs = k.s.fe.wgs
    (a.toNat % 64 ≠ 0 → ∃ t, gives (.mxPost o) t 0x80000201 ∧ t.mx = k.s.mx ∧ t.fe.wgs = k.s.fe.wgs) ∧
    (∀ wg off, a.toNat % 64 = 0 → k.s.stageAddr g a 0 0 64 true = .ok (wg, off) →
      let pb := k.s.stageBytes wg off 64
      let c := k.s.mxStatus g pb
      (c ≠ 0 → ∃ t, gives (.mxPost o) t (excStatus c) ∧ t.mx = k.s.mx ∧ t.fe.wgs = k.s.fe.wgs) ∧
      (∀ h, c = 0 → (k.s.mx.entries.filter fun e => e.cluster == cl).length < 32 → (g.reqs.findIdx? fun x => x.op.isNone) = some h →
        let gen := ((g.reqs[h]?).getD {}).gen + 1
        ∃ t e, gives (.mxPost o) t (BitVec.ofNat 32 (h + 32 * (gen % 2 ^ 25))) ∧ t.mx.entries = k.s.mx.entries ++ [e] ∧ e.cluster = cl ∧ e.pb = pb ∧
          e.wg = g.id ∧ e.handle = h ∧ e.stage = .pending ∧ e.step = 0 ∧ e.acc = [] ∧
          e.frames = (List.range 4).map (fun i => if pbBlk pb i = 0xF then none else g.blkFrame (pbBlk pb i)) ∧
          t.wg? g.id = some { g with reqs := g.reqs.set h { gen := gen, op := some e.id } } ∧ ∃ m ∈ t.agenda, m.what = .mxGrant cl) ∧
      (c = 0 → 32 ≤ (k.s.mx.entries.filter fun e => e.cluster == cl).length ∨ (g.reqs.findIdx? fun x => x.op.isNone) = none →
        ∃ t op, exec (.mxPost o) s = .next t ∧ t.fe.llops = op :: k.s.fe.llops ∧ op.lanes = k.act ∧ op.flag = k.f.flag o.fsel ∧ op.writes = [] ∧
          op.queue = some (k.s.issuer k.f k.w, [(l, .post 0 pb)]) ∧ t.mx = k.s.mx ∧ t.fe.wgs = k.s.fe.wgs ∧ k.s.keepsBytes t ∧
          ∃ m ∈ t.agenda, m.what = .longLatencyComplete op.id)) ∧
    (∀ wg off, a.toNat % 16 = 0 → k.s.stageAddr g a 0 0 16 true = .ok (wg, off) →
      let d := leOf (k.s.stageBytes wg off 16)
      let c := k.s.mxBlockStatus g d
      let frame := (List.range 8).find? fun n => (k.s.mxFrame cl n).isNone
      let free := g.blks.findIdx? fun x => x.op.isNone
      (c ≠ 0 → ∃ t, gives (.mxBload o) t (excStatus c) ∧ t.mx = k.s.mx) ∧
      (c = 0 → frame = none ∨ free = none → ∃ t, gives (.mxBload o) t 0x80000208 ∧ t.mx = k.s.mx) ∧
      (∀ n h, c = 0 → frame = some n → free = some h →
        let gen := ((g.blks[h]?).getD {}).gen + 1
        ∃ t x, gives (.mxBload o) t (BitVec.ofNat 32 (h + 8 * (gen % 2 ^ 27) + 2 ^ 30)) ∧ t.mxFrame cl n = some x ∧ x.wg = g.id ∧ x.handle = h ∧
          x.desc = d ∧ x.loaded = false ∧ t.wg? g.id = some { g with blks := g.blks.set h { gen := gen, op := some n } } ∧
          ∃ m ∈ t.agenda, m.what = .mxBlockLoadComplete cl n)) ∧
    (k.s.mxPending g a = .none → exec (.mxWait o) s = .next joined ∧
      ∃ t, exec (.mxPoll o) s = .next t ∧ t.warp? k.f.core k.f.slot = some (k.w.setPred k.act o.d.toNat fun _ => true) ∧ k.s.keepsBytes t) ∧
    (∀ id, k.s.mxPending g a = .matrix id → stands (.mxWait o) (.matrix id) ∧
      exec (.mxPoll o) s = .next (k.s.setWarp (k.w.setPred k.act o.d.toNat fun _ => false))) ∧
    (g.reqNamed a = none → g.blkNamed a = none → k.s.mxPending g a = .none) ∧
    (g.blkNamed a = none → exec (.mxBfree o) s = .next k.s) ∧
    (∀ h n, g.blkNamed a = some (h, n) → ∃ t g', exec (.mxBfree o) s = .next t ∧ t.wg? g.id = some g' ∧ g'.blkFrame h = none ∧
      ({ g' with blks := g.blks } = g) ∧ (∀ x ∈ t.mx.frames, x.cluster = clusterOf g.core → x.frame = n → x.unbound = true) ∧
      t.mx.entries = k.s.mx.entries ∧ t.fe.warps = k.s.fe.warps ∧ k.s.keepsBytes t) ∧
    (∀ wg off fm, let sl := k.s.slotOf k.w o.fs.toNat
      sl.format?.bind SlotFmt.published = some fm → k.s.stageAddr g a 0 4 4 true = .ok (wg, off) →
      k.s.mxPending g (BitVec.ofNat 32 (k.n o l)) = .none →
      ∃ t, gives (.mxAccrd o) t (BitVec.ofNat 32 (fm.round sl.mode sl.sat
        ((fmt32.decode (k.s.stageRead wg off 4)).scale (-(sl.scaleExp (k.s.kreg k.w))))))) ∧
    ((k.s.slotOf k.w o.fs.toNat).format?.bind SlotFmt.published = none →
      exec (.mxAccrd o) s = .next (k.s.trapHere k.f k.w k.act { kind := 0x0E11 }))

/-- R99, R100, R102, R103: how a K-block's sum joins the accumulator. A token stays; a sum that is no number, or an addition that gives none, leaves the
token of the block's tag; another sum is rounded once and added once. A split's partial is added likewise with the split's tag.
R98: alignment of a K-block of finite elements: with E the highest exponent of an element that is not zero, every element becomes a multiple of
2^(E - 14) with its sign, of magnitude the rounding to nearest of its own. -/
def Obligations.MatrixArithmetic : Prop :=
  (
    ∀ (align : Option Nat) (acc tag p : Nat) (xs ys : List FVal) (as bs : List (List FVal)),
      let token (t : Nat) : Nat := 0x7FE00000 + t % 2 ^ 21
      let isTok (x : Nat) : Prop := x / 2 ^ 21 = 0x3FF
      accBlocks align acc tag (xs :: as) (ys :: bs) = accBlocks align (accStep acc tag (blockSum align xs ys)) (tag + 1) as bs ∧
      (isTok acc → (∀ v, accStep acc tag v = acc) ∧ combine acc tag p = acc ∧ initValue acc = acc ∧ accBlocks align acc tag as bs = acc) ∧
      (¬ isTok acc → accStep acc tag .nan = token tag ∧
        (∀ v, v ≠ .nan → let r := fmt32.add .rn acc (fmt32.round .rn false v)
          (fmt32.isNaN r = false → accStep acc tag v = r) ∧ (fmt32.isNaN r = true → accStep acc tag v = token tag)) ∧
        (isTok p → combine acc tag p = p) ∧
        (¬ isTok p → (fmt32.isNaN (fmt32.add .rn acc p) = false → combine acc tag p = fmt32.add .rn acc p) ∧
          (fmt32.isNaN (fmt32.add .rn acc p) = true → combine acc tag p = token tag)) ∧
        (fmt32.isNaN acc = true → initValue acc = token 0x1FFFFF) ∧ (fmt32.isNaN acc = false → initValue acc = acc)) ∧
      (tag < 2 ^ 21 → isTok (token tag) ∧ fmt32.isNaN (token tag) = true)) ∧
  (
    ∀ (t : Nat) (xs : List FVal) (emax : Int), (∃ x ∈ xs, topExp t x = some emax) → (∀ x ∈ xs, ∀ e, topExp t x = some e → e ≤ emax) →
      (alignBlock t xs).length = xs.length ∧
      ∀ (i : Nat) (s : Bool) (m : Nat) (e : Int), xs[i]? = some (FVal.num s m e) →
        (alignBlock t xs)[i]? = some (FVal.num s (roundScaled .rn s m (e + 14 - emax)) (emax - 14)))

/-- R146, R153 to R157: the engine's own steps, for workgroups that have warps and whose stage memory in use has a core. While an operation runs in a
cluster no other is granted; the one granted was pending with its blocks loaded, and every other pending entry of the cluster has waited once more. A
block that is loaded holds its columns' values. A step's results go out as rows of the output, and after the last step the entry is gone. A split's
member leaves its partial with split 0 once that is posted; split 0 ends once it has every partial. -/
def Obligations.MatrixSteps : Prop :=
  ∀ (s : State) (cl : Nat),
    ((∃ e ∈ s.mx.entries, e.cluster = cl ∧ e.stage = .running) → exec (.mxGrant cl) s = .next s) ∧
    (∀ e, (∀ x ∈ s.mx.entries, x.cluster = cl → x.stage ≠ .running) → s.mxChoice cl = some e →
      (e ∈ s.mx.entries ∧ e.cluster = cl ∧ e.stage = .pending ∧ s.mxLoaded e = true) ∧
      ∃ t, exec (.mxGrant cl) s = .next t ∧ (∃ x ∈ t.mx.entries, x.id = e.id ∧ x.stage = .running ∧ x.pb = e.pb) ∧
        (∀ x ∈ s.mx.entries, x.id ≠ e.id → x.cluster = cl → x.stage = .pending →
          { x with passed := x.passed + 1 } ∈ t.mx.entries) ∧
        (∀ x ∈ s.mx.entries, x.id ≠ e.id → x.cluster ≠ cl → x ∈ t.mx.entries) ∧ t.mx.frames = s.mx.frames ∧
        (∃ m ∈ t.agenda, m.what = .mxOperationComplete cl) ∧ s.keepsBytes t ∧ t.fe.warps = s.fe.warps) ∧
    (∀ n x g f, s.mxFrame cl n = some x → x.loaded = false → s.wg? x.wg = some g → mxFmtOf (bdFmt x.desc) (s.wgSlot g (bdSlot x.desc)) = some f →
      (∃ w ∈ s.fe.warps, w.wg = x.wg) → s.mxAway g [bdAddr x.desc] = false → ∃ t, exec (.mxBlockLoadComplete cl n) s = .next t ∧ t.mxFrame cl n = some { x with
        loaded := true, again := false, resumed := false,
        cols := (List.range (bdN x.desc)).map fun j =>
          s.mxRow g (s.mxOperand g (bdAddr x.desc) f (bdSlot x.desc)) (j * bdStr x.desc) (bdK x.desc) } ∧
        t.fe = s.fe ∧ s.keepsBytes t ∧ ∃ m ∈ t.agenda, m.what = .mxGrant cl) ∧
    (∀ e g wg off, (s.mx.entries.find? fun x => x.cluster == cl && x.stage == .running) = some e → s.wg? e.wg = some g → e.step = 0 →
      pbAwin e.pb = false → pbKs e.pb = 0 → pbSteps e.pb = 1 → pbM e.pb = 1 → pbOconv e.pb = false →
      s.mxPlace g (pbAddr e.pb 0x20) 0 ((4 * pbN e.pb : Nat) : Int) = some (wg, off) → (∃ w ∈ s.fe.warps, w.wg = e.wg) →
      (∀ x ∈ s.mx.entries, x.id = e.id → x = e) → s.mxAway g (pbUses e.pb) = false →
      ∃ t, exec (.mxOperationComplete cl) s = .next t ∧ (∀ x ∈ t.mx.entries, x.id ≠ e.id) ∧ s.keepsBytes t ∧
        ∀ j, j < pbN e.pb →
          let row := ((s.mxRowsStage g e 0)[0]?).getD []
          let align := (mxFmtOf (pbAfmt e.pb) (s.wgSlot g (pbAslot e.pb))).bind MxFmt.align
          t.stageRead wg (off + 4 * j) 4 =
            accBlocks align (mxInit e 0 0 j) (pbKbt e.pb) (chunksOf 32 (pbKb e.pb) row) (s.mxColumn e j (pbKb e.pb)) % 2 ^ 32) ∧
    ((∀ e ∈ s.mx.entries, e.cluster = cl → e.stage ≠ .reducing) → exec (.mxReduction cl) s = .next s) ∧
    (∀ e, (s.mx.entries.filter fun x => x.cluster == cl && x.stage == .reducing) = [e] → pbSpk e.pb = 0 →
      (∃ j, 1 ≤ j ∧ j ≤ pbKs e.pb ∧ ∀ p ∈ s.mxGiven e, p.spk ≠ j) → exec (.mxReduction cl) s = .next s) ∧
    (∀ e g, (s.mx.entries.filter fun x => x.cluster == cl && x.stage == .reducing) = [e] → pbSpk e.pb = 0 → s.wg? e.wg = some g →
      (∀ j, 1 ≤ j → j ≤ pbKs e.pb → ∃ p ∈ s.mxGiven e, p.spk = j) → (∃ w ∈ s.fe.warps, w.wg = e.wg) →
      s.mxAway g [pbAddr e.pb 0x34, pbAddr e.pb 0x20] = false →
      ∃ t, exec (.mxReduction cl) s = .next t ∧ (∀ x ∈ t.mx.entries, x.id ≠ e.id) ∧ (∀ p ∈ t.mx.partials, p ∉ s.mxGiven e) ∧ s.keepsBytes t ∧
        t.fe.warps = s.fe.warps) ∧
    (∀ e z g, (s.mx.entries.filter fun x => x.cluster == cl && x.stage == .reducing) = [e] → pbSpk e.pb ≠ 0 → s.mxSplit0 e = some z →
      s.wg? z.wg = some g → (∃ w ∈ s.fe.warps, w.wg = e.wg) → s.mxAway g [pbAddr e.pb 0x34] = false →
      ∃ t p, exec (.mxReduction cl) s = .next t ∧ t.mx.partials = s.mx.partials ++ [p] ∧ p.spk = pbSpk e.pb ∧ p.kbt = pbKbt e.pb ∧
        p.launch = e.launch ∧ p.group = pbGroup e.pb ∧ (∀ x ∈ t.mx.entries, x.id ≠ e.id) ∧ s.keepsBytes t)

/-- R364, R365, R305, R306: launching and waiting from the device, in one lane with nothing outstanding; as a release, dlaunch works in a state whose
die has seen every write performed so far (log entry 34, DESIGN CHOICE). dlaunch answers with its refusal, or takes the lowest free tag and a new
generation for a child of its own launch, whose identifier is its result. dwait goes on, an acquire, where the children of its lanes have completed; a
lane whose child has not waits at the instruction. -/
def Obligations.LaunchForms : Prop :=
  ∀ (s : State) (o : Operands) (k : Work),
    let va (l : Nat) : Nat := (srcA64 k.w o l).toNat
    let die := dieOf k.f.core
    let k0 : State := k.s.catchUp die
    (∀ l, s.workLL o = some k → k.quiet = true → lanesOf k.act = [l] →
      let result (v : Word) : List RegWrite := [{ lane := l, reg := o.d.toNat, val := v }]
      let gives (v : Word) : Prop := exec (.dlaunch o) s = .next (k0.llResult k.f k.w k.act o.fsel [o.d.toNat] (result v))
      let reads (bs : List Byte) : Prop := k0.vread (Who.front (k0.ctxOf k.w) k.f) k.f.core (k.w.supIn k.f) .read none (va l) 512 = .ok bs
      (va l % 64 ≠ 0 → exec (.dlaunch o) s = .next (k0.trapHere k.f k.w k.act { kind := 0x0E12, lmask := k.act })) ∧
      (∀ bs p, va l % 64 = 0 → reads bs → k0.launchOf k.w = some p →
        (k0.regionOf p = none → ∀ w1, (k0.regionFault p).warp? k.f.core k.f.slot = some w1 →
          exec (.dlaunch o) s = .next ((k0.regionFault p).llResult k.f w1 k.act o.fsel [o.d.toNat] (result 0x80000106))) ∧
        (∀ a r chain, k0.regionOf p = some ((a, r) :: chain) →
          (effective 2 Rcb.dlslot ((a, r) :: chain) ≤ r.duse → gives 0x80000907) ∧
          (r.duse < effective 2 Rcb.dlslot ((a, r) :: chain) → k0.freeTag = none → gives 0x80000907) ∧
          (∀ tag, r.duse < effective 2 Rcb.dlslot ((a, r) :: chain) → k0.freeTag = some tag →
            let gen := ((smGet k0.alm.gens tag).toNat + 1) % 2 ^ 18
            ∃ t op, exec (.dlaunch o) s = .next t ∧ op ∈ t.fe.llops ∧ op.lanes = k.act ∧ op.flag = k.f.flag o.fsel ∧
              op.writes = result (BitVec.ofNat 32 (tag + 2 ^ 13 * gen)) ∧
              (smGet t.alm.gens tag).toNat = gen ∧ (∀ n, n ≠ tag → smGet t.alm.gens n = smGet k0.alm.gens n) ∧
              t.alm.graphs = k0.alm.graphs ∧
              ∀ x ∈ t.alm.launches, x ∈ k0.alm.launches ∨
                (x.tag = tag ∧ x.gen = gen ∧ x.ctx = p.ctx ∧ x.home = die ∧ x.origin = .child p.rcb p.id ∧ x.next = 0))))) ∧
    (s.work o = some k → k.f.grid = false →
      let done (l : Nat) : Prop := k.s.childDone (k.s.ctxOf k.w) (k.a o l) = true
      ((∀ l ∈ lanesOf k.act, done l) → exec (.dwait o) s = .next ((k.s.joinAll k.f.core (k.s.ctxOf k.w)).poke die)) ∧
      ((∃ l ∈ lanesOf k.act, ¬ done l) → ∃ t w', exec (.dwait o) s = .next t ∧ t.warp? k.f.core k.f.slot = some w' ∧ w'.regs = k.w.regs ∧
        (∀ l ∈ lanesOf k.act, ¬ done l → l < k.w.threads.length → (w'.thread l).wait = .child (k.a o l) ∧ (w'.thread l).pc = k.f.pc ∧
          (w'.thread l).clh = some k.f.hdr) ∧ k.s.keepsBytes t ∧ k.s.keepsUnits t ∧ k.s.keepsOthers t k.w))

/-- R366 to R369, R288: queues from a kernel, the clocks and the counters. qpost answers with its refusal, or writes the packet, kicks the queue, and
answers with the index; qkick is one kick, or a violation where the queue lies outside the share. As releases, both
work in a state whose die has seen every write performed so far (log entry 34, DESIGN CHOICE). A clock is read once for the die; a counter of the
warp, and one whose event code is 0, read as they stand. -/
def Obligations.QueueAndClockForms : Prop :=
  ∀ (s : State) (o : Operands) (k : Work) (l : Nat),
    let ctx := k.s.ctxOf k.w
    let k0 : State := k.s.catchUp (dieOf k.f.core)
    (s.workLL o = some k → k.quiet = true → lanesOf k.act = [l] →
      let va := (srcA64 k.w o l).toNat
      let q := k.n o l
      let ki := k0.qKi q
      let result (v : Word) : List RegWrite := [{ lane := l, reg := o.d.toNat, val := v }]
      let gives (v : Word) : Prop := exec (.qpost o) s = .next (k0.llResult k.f k.w k.act o.fsel [o.d.toNat] (result v))
      let slots := 2 ^ k0.qLog q
      ∀ bs, va % 64 = 0 → k0.vread (Who.front ctx k.f) k.f.core (k.w.supIn k.f) .read none va 64 = .ok bs →
        (k0.inShare ctx q = false →
          ∃ t op, exec (.qpost o) s = .next t ∧ op ∈ t.fe.llops ∧ op.writes = result 0x80000909 ∧
            t.mem = (k0.shareDenied ctx k.f.core q).mem) ∧
        (k0.inShare ctx q = true → k0.qEn q = false → gives 0x8000090A) ∧
        (k0.inShare ctx q = true → k0.qEn q = true → slots ≤ (ki + 2 ^ 32 - k0.qRd q) % 2 ^ 32 → gives 0x80000908) ∧
        (∀ s1, k0.inShare ctx q = true → k0.qEn q = true → (ki + 2 ^ 32 - k0.qRd q) % 2 ^ 32 < slots → k0.qField q 0 8 % 4096 = 0 →
          k0.vwrite (Who.almanac (k0.qCtx q) (k0.qHome q)) (k0.qHome q * Config.coresPerDie) true (k0.qField q 0 8 + 64 * (ki % slots)) bs = (none, s1) →
          ∃ t op, exec (.qpost o) s = .next t ∧ op ∈ t.fe.llops ∧ op.lanes = k.act ∧ op.writes = result (BitVec.ofNat 32 (ki % 2 ^ 31)) ∧
            let kicked := s1.applyKick ctx 0 k.f.core q (BitVec.ofNat 64 ((ki + 1) % 2 ^ 32))
            t.mem = kicked.mem ∧ t.alm = kicked.alm)) ∧
    (s.work o = some k → k.quiet = true → lanesOf k.act = [l] →
      exec (.qkick o) s = .next (
        if k0.inShare ctx (k.a o l).toNat = true then k0.applyKick ctx 0 k.f.core (k.a o l).toNat ((srcBn k0 k.f k.w o l).setWidth 64)
        else k0.shareDenied ctx k.f.core (k.a o l).toNat)) ∧
    (s.work o = some k →
      exec (.clock .cal o) s = .next (k.put64 o fun _ => BitVec.ofNat 64 (k.s.cal (dieOf k.f.core))) ∧
      exec (.clock .ck o) s = .next (k.put64 o fun _ => BitVec.ofNat 64 (k.s.ck (dieOf k.f.core))) ∧
      (∀ v : DWord, (∀ l ∈ lanesOf k.act,
          (k.n o l = 0 ∧ v = BitVec.ofNat 64 k.w.issued) ∨ (k.n o l = 1 ∧ v = BitVec.ofNat 64 k.w.bissue) ∨
          (k.n o l = 2 ∧ v = BitVec.ofNat 64 k.w.stallck) ∨ (k.n o l = 3 ∧ v = BitVec.ofNat 64 k.w.gretire) ∨
          (k.n o l = 4 ∧ v = BitVec.ofNat 64 k.w.drains) ∨ ((7 ≤ k.n o l ∧ k.n o l < 16 ∨ 64 ≤ k.n o l) ∧ v = 0) ∨
          (∃ j, j < 48 ∧ k.n o l = 16 + j ∧ v = smGet k.s.iso.perf (48 * ctx + j) ∧
            ∀ c, k.s.ctx? ctx = some c → (c.pcsel[j]?).getD 0 = 0)) →
        ∃ t w', exec (.perfrd o) s = .next t ∧ t.warp? k.f.core k.f.slot = some w' ∧
          (∀ l ∈ lanesOf k.act, w'.pair l o.d.toNat = v) ∧ (∀ l r, l < 32 → r ≠ o.d.toNat → r ≠ o.d.toNat + 1 → w'.reg l r = k.w.reg l r) ∧
          w'.preds = k.w.preds ∧ w'.flags = k.w.flags ∧ w'.threads = k.w.threads ∧ t.mem = k.s.mem ∧ k.s.keepsUnits t ∧
          k.s.keepsOthers t k.w))

/-- R287 to R290, R307 to R309: kicks of the host, the unmapping of an idle queue, and the dispatchers' rounds. A kick through a virtual function goes
to the queue at its place in the tenant's share, and one outside the share is a violation; before boot completes a kick does nothing (01 R22); one that
is rejected is logged. A round of a lost die does nothing, one with nothing ready starts nothing, and the one ready item of the highest effective
priority is served; the next round at that priority starts after it (log entry 7, DESIGN CHOICE). -/
def Obligations.QueuesAndRounds : Prop :=
  ∀ (s : State) (value : DWord) (q n offset die : Nat),
    (s.boot.released = false → ∀ fn, exec (.kickRegisterWrite fn offset value) s = .next s) ∧
    (s.boot.released = true → q < 4096 → exec (.kickRegisterWrite none (8 * q) value) s = .next (s.applyKick 0 4 0 q value)) ∧
    (s.boot.released = true → offset % 8 ≠ 0 → (offset / 8 < (s.share n).length) → ∀ fn ∈ [none, some n], exec (.kickRegisterWrite fn offset value) s = .next s) ∧
    (s.boot.released = true → (s.share n)[offset / 8]? = some q → offset % 8 = 0 →
      exec (.kickRegisterWrite (some n) offset value) s = .next (s.applyKick 0 4 (n + 1) q value)) ∧
    (s.boot.released = true → (s.share n)[offset / 8]? = none →
      exec (.kickRegisterWrite (some n) offset value) s = .next (s.violation (some n) (offset + 2 ^ 63) 0 vQueueShare 4 (n + 1))) ∧
    (s.qForeign q = false →
      let w := value.toNat % 2 ^ 32
      let dist := (w + 2 ^ 32 - s.qKi q) % 2 ^ 32
      s.qEn q = false ∨ 2 ^ 32 ≤ value.toNat ∨ dist = 0 ∨ 2 ^ (s.qLog q - 1) < dist →
      s.applyKick 0 4 0 q value = (s.idleTimer q).kickLog q false false w) ∧
    (∀ x, s.queue? q = some x →
      (x.mapped = true → s.qEmpty x = true → x.idleSince + s.qIdle q ≤ s.now →
        ∃ t, exec (.queueIdleUnmap q) s = .next t ∧ t.queue? q = some { x with mapped := false, age := 0 } ∧
          (∀ p, p ≠ q → t.queue? p = s.queue? p) ∧ { t with alm := s.alm } = s) ∧
      (x.mapped = false ∨ s.qEmpty x = false ∨ s.now < x.idleSince + s.qIdle q → exec (.queueIdleUnmap q) s = .next s)) ∧
    (s.links.lost.contains die = true → exec (.dispatchRound die) s = .next s) ∧
    (s.links.lost.contains die = false → s.parkReady die = s → s.alm.launches.foldl State.regionGone s = s →
      let served (t u : State) : Prop := t.mem = u.mem ∧ t.fe = u.fe ∧ t.eng = u.eng ∧ t.now = u.now
      (s.readyItems die = [] → ∃ t, exec (.dispatchRound die) s = .next t ∧ served t s ∧ t.alm.queues = s.alm.queues ∧ t.alm.graphs = s.alm.graphs) ∧
      ∀ key p, (s.readyItems die).filter (fun i => decide (p ≤ i.2)) = [(key, p)] →
        (∀ u, s.serve die key = some u → ∃ t, exec (.dispatchRound die) s = .next t ∧ served t u ∧ t.alm.graphs = u.alm.graphs ∧
          smGet t.alm.rr (16 * die + p) = BitVec.ofNat 32 (key + 1)) ∧
        (s.serve die key = none → ∃ t, exec (.dispatchRound die) s = .next t ∧ served t s ∧ smGet t.alm.rr (16 * die + p) = BitVec.ofNat 32 key))

/-- R300, R302 to R304, R423, R424: the nodes of a graph. A ready node of a graph that is not stopping runs: a COPY becomes an engine operation, a
HOSTRING owes its copy, a COND chooses its successors by its comparison and asks for a rearm where it holds and is armed, and a KERNEL begins a launch
under its graph's tag. A node that ends while another runs takes one from the count of each successor, and a successor whose count comes to 0 is ready
and fires. After the last node the graph completes, or its next iteration begins where a rearm was asked for. A HOSTRING whose ring is full tries again;
one with room steps RPOS and PEND, and raises its vector where PEND has come to CCNT; its timer, while another node runs, writes PEND as 0 and raises
its vector. An access that meets a fault which can be serviced holds the node, to be made again. -/
def Obligations.GraphNodes : Prop :=
  ∀ (s : State) (g k : Nat) (x : Graph) (n : GNode), s.gnode? g k = some (x, n) →
    let owes (t : State) (i : Instr) : Prop := ∃ m ∈ t.agenda, m.what = i
    (n.st ≠ .ready ∨ x.failed.isSome = true ∨ x.killed.isSome = true → exec (.graphNodeFire g k) s = .next s) ∧
    (n.st = .ready → x.failed = none → x.killed = none →
      let s1 := s.updNode g k fun n => { n with st := .running }
      (n.typ = 0 → ∃ t, exec (.graphNodeFire g k) s = .next t ∧ ∀ l ∈ t.alm.launches, l ∈ s.alm.launches ∨
        (l.tag = x.tag ∧ l.gen = x.gen ∧ l.ctx = x.ctx ∧ l.home = x.home ∧ l.origin = .node g k)) ∧
      (∀ bs, n.typ = 0 → n.at_ 0x10 8 % 64 = 0 → s1.almRead x.ctx x.home (n.at_ 0x10 8) 512 = .ok bs →
        exec (.graphNodeFire g k) s = .next (({ s1 with nonce := s1.nonce + 1 }).beginLaunch
          { id := s1.nonce, tag := x.tag, gen := x.gen, ctx := x.ctx, home := x.home, origin := .node g k,
            recAddr := BitVec.ofNat 64 (n.at_ 0x10 8) } bs)) ∧
      (n.typ = 1 → ∃ t x', exec (.graphNodeFire g k) s = .next t ∧ t.gnode? g k = some (x', { n with st := .running }) ∧
        (∃ o ∈ t.eng.ops, o.owner = .node g k ∧ o.form = .plain (n.at_ 0x10 8) (n.at_ 0x18 8) (n.at_ 0x20 4) ∧ owes t (.btChunkComplete o.id 0)) ∧
        t.mem = s.mem) ∧
      (n.typ = 2 → ∃ t x', exec (.graphNodeFire g k) s = .next t ∧ t.gnode? g k = some (x', { n with st := .running }) ∧
        owes t (.hostringRecordCopy g k) ∧ t.mem = s.mem) ∧
      (n.typ = 3 → ∀ b, s1.condHolds x n = .ok b → ∃ t x', exec (.graphNodeFire g k) s = .next t ∧
        t.gnode? g k = some (x', { n with st := .running, chosen := if b = true then (if n.arm = true then 0 else n.succ) else n.fsucc }) ∧
        x'.rearm = (x.rearm || (b && n.arm)) ∧ owes t (.graphNodeEnd g k) ∧ t.mem = s.mem)) ∧
    (n.st ≠ .running → exec (.graphNodeEnd g k) s = .next s) ∧
    (n.st = .running → x.failed = none → x.killed = none → (∃ j m, j ≠ k ∧ x.nodes[j]? = some m ∧ m.st = .running) →
      let mask := if n.typ = 3 then n.chosen else n.succ
      mask.getLsbD k = false →
      ∃ t x', exec (.graphNodeEnd g k) s = .next t ∧ t.gnode? g k = some (x', { n with st := .ended }) ∧ t.mem = s.mem ∧ t.fe = s.fe ∧
        ∀ j m, j ≠ k → x.nodes[j]? = some m →
          (mask.getLsbD j = true →
            t.gnode? g j = some (x', { m with count := m.count - 1, st := if m.count = 1 ∧ m.st = .idle then .ready else m.st }) ∧
            (m.count = 1 → m.st = .idle → owes t (.graphNodeFire g j))) ∧
          (mask.getLsbD j = false → t.gnode? g j = some (x', m))) ∧
    (n.st = .running → x.failed = none → x.killed = none → (if n.typ = 3 then n.chosen else n.succ) = 0 →
      (∀ j m, j ≠ k → x.nodes[j]? = some m → m.st ≠ .running ∧ m.st ≠ .ready) → (∀ m ∈ x.nodes, m.typ = 2 → m.pend = 0) →
      (x.rearm = false → exec (.graphNodeEnd g k) s = .next
        ((({ s with alm := { s.alm with graphs := s.alm.graphs.filter fun y => y.id != g } }).putCompletion x.ctx x.home x.compl 2 0 x.tag 0 x.tstart.toNat
          x.iter).packetComplete x.q x.idx x.tag none).pokeAll) ∧
      (x.rearm = true → x.iter < x.maxit → ∃ t x', exec (.graphNodeEnd g k) s = .next t ∧ t.mem = s.mem ∧ x'.iter = x.iter + 1 ∧ x'.rearm = false ∧
        ∀ j m, x.nodes[j]? = some m → t.gnode? g j = some (x', { m with
          count := m.npred, st := if m.npred = 0 then .ready else .idle, chosen := 0 }) ∧ (m.npred = 0 → owes t (.graphNodeFire g j)))) ∧
    (n.typ ≠ 2 ∨ n.st ≠ .running → exec (.hostringRecordCopy g k) s = .next s) ∧
    (n.typ = 2 → n.st = .running →
      (s.ringPlan x n = .ok none → ∃ t, exec (.hostringRecordCopy g k) s = .next t ∧ owes t (.hostringRecordCopy g k) ∧ t.mem = s.mem ∧
        t.irqs = s.irqs) ∧
      (∀ kd va, s.ringPlan x n = .error (kd, va) → heldKind kd = true → ∃ t x' n', exec (.hostringRecordCopy g k) s = .next t ∧
        t.gnode? g k = some (x', n') ∧ n'.held = some (kd, va) ∧ n'.st = .running ∧ n'.rpos = n.rpos ∧ n'.pend = n.pend ∧
        owes t (.hostringRecordCopy g k)) ∧
      ∀ rec_ s1, s.ringPlan x n = .ok (some rec_) →
        let full := bitsAt (n.at_ 0x20 4) 20 8 ≤ n.pend + 1
        let rpos := (n.rpos.toNat + 1) % 2 ^ 32
        let put (a : Option (Nat × Nat) × State) (w : Nat × List Byte) : Option (Nat × Nat) × State :=
          match a.1 with
          | some _ => a
          | none => a.2.vwrite (Who.almanac x.ctx x.home) (x.home * Config.coresPerDie) true w.1 w.2
        (ringWrites n rec_ rpos (if full then 0 else n.pend + 1)).foldl put (none, s) = (none, s1) →
        ∃ t x' n', exec (.hostringRecordCopy g k) s = .next t ∧ t.gnode? g k = some (x', n') ∧ n'.rpos = BitVec.ofNat 32 rpos ∧
          n'.pend = (if full then 0 else n.pend + 1) ∧ owes t (.graphNodeEnd g k) ∧
          (¬ full → n.pend = 0 → n'.timer = some (s.now + 2000 * n.at_ 0x24 2) ∧ owes t (.hostringCtimeExpiry g k)) ∧
          (full → n.vec < 64 → ((if s1.qCtx x.q = 0 then none else some (s1.qTen x.q)), n.vec) ∈ t.irqs)) ∧
    (n.timer = none ∨ n.pend = 0 ∨ (∃ at_, n.timer = some at_ ∧ s.now < at_) → exec (.hostringCtimeExpiry g k) s = .next s) ∧
    (∀ at_, n.timer = some at_ → at_ ≤ s.now → n.pend ≠ 0 → x.nodes.any (fun m => m.st == .running) = true →
      let pend := s.vwrite (Who.almanac x.ctx x.home) (x.home * Config.coresPerDie) true (n.addr.toNat + 0x3C) (bytesOf 4 0)
      (∀ s1, pend = (none, s1) → ∃ t x', exec (.hostringCtimeExpiry g k) s = .next t ∧
        t.gnode? g k = some (x', { n with pend := 0, timer := none, held := none, noted := [] }) ∧ t.mem = (s1.queueIrq x.q n.vec).mem ∧
        (n.vec < 64 → ((if s1.qCtx x.q = 0 then none else some (s1.qTen x.q)), n.vec) ∈ t.irqs)) ∧
      (∀ kd va s1, pend = (some (kd, va), s1) → heldKind kd = true → ∃ t x' n', exec (.hostringCtimeExpiry g k) s = .next t ∧
        t.gnode? g k = some (x', n') ∧ n'.held = some (kd, va) ∧ n'.pend = n.pend ∧ owes t (.hostringCtimeExpiry g k)))

/-- R203, R392, R393, 17 R406: the invalidates, tlbsync and fault.done, in one lane in supervisor mode. The checks come in the order of R392; an
invalidate then removes what it covers and stands until its warp's tlbsync, which waits for the accesses that it covers. With no placement record in
the caches, no translation of the context that meets the addresses is left in any TLB, and every other one is. -/
def Obligations.Invalidates : Prop :=
  ∀ (s : State) (o : Operands) (k : Work) (l : Nat), k.w.supIn k.f = true → lanesOf k.act = [l] → k.f.grid = false →
    let ctx := k.s.ctxOf k.w
    let a := srcA64 k.w o l
    let n := (srcBn k.s k.f k.w o l).toNat % 256
    let count := (srcBn k.s k.f k.w o l).toNat / 256
    let raises (i : Instr) (kind : Nat) : Prop := exec i s = .next (k.s.trapHere k.f k.w k.act { kind := kind, lmask := k.act })
    let far (i : Instr) : Prop := exec i s = .next (k.s.trapHere k.f k.w k.act
      { kind := 0x0E30, errs := [{ lane := l, kind := 0x0E30, va := a.toNat, page := 4096 }] })
    let removes (i : Instr) (c : Option Nat) (lo hi : Nat) : Prop :=
      exec i s = .next (k.s.startInv k.w.wg k.w.sub c lo hi) ∧
      (k.s.grid.recs = [] → ∀ t, exec i s = .next t → ∀ x, x ∈ t.iso.tlb ↔
        x ∈ k.s.iso.tlb ∧ ¬ (c.all (· == x.ctx) = true ∧ x.va < hi ∧ lo < x.va + x.size))
    let allowed := ctx = 0 ∨ n = ctx
    (s.work o = some k →
      (¬ allowed → raises (.tlbinvPage o) 0x0E05 ∧ raises (.tlbinvRange o) 0x0E05 ∧ raises (.tlbinvCtx o) 0x0E05) ∧
      (ctx ≠ 0 → raises (.tlbinvAll o) 0x0E05) ∧
      (allowed → count ≠ 0 → raises (.tlbinvPage o) 0x0E02 ∧ raises (.tlbinvCtx o) 0x0E02) ∧
      (allowed → count = 0 ∨ a.toNat % 4096 ≠ 0 → raises (.tlbinvRange o) 0x0E02) ∧
      (allowed → count = 0 → 2 ^ 56 ≤ a.toNat → far (.tlbinvPage o)) ∧
      (allowed → count ≠ 0 → a.toNat % 4096 = 0 → 2 ^ 56 ≤ a.toNat → far (.tlbinvRange o)) ∧
      (allowed → count = 0 → a.toNat < 2 ^ 56 → removes (.tlbinvPage o) (some n) a.toNat (a.toNat + 1)) ∧
      (allowed → count ≠ 0 → a.toNat % 4096 = 0 → a.toNat < 2 ^ 56 →
        removes (.tlbinvRange o) (some n) a.toNat (a.toNat + 4096 * count)) ∧
      (allowed → count = 0 → removes (.tlbinvCtx o) (some n) 0 (2 ^ 64)) ∧
      (ctx = 0 → removes (.tlbinvAll o) none 0 (2 ^ 64)) ∧
      exec (.faultDone o) s = .next (k.s.faultDone k.f.core ctx (k.a o l)) ∧
      (k.s.parkedAt k.f.core ctx ((k.a o l).toNat % 2 ^ 31) = none → exec (.faultDone o) s = .next k.s)) ∧
    (s.workLL o = some k →
      let mine := k.s.iso.invs.filter fun x => x.wg == k.w.wg && x.sub == k.w.sub && x.cmd == 0
      let pending := ∃ x ∈ mine, ∃ m ∈ x.reqs, ∃ r, k.s.req? m = some r ∧ r.performed = false
      (pending → exec (.tlbsync o) s = .next (k.s.retry k.f k.w .turn)) ∧
      (¬ pending → (∀ x ∈ mine, x.lost = false) → ∃ t op, exec (.tlbsync o) s = .next t ∧ op ∈ t.fe.llops ∧ op.lanes = k.act ∧
        op.flag = k.f.flag o.fsel ∧ op.writes = [{ lane := l, reg := o.d.toNat, val := 0 }] ∧
        (∀ x, x ∈ t.iso.invs ↔ x ∈ k.s.iso.invs ∧ ¬ (x.wg = k.w.wg ∧ x.sub = k.w.sub ∧ x.cmd = 0)) ∧ t.mem = k.s.mem))

/-- R278, R279, R272, R417: ptab.load, prange.set and link.ctl in one lane in supervisor mode, with nothing outstanding and no rate or range change in
progress. Each answers in its register: zero, or the status of the check that failed, with nothing changed. As releases, ptab.load and prange.set work
in a state whose die has seen every write performed so far (log entry 34, DESIGN CHOICE). A range none of whose lines a die or home holds is set or
cleared at once; the clear of a versioned one closes its windows, and is done when its homes have answered. -/
def Obligations.TableAndLinkForms : Prop :=
  ∀ (s : State) (o : Operands) (k : Work) (l : Nat), s.workLL o = some k → k.w.supIn k.f = true → lanesOf k.act = [l] → k.quiet = true →
    k.s.retuning = false →
    let ctx := k.s.ctxOf k.w
    let k0 : State := k.s.catchUp (dieOf k.f.core)
    let va := (srcA64 k.w o l).toNat
    let b := srcBn k.s k.f k.w o l
    let result (v : Word) : List RegWrite := [{ lane := l, reg := o.d.toNat, val := v }]
    let gives (i : Instr) (t : State) (v : Word) : Prop := exec i s = .next (t.llResult k.f k.w k.act o.fsel [o.d.toNat] (result v))
    let reads (n : Nat) (bs : List Byte) : Prop := k0.vread (Who.front ctx k.f) k.f.core (k.w.supIn k.f) .read none va n = .ok bs
    (∀ bs, reads 8320 bs →
      let slot := b.toNat
      let used := slot < 5 ∨ 15 < slot ∨ ∃ r ∈ k0.mem.ranges, r.slot = slot
      (va % 128 ≠ 0 → gives (.ptabLoad o) k0 0x80000701) ∧
      (va % 128 = 0 → used → gives (.ptabLoad o) k0 0x80000702) ∧
      (va % 128 = 0 → ¬ used → ptableStatus bs ≠ 0 → gives (.ptabLoad o) k0 (excStatus (ptableStatus bs))) ∧
      (va % 128 = 0 → ¬ used → ptableStatus bs = 0 → gives (.ptabLoad o) (k0.loadTable slot bs) 0)) ∧
    (∀ bs, reads 32 bs → ∀ i ∈ ([.prangeSet o, .prangeClear o] : List Instr),
      let e := (rangeOf bs).1
      let clears := (rangeOf bs).2 = 1
      let same (r : RangeEntry) : Prop := r.base = e.base ∧ r.lim = e.lim
      let covers (a : Nat) : Prop := e.base ≤ a ∧ a < e.lim
      let closing := clears ∧ ∃ r, (k0.mem.ranges.find? fun r => r.base == e.base && r.lim == e.lim) = some r ∧ r.vwin = true
      let c := k0.rangeStatus va bs
      (c ≠ 0 → ∃ t op, exec i s = .next t ∧ op ∈ t.fe.llops ∧ op.id = k0.nonce ∧ op.writes = result (excStatus c) ∧ t.mem = k0.mem) ∧
      (c = 0 → (∀ d ∈ k0.mem.die, ¬ covers d.line) → (∀ h ∈ k0.mem.home, ¬ covers h.line) → ∃ t op, exec i s = .next t ∧ op ∈ t.fe.llops ∧
        op.id = k0.nonce ∧
        (¬ closing → op.writes = result 0 ∧ (∀ r, ¬ same r → (r ∈ t.mem.ranges ↔ r ∈ k0.mem.ranges)) ∧
          (∀ r, same r → (r ∈ t.mem.ranges ↔ ¬ clears ∧ r = e)) ∧ t.mem.ranging = []) ∧
        (closing → op.pending = 1 ∧ t.mem.ranges = k0.mem.ranges ∧ (∀ w ∈ t.mem.windows, w.base = e.base → w.closed = true ∧ w.waiting = []) ∧
          ∃ m ∈ t.agenda, m.what = .ackIn e.base))) ∧
    (ctx = 0 →
      let die := dieOf k.f.core
      let s1 : State := { k.s with nonce := k.s.nonce + 1 }
      let all : List Instr := [.linkCtlRd o, .linkCtlRate o, .linkCtlRetire o, .linkCtlClr o]
      (k.s.link? die o.c.toNat = none → ∀ i ∈ all, gives i k.s 0x80000811) ∧
      (∀ x, k.s.link? die o.c.toNat = some x →
        (x.lost = true → ∀ i ∈ all.drop 1, gives i k.s 0x80000812) ∧
        (∀ v, k.s.linkCounter die x b.toNat = some v → gives (.linkCtlRd o) s1 (BitVec.ofNat 32 v)) ∧
        (k.s.linkCounter die x b.toNat = none → gives (.linkCtlRd o) s1 0x80000811) ∧
        (x.lost = false →
          (linkLanes x.link ≤ b.toNat → gives (.linkCtlRetire o) s1 0x80000811) ∧
          (b.toNat < linkLanes x.link → gives (.linkCtlRetire o) (s1.retire die x.link b.toNat) 0) ∧
          (2 ≤ b.toNat → gives (.linkCtlClr o) s1 0x80000811) ∧
          (b.toNat < 2 → ∃ t x', exec (.linkCtlClr o) s = .next t ∧ t.link? die o.c.toNat = some x' ∧
            x' = { x with crc := 0, replay := 0, ce := if b = 1 then 0 else x.ce, ue := if b = 1 then 0 else x.ue } ∧ k.s.keepsBytes t ∧
            (b = 1 → smGet t.links.sce die = 0 ∧ smGet t.links.sue die = 0)) ∧
          (let step := b.toNat % 256
           (2 ^ 24 ≤ b.toNat ∨ Config.ladder.contains step = false → gives (.linkCtlRate o) s1 0x80000811) ∧
           (b.toNat < 2 ^ 24 → Config.ladder.contains step = true → ∃ t x' op, exec (.linkCtlRate o) s = .next t ∧
              t.link? die o.c.toNat = some x' ∧ x'.up = false ∧ x'.waking = true ∧ x'.target = some step ∧ x'.waiters = [k.s.nonce] ∧
              x'.rth = (if b.toNat / 256 = 0 then x.rth else b.toNat / 256) ∧
              op ∈ t.fe.llops ∧ op.id = k.s.nonce ∧ op.pending = 1 ∧ k.s.keepsBytes t)))))

/-- R390, R408 to R412: the commands of CMD as events, and ctx.save. LOAD_CONTEXT puts the entry of the table in force, and is over once what has been
translated through the context's entries is performed; LOAD_TENANT puts the tenant's in force; STOP_CONTEXT disables its context; a bad index is
CMD_PARAM. A save is in progress from its first issue until the context is quiet (log entry 13, DESIGN CHOICE); as a release it works in a state whose
die has seen every write performed so far (log entry 34, DESIGN CHOICE). A save in progress whose context is quiet ends with an image in store and its
context saved; a resume brings back the launches of the image. -/
def Obligations.CommandsAndSave : Prop :=
  (∀ (s : State) (c : Nat),
    (s.iso.ctxtab.toNat % 4096 ≠ 0 ∨ 256 ≤ c → exec (.loadContext c) s = .next (s.cmdStatus 0x0C01)) ∧
    (s.iso.ctxtab.toNat % 4096 = 0 → c < 256 →
      let mine (x : TlbOp) : Bool := x.cmd == 2 && x.ctx == some c
      (s.isDraining c = true → exec (.loadContext c) s = .next (s.later (.loadContext c))) ∧
      (s.isDraining c = false → (∀ x ∈ s.iso.invs, mine x = false) → ∃ t, exec (.loadContext c) s = .next t ∧
        t.ctx? c = some (s.ctxEntry c) ∧ (∀ d, d ≠ c → t.ctx? d = s.ctx? d) ∧
        ((∀ x ∈ s.iso.invs, x.id < s.nonce) → (∀ r ∈ s.grid.recs, r.ctx ≠ c) →
          ((∀ r ∈ s.mem.reqs, r.ctx = c → r.performed = true) → (∀ x ∈ s.mem.fab, x.ctx = c → x.dirty = 0) → t.iso.cmdst = 0) ∧
          ((∃ r, s.req? r.id = some r ∧ r.ctx = c ∧ r.performed = false ∧ r.vline < 2 ^ 64 ∧ 0 < r.page) →
            t.iso.cmdst = s.iso.cmdst ∧ ∃ m ∈ t.agenda, m.what = .loadContext c))) ∧
      (∀ x, s.isDraining c = false → s.iso.invs.find? mine = some x → (s.iso.invs.find? fun y => y.id == x.id) = some x →
        (s.invWaits x = true → exec (.loadContext c) s = .next (s.later (.loadContext c))) ∧
        (s.invWaits x = false → ∃ t, exec (.loadContext c) s = .next t ∧ t.iso.cmdst = 0 ∧ ∀ y ∈ t.iso.invs, y.id ≠ x.id))) ∧
    (s.iso.tentab.toNat % 4096 ≠ 0 ∨ 64 ≤ c → exec (.loadTenant c) s = .next (s.cmdStatus 0x0C01)) ∧
    (s.iso.tentab.toNat % 4096 = 0 → c < 64 → ∃ t, exec (.loadTenant c) s = .next t ∧ t.iso.cmdst = 0 ∧
      (t.iso.tenants.find? fun x => x.id == c) = some (s.tenEntry c) ∧ t.mem = s.mem ∧ t.fe = s.fe ∧ t.alm = s.alm) ∧
    (256 ≤ c → exec (.stopContext c) s = .next (s.cmdStatus 0x0C01) ∧ exec (.flushPlacementCache c) s = .next (s.cmdStatus 0x0C01)) ∧
    (c < 256 → ∃ t, exec (.stopContext c) s = .next t ∧ t.iso.cmdst = 0 ∧ ∀ x ∈ t.iso.ctxs, x.id = c → x.en = false) ∧
    (c < 256 → ∃ t, exec (.flushPlacementCache c) s = .next t ∧ t.iso.cmdst = 0 ∧ (∀ r ∈ t.grid.recs, r.ctx ≠ c) ∧
      ∀ p ∈ t.grid.placing, p.ctx ≠ c)) ∧
  ∀ (s : State) (o : Operands) (k : Work) (l : Nat) (bs : List Byte), s.workLL o = some k → k.w.supIn k.f = true → lanesOf k.act = [l] →
    k.quiet = true → k.s.ctxOf k.w = 0 → (k.w.thread l).laneDone = none →
    let k0 : State := k.s.catchUp (dieOf k.f.core)
    let a := (srcA64 k.w o l).toNat
    let d := saveDesc bs
    let who := Who.front 0 k.f
    let owner := 512 * k.w.wg + 32 * k.w.sub + l
    let writable := d.op = 0 → ∃ ps, k0.vtargets who k.f.core (k.w.supIn k.f) .write none (a + 0x18) 16 = .ok ps
    let gives (i : Instr) (v : Word) : Prop :=
      exec i s = .next (k0.llResult k.f k.w k.act o.fsel [o.d.toNat] [{ lane := l, reg := o.d.toNat, val := v }])
    let answers (t : State) (v : Word) : Prop := ∃ op ∈ t.fe.llops, op.lanes = k.act ∧ op.writes = [{ lane := l, reg := o.d.toNat, val := v }]
    k0.vread who k.f.core (k.w.supIn k.f) .read none a 64 = .ok bs → writable → ∀ i ∈ ([.ctxSave o, .ctxResume o] : List Instr),
      (k0.saveParamBad a d = true → gives i 0x80000C11) ∧
      (k0.saveParamBad a d = false → d.op = 0 →
        (∀ x ∈ k0.saved.draining, x.1 ≠ d.ctx) →
        (d.isize < Config.imageBytes k0.nonce → gives i 0x80000C12) ∧
        (Config.imageBytes k0.nonce ≤ d.isize → (k0.ctxWorks d.ctx = false ∨ k0.ctxSaved d.ctx = true) → gives i 0x80000C13) ∧
        (Config.imageBytes k0.nonce ≤ d.isize → k0.ctxWorks d.ctx = true → k0.ctxSaved d.ctx = false →
          ∃ t, exec i s = .next t ∧ (d.ctx, k0.nonce, owner) ∈ t.saved.draining)) ∧
      (∀ serial, k0.saveParamBad a d = false → d.op = 0 → (k0.saved.draining.find? fun x => x.1 == d.ctx) = some (d.ctx, serial, owner) →
        k0.isDraining d.ctx = true → (k0.drainCtx d.ctx).ctxQuiet d.ctx = true →
        (∀ g ∈ k0.fe.wgs, ∀ h ∈ k0.fe.wgs, g.id = h.id → g = h) →
        ∃ t, exec i s = .next t ∧ answers t 0 ∧ (∃ g ∈ t.saved.images, g.ctx = d.ctx ∧ g.base = d.ibase ∧ g.serial = serial) ∧
          (∀ x ∈ t.iso.ctxs, x.id = d.ctx → x.saved = true) ∧ ∀ x ∈ t.alm.launches, x.ctx ≠ d.ctx) ∧
      (k0.saveParamBad a d = false → d.op ≠ 0 → (k0.isDraining d.ctx = true ∨ k0.ctxWorks d.ctx = true) → gives i 0x80000C13) ∧
      (k0.saveParamBad a d = false → d.op ≠ 0 → k0.isDraining d.ctx = false → k0.ctxWorks d.ctx = false → k0.imageAt d.ctx d.ibase = none →
        gives i 0x80000C14) ∧
      (∀ g, k0.saveParamBad a d = false → d.op ≠ 0 → k0.isDraining d.ctx = false → k0.ctxWorks d.ctx = false →
        k0.imageAt d.ctx d.ibase = some g →
        (∀ n ∈ tagsOf g.launches g.graphs g.ops, n ∉ tagsOf k0.alm.launches k0.alm.graphs k0.eng.ops) →
        ∃ t, exec i s = .next t ∧ answers t 0 ∧ (∀ x ∈ g.launches, { x with diem := some (k0.resumeDies d) } ∈ t.alm.launches) ∧
          ∀ p ∈ g.wgs, { p with dies := k0.resumeDies d } ∈ t.saved.parked)

/-- R319, R322, R372: the grid-only operations and the divisions of RKL. Within the guard, gred combines its operands from the left, gmrg takes each
lane from the input whose mask holds it, gdly sends its token unchanged, its sequence tag too, C clocks later, and gjoin sends the tokens with their
tags in the order of their static indices. A division by zero gives all ones, and its remainder the dividend. -/
def Obligations.GridOnlyForms : Prop :=
  ∀ (s : State) (f : Focus) (w : Warp) (o : Operands), s.At f w →
    let sends (i : Instr) (outs : List GOut) : Prop := exec i s = .next { s with focus := some { f with outs := outs } }
    let a (l : Nat) : Word := w.reg l o.a.toNat
    let b (l : Nat) : Word := w.reg l o.b.field.toNat
    let c (l : Nat) : Word := w.reg l o.c.toNat
    let m (i : Nat) : LaneMask := ((f.masks[i]?).getD 0) &&& activeLanes f w o.guard
    let x (i : Nat) : Nat := (f.midxs[i]?).getD 0
    let combine (op : GredOp) (u v : Word) : Word := match op with
      | .addF32 => BitVec.ofNat 32 (fmt32.add .rn u.toNat v.toNat)
      | .addN32 => u + v
      | .minF32 => BitVec.ofNat 32 (fmt32.minmax false u.toNat v.toNat)
      | .maxF32 => BitVec.ofNat 32 (fmt32.minmax true u.toNat v.toNat)
    (f.grid = true →
      (∀ op, (f.pk = 3#4 ∨ f.pk = 7#4) → ∃ g, sends (.gred op o) [g] ∧ g.mask = activeLanes f w o.guard ∧ g.delay = none ∧
        ∀ l ∈ lanesOf g.mask, smGet g.words l =
          if f.pk = 3#4 then combine op (a l) (b l) else combine op (combine op (a l) (b l)) (c l)) ∧
      (∃ g, sends (.gmrg o) [g] ∧ g.mask = m 0 ||| m 1 ∧ g.delay = none ∧
        ∀ l ∈ lanesOf g.mask, smGet g.words l = if (m 0).getLsbD l = true then a l else b l) ∧
      (∃ g, sends (.gdly o) [g] ∧ g.mask = m 0 ∧ g.delay = some o.c.toNat ∧ g.midx = x 0 ∧ ∀ l ∈ lanesOf g.mask, smGet g.words l = a l) ∧
      (f.pk = 3#4 → ∃ g h, sends (.gjoin o) (if x 0 ≤ x 1 then [g, h] else [h, g]) ∧ g.mask = m 0 ∧ h.mask = m 1 ∧ g.midx = x 0 ∧
        h.midx = x 1 ∧ g.delay = none ∧ h.delay = none ∧ (∀ l ∈ lanesOf (m 0), smGet g.words l = a l) ∧ ∀ l ∈ lanesOf (m 1), smGet h.words l = b l)) ∧
    (f.grid = false → ∀ op, ∀ i ∈ ([.gred op o, .gmrg o, .gdly o, .gjoin o] : List Instr), exec i s = .next s) ∧
    ∀ k, s.work o = some k →
      exec (.udiv o) s = .next (k.put32 o fun l => if srcBn k.s k.f k.w o l = 0 then 0xFFFFFFFF else k.a o l / srcBn k.s k.f k.w o l) ∧
      exec (.urem o) s = .next (k.put32 o fun l => if srcBn k.s k.f k.w o l = 0 then k.a o l else k.a o l % srcBn k.s k.f k.w o l)

/-- R316, R330, R326, R337, R421, 02 R45: records that come, are declined, find no tags or frame bytes and are armed, and a configuration that stalls. A
decline and a want of tags or frame bytes refuse the loop for the workgroup alone, with PL_DECLINE and PL_TAG, and leave no entry; a record that comes
enters the cache even where the workgroup captures no more. A configuration that retires nothing for 65,536 clocks of its stall count is refused from
then on with PL_STALL; until then the count goes on. -/
def Obligations.PlacementEvents : Prop :=
  ∀ (s : State) (wg core half : Nat) (head : DWord) (bytes : List Byte),
    let declined (i : Instr) (status : Nat) : Prop := ∀ g, s.wg? wg = some g → ∃ t h, exec i s = .next t ∧ t.inPlace wg head = false ∧
      t.wg? wg = some h ∧ (head, status) ∈ h.refused ∧ (∀ x, x.1 ≠ head → (x ∈ h.refused ↔ x ∈ g.refused)) ∧ { h with refused := g.refused } = g ∧
      t.grid.recs = s.grid.recs ∧ t.mem = s.mem
    (s.inPlace wg head = false → exec (.placementRecordReady wg head bytes) s = .next s ∧ exec (.placerDecline wg head) s = .next s) ∧
    (s.inPlace wg head = true →
      declined (.placerDecline wg head) 0x0A09 ∧
      (∀ p g, (s.grid.placing.find? fun p => p.wg == wg && p.head == head) = some p → s.wg? wg = some g →
        let s1 := s.placed wg head
        let heads := s1.clauseHeads g.core p.ctx head.toNat (head.toNat + GRec.bodyb bytes) (GRec.bodyb bytes + 1) head.toNat
        let c := s1.recStatus g.core p.ctx p.entry head p.k p.tagh bytes heads
        let scarce := c = 0 ∧ ∃ x, s1.emptyHalf g.core = some x ∧ x.2.gridPlace g.core bytes = none
        (scarce → declined (.placementRecordReady wg head bytes) 0x0A05) ∧
        (¬ scarce → ∃ t r, exec (.placementRecordReady wg head bytes) s = .next t ∧ t.inPlace wg head = false ∧ t.placeRec p.ctx head = some r ∧
          r.bytes = bytes ∧ r.entry = p.entry ∧
          r.status = (if c = 0 then none else some c) ∧
          (∃ m ∈ t.agenda, m.what = .configurationArm wg head) ∧ t.mem = s.mem ∧ t.fe = s.fe))) ∧
    (s.wg? wg = none → exec (.configurationArm wg head) s = .next s) ∧
    (∀ g p, s.wg? wg = some g → s.placeRec (((s.launch? g.launch).map Launch.ctx).getD 0) head = some p →
      (p.status.isSome = true → exec (.configurationArm wg head) s = .next s) ∧
      (p.status = none → s.arm g.core p (s.taghOf wg) = none → exec (.configurationArm wg head) s = .next s) ∧
      (∀ n t, p.status = none → s.arm g.core p (s.taghOf wg) = some (n, t) → exec (.configurationArm wg head) s = .next t ∧
        ∃ c ∈ t.grid.cfgs, c.core = g.core ∧ c.half = n ∧ c.ctx = p.ctx ∧ c.head = p.head ∧ c.bytes = p.bytes)) ∧
    (s.gcfg? core half = none → exec (.gridStall core half) s = .next s) ∧
    (∀ c, s.gcfg? core half = some c → c.core = core → c.half = half →
      let n := c.stall + (if c.counting = true then s.now - c.mark else 0)
      let ticked := { c with stall := n, mark := s.now, counting := s.stallRuns c }
      (∃ t, s.stallTick core half = t ∧ t.gcfg? core half = some ticked ∧ { t with grid := s.grid } = s) ∧
      (s.cfgBusy c = false → exec (.gridStall core half) s = .next (s.stallTick core half)) ∧
      (s.cfgBusy c = true → n < 65536 → exec (.gridStall core half) s =
        .next ((s.stallTick core half).after (65536 - n) (.gridStall core half))) ∧
      (s.cfgBusy c = true → 65536 ≤ n → ∃ t r, exec (.gridStall core half) s = .next t ∧ t.placeRec c.ctx c.head = some r ∧ r.status = some 0x0A08))

/-- R320 to R323, R326, R328, R407, R425: firings, tokens, commit and retirement. A ready handler that computes fires with the slots of its frame for
registers, in the lanes that every token has, and its results go to its destinations; a drain point that holds in no lane sends tokens without lanes. A
reply of a load that nothing older holds up sends its result. A token put to a port with room and no end marker is present there. Before an iteration's
first write the addresses that have not fired are checked. The last retired iteration of a warp leaves its frame in the warp's registers, its lanes at
the loop's exit. A drain waits for an iteration that has begun to commit, and for a handler. Where an event's condition does not hold nothing happens.
-/
def Obligations.GridEvents : Prop :=
  ∀ (s : State) (core half : Nat) (c : GCfg) (i : GIter), s.gcfg? core half = some c → s.giter? i.id = some i → i.core = core → i.half = half →
    (∀ h, GRec.argUsed c.bytes = false → h ∈ s.handsOf c i →
      ((s.handsOf c i).find? fun x => x.hdie == h.hdie && x.cell == h.cell && x.hidx == h.hidx) = some h → h.cell < 64 →
      let fire : Instr := .handlerFire core half (h.cell + 64 * h.hdie) h.hidx i.id
      let m := i.fireMask h
      let act := h.actOf (s.predsFor c i h) m
      let fate := h.fate c.bytes c.heads (s.kmap i.core i.slot)
      let r := s.runPlaced c i h (s.fireOf c i h m none)
      let gives (t : State) : Prop := exec fire s = .next (t.gridCheck core i.slot)
      (s.ready c i h = false → exec fire s = .next s) ∧
      (s.ready c i h = true → s.fireHeldUp c i h = true → exec fire s = .next (s.later fire)) ∧
      (s.ready c i h = true → s.fireHeldUp c i h = false → h.isOpen = false → h.ops.qa = false →
        (fate ≠ .drain → fate ≠ .steer → h.isMem = false → r.trap = none → h.op < 0xE0 →
          gives ((r.st.consume i h).sendTo c i h (h.result act r.regs r.preds))) ∧
        (fate ≠ .drain → fate ≠ .steer → h.isMem = false → r.trap = none → 0xE0 ≤ h.op →
          gives (r.outs.foldl (fun s g => s.sendTo c i h (fun _ => wordsTok g.mask 1 g.midx fun l _ => smGet g.words l) g.delay) (r.st.consume i h))) ∧
        (fate = .drain → act ≠ 0 → gives (s.drainFor i)) ∧
        (fate = .drain → act = 0 → gives ((s.consume i h).sendTo c i h (h.result 0 (i.frameFor c h) []))) ∧
        (fate = .steer → gives (s.fireSteer c i h m act)))) ∧
    (∀ h port t, i.at? h.key port = none → s.storeFull (c.coreAt h.hdie, h.cell) = false → (∀ m ∈ c.marks, ¬ (m.key = h.key ∧ m.port = port)) →
      ∃ u j, s.putPort c i h port t = some u ∧ u.giter? i.id = some j ∧
        j.at? h.key port = some (t.mask, t.midx) ∧ ∀ x, x ∈ i.present → x ∈ j.present) ∧
    (∀ chan, (∀ x ∈ s.grid.chans, x.core = core → x.id = chan → x.toks = []) → exec (.tokenTransfer core chan) s = .next s) ∧
    (∀ chan x t rest u, (s.grid.chans.find? fun x => x.core == core && x.id == chan) = some x → x.half = half → x.toks = t :: rest → t.kind < 4 →
      t.iter = i.id →
      let s1 : State := { s with grid := { s.grid with chans := mapFirst (fun x => x.id == chan) (fun x => { x with toks := rest }) s.grid.chans } }
      (s1.deliverTok c t = some u → exec (.tokenTransfer core chan) s = .next (u.gridCheck core i.slot)) ∧
      (s1.deliverTok c t = none → exec (.tokenTransfer core chan) s = .next (s.later (.tokenTransfer core chan)))) ∧
    (s.canCommit c i = false → exec (.iterationCommit core i.id) s = .next s) ∧
    (∀ h x, s.canCommit c i = true → i.nextWrite = some x → (GRec.hands c.bytes)[x.key]? = some h →
      let look := (s.unchecked i).findSome? fun y => (s.commitFault c y).map fun z => (y, z)
      let s0 := (s.unchecked i).foldl (fun s y => s.updIter y.id fun z => { z with checked := true }) s
      (∀ y g m act k errs, look = some (y, g, m, act, k, errs) →
        exec (.iterationCommit core i.id) s = .next ((s.meet c y g m act k errs).gridCheck core i.slot)) ∧
      (look = none → s.chanFull c h = true → exec (.iterationCommit core i.id) s = .next (s0.later (.iterationCommit core i.id))) ∧
      (look = none → s.chanFull c h = false → h.releases = false → exec (.iterationCommit core i.id) s = .next (s0.commitOne c i h x)) ∧
      (∀ n, look = none → s.chanFull c h = false → h.releases = true → i.mark = some n → s0.olderThan core i.slot n = false →
        exec (.iterationCommit core i.id) s = .next (s0.commitOne c i h x))) ∧
    (s.canRetire c i = false → exec (.iterationRetire core i.id) s = .next s) ∧
    (∀ w, s.warp? core i.slot = some w → s.canRetire c i = true → i.level = 0 → i.taken = some 0 →
      ∃ t w', exec (.iterationRetire core i.id) s = .next t ∧ t.warp? core i.slot = some w' ∧ t.giter? i.id = none ∧
        w'.regs = (frameToWarp c.bytes i.after i.mask w).regs ∧ w'.preds = (frameToWarp c.bytes i.after i.mask w).preds ∧
        ∀ l ∈ lanesOf i.mask, l < w.threads.length →
          (w'.thread l).pc = c.head + BitVec.ofNat 64 (GRec.bodyb c.bytes) ∧ (w'.thread l).inGrid = false) ∧
    (s.grun? core i.slot = none → exec (.warpDrain core i.slot) s = .next s) ∧
    (∀ run, s.grun? core i.slot = some run → (run.handler.isSome = true ∨ ∃ j, s.oldestIter core i.slot = some j ∧ j.mustFinish = true) →
      ∃ t, exec (.warpDrain core i.slot) s = .next t ∧ t.grun? core i.slot = some { run with drain := true } ∧ { t with grid := s.grid } = s) ∧
    (∀ run, s.grun? core i.slot = some run → run.handler = none → (∀ j, s.oldestIter core i.slot = some j → j.mustFinish = false) →
      exec (.warpDrain core i.slot) s = .next (s.drainNow core i.slot none)) ∧
    (∀ n, (∀ j ∈ s.grid.iters, ∀ r ∈ j.replies, r.id ≠ n) → exec (.memoryPortReply n) s = .next s) ∧
    (∀ n r h, (s.grid.iters.find? fun j => j.replies.any fun r => r.id == n) = some i → (i.replies.find? fun r => r.id == n) = some r →
      (GRec.hands c.bytes)[r.key]? = some h →
      let held := s.replyBlocked c i h r || s.chanFull c h || i.parked.any fun p => p.key == r.key
      let waits : State := s.updIter i.id fun x => { x with replies := x.replies.map fun y => if y.id = n then { y with sent := false } else y }
      let real := s.runPlaced c i h r.fire
      (held = true → exec (.memoryPortReply n) s = .next ((waits.later (.memoryPortReply n)).gridCheck core i.slot)) ∧
      (held = false → isRel h.ops = false → h.acquires = false → s.olderStores c i r.midx = [] → real.wait = 0 → real.trap = none →
        exec (.memoryPortReply n) s = .next (((real.st.updIter i.id fun x => { x with replies := x.replies.filter fun y => y.id != n }).sendTo c i h
          (h.result (h.actOf r.preds r.mask) real.regs real.preds)).gridCheck core i.slot)) ∧
      (∀ k errs, held = false → isRel h.ops = false → real.wait = 0 → real.trap = some (k, errs) → i.committing = false → parks k errs = false →
        exec (.memoryPortReply n) s = .next (real.st.drainFor i)))

/-- R413 to R416: flits, retraining and the close of a window. A flit in order with a good CRC is delivered once; one that fails its CRC is counted and
not delivered; one that was delivered is counted as a replay and not delivered again. Training ends with the link up at the step trained for, or at its
previous rate. A window with no lane at 64 errors and no more replays than the threshold leaves the rate; with more, the link steps down. -/
def Obligations.LinkEvents : Prop :=
  ∀ (s : State) (die n seq lane : Nat) (l : Link), s.link? die n = some l →
    let at_ (t : State) (l' : Link) : Prop := t.link? die n = some l' ∧ s.keepsBytes t ∧ t.fe = s.fe
    (l.lost = true ∨ l.waking = true → ∀ ok, exec (.flitReceive die n seq ok lane) s = .next s) ∧
    (l.lost = false → l.waking = false →
      (seq = l.expect → ∃ t l', exec (.flitReceive die n seq true lane) s = .next t ∧ at_ t l' ∧ l'.delivered = l.delivered ++ [seq] ∧
        l'.expect = seq + 1 ∧ l'.dropping = false ∧ l'.crc = l.crc) ∧
      (∀ ok, ok = false ∨ seq ≠ l.expect → ∃ t l', exec (.flitReceive die n seq ok lane) s = .next t ∧ at_ t l' ∧ l'.delivered = l.delivered ∧
        l'.expect = l.expect ∧ l'.crc = (if ok = true then l.crc else min 0x7FFFFFFF (l.crc + 1)) ∧
        l'.replay = (if seq < l.seen then min 0x7FFFFFFF (l.replay + 1) else l.replay))) ∧
    (l.target = none → exec (.linkRetrainComplete die n) s = .next s) ∧
    (∀ step, l.target = some step → l.waiters = [] → ∃ t l', exec (.linkRetrainComplete die n) s = .next t ∧ at_ t l' ∧ l'.rate = step ∧
      l'.up = !l.lost ∧ l'.waking = false ∧ l'.target = none) ∧
    (∀ step, l.target = some step → l.waiters ≠ [] → ∃ t l', exec (.linkRetrainComplete die n) s = .next t ∧ t.link? die n = some l' ∧
      l'.rate = (if Config.trains die n step l.attempt = true then step else l.rate) ∧ l'.up = !l.lost ∧ l'.waking = false ∧ l'.waiters = [] ∧
      s.keepsBytes t) ∧
    ((∀ x ∈ l.laneErrs, x.2 < 64) →
      (l.lost = true ∨ l.winReplay ≤ l.rth → ∃ t, exec (.linkWindowEnd die n) s = .next t ∧
        at_ t { l with winReplay := 0, laneErrs := [], winDue := false }) ∧
      (l.lost = false → l.waking = false → l.rth < l.winReplay → l.rate ∈ Config.ladder →
        ∃ t l', exec (.linkWindowEnd die n) s = .next t ∧ t.link? die n = some l' ∧ l'.rate ≤ l.rate ∧ (l.rate ≠ 24 → l'.rate < l.rate) ∧
          l'.lastev = 0x0803 ∧ l'.winReplay = 0 ∧ (l.rate ≠ 24 → l'.waking = true ∧ l'.target = some l'.rate)))

/-- R418, R419: errors in storage. A corrected error changes no value and is counted; so is an uncorrectable one. In DRAM, and in a dirty line, its
sector is poisoned; a clean copy is dropped and read again; the translations of a core's TLB go; a configuration whose handler table fails is drained;
elsewhere the launch that uses the storage is killed. A scrub changes nothing and comes again within 24 hours. -/
def Obligations.StorageErrors : Prop :=
  ∀ (s : State) (x : Storage),
    let die := s.storageDie x
    let up (m : SMap 31) : Nat := min 0x7FFFFFFF ((smGet m die).toNat + 1)
    let sram := ∀ pa, x ≠ .dram pa
    (∃ t, exec (.eccCorrected x) s = .next t ∧ { t with links := s.links } = s ∧ (∀ a, t.homeByte a = s.homeByte a ∧ t.byteNow a = s.byteNow a) ∧
      (sram → (smGet t.links.sce die).toNat = up s.links.sce ∧ t.links.links = s.links.links)) ∧
    (∀ pa l, x = .dram pa → s.link? (s.homeOf pa / 4) (s.homeOf pa % 4) = some l →
      (∃ t, exec (.eccCorrected x) s = .next t ∧
        t.link? (s.homeOf pa / 4) (s.homeOf pa % 4) = some { l with ce := min 0x7FFFFFFF (l.ce + 1) }) ∧
      ∃ t, exec (.eccUncorrectable x) s = .next t ∧
        t.link? (s.homeOf pa / 4) (s.homeOf pa % 4) = some { l with ue := min 0x7FFFFFFF (l.ue + 1) } ∧
        pa / 32 ∈ t.mem.poisoned ∧ (∀ n, n ∈ t.mem.poisoned ↔ n ∈ s.mem.poisoned ∨ n = pa / 32) ∧ (∀ a, t.homeByte a = s.homeByte a) ∧ t.fe = s.fe) ∧
    (∀ d line, x = .cacheClean d line → ∃ t, exec (.eccUncorrectable x) s = .next t ∧ s.keepsBytes t ∧
      (∀ c, c ∈ t.mem.die ↔ c ∈ s.mem.die ∧ ¬ (c.die = d ∧ c.line = line ∧ c.dirty = 0)) ∧ (smGet t.links.sue die).toNat = up s.links.sue) ∧
    (∀ core, x = .tlb core → ∃ t, exec (.eccUncorrectable x) s = .next t ∧ s.keepsBytes t ∧
      (∀ e, e ∈ t.iso.tlb ↔ e ∈ s.iso.tlb ∧ e.core ≠ core) ∧ (smGet t.links.sue die).toNat = up s.links.sue) ∧
    (∀ core slot w g, x = .frameStore core slot ∨ x = .matching core slot → s.warp? core slot = some w → s.wg? w.wg = some g →
      exec (.eccUncorrectable x) s = .next ((s.countSram die false).killLaunch g.launch 0x0E61)) ∧
    (∀ pa, x = .cacheDirty pa → ∃ t, exec (.eccUncorrectable x) s = .next t ∧ (∀ n, n ∈ t.mem.poisoned ↔ n ∈ s.mem.poisoned ∨ n = pa / 32) ∧
      (∀ a, t.homeByte a = s.homeByte a) ∧ (smGet t.links.sue die).toNat = up s.links.sue ∧ t.fe = s.fe) ∧
    (∀ core half, x = .handlerTable core half →
      (s.gcfg? core half = none → exec (.eccUncorrectable x) s = .next (s.countSram die false)) ∧
      (∀ c, s.gcfg? core half = some c → exec (.eccUncorrectable x) s = .next ((s.countSram die false).drainCfg c))) ∧
    (∀ core wg g, x = .stage core wg → (s.fe.wgs.filter fun g => g.core == core && g.id == wg) = [g] →
      exec (.eccUncorrectable x) s = .next ((s.countSram die false).killLaunch g.launch 0x0E61)) ∧
    ∀ line, exec (.scrubRead line) s = .next (s.after 172800000000000 (.scrubRead line))

/-- R395, R277: module reset and boot. Reset leaves the host's memory and the fuses, and puts everything else back; boot runs once, and the first check
that fails is what BAR0 reads; a good image releases the cores with the built-in tables in slots 0 to 4.
R396 to R398 (the byte layouts are the model's, log entry 10, PRESUMED): the responder. Nothing is answered before the cores are released; a request
whose code or length is wrong, one out of its order, and one that is not supported get an ERROR; the others are answered, and each answer joins the
transcript. -/
def Obligations.BootAndAttestation : Prop :=
  (
    ∀ (s : State),
      (∃ t, exec .moduleReset s = .next t ∧ t.now = 0 ∧ t.fe = State.reset.fe ∧ t.iso = State.reset.iso ∧ t.alm = State.reset.alm ∧
        t.eng = State.reset.eng ∧ t.mx = State.reset.mx ∧ t.grid = State.reset.grid ∧ t.links = State.reset.links ∧ t.boot.released = false ∧
        t.boot.secver = s.boot.secver ∧ t.boot.image = s.boot.image ∧ t.agenda = State.reset.agenda ∧
        ∀ a, t.homeByte a = if isHostPa a = true then s.homeByte a else State.reset.homeByte a) ∧
      (s.boot.released = true → exec .boot s = .next s) ∧
      (s.boot.released = false →
        let c := bootCheck s.boot.image s.boot.secver
        (c ≠ 0 → exec .boot s = .next { s with boot := { s.boot with bar0 := c } }) ∧
        (c = 0 → ∃ t, exec .boot s = .next t ∧ t.boot.released = true ∧ t.boot.bar0 = 0 ∧ t.fe = s.fe ∧ s.keepsBytes t ∧
          (∀ slot, slot < 5 → ∀ table, (slot, table) ∈ builtinTables → (slot, table) ∈ t.mem.tables) ∧
          (∀ slot table, 5 ≤ slot → ((slot, table) ∈ s.mem.tables → (slot, table) ∈ t.mem.tables)) ∧
          t.boot.secver = (if s.boot.secver < Config.fwRaises s.boot.image then Config.fwRaises s.boot.image else s.boot.secver) ∧
          t.boot.measures.take 4 = (bootMeasures s.boot.image t.boot.secver).take 4) ∧
        (c = 0x0D01 ↔ Config.sha256 (Config.fwKey s.boot.image) ≠ Config.keyDigest) ∧
        (c = 0x0D04 → Config.fwVersion s.boot.image < s.boot.secver))) ∧
  (
    ∀ (s : State) (req : List Byte),
      let all : List (Instr × Nat × Nat × Nat) :=
        [(.getVersion req, 0x84, 4, 0), (.getCapabilities req, 0xE1, 4, 1), (.negotiateAlgorithms req, 0xE3, 32, 2), (.getDigests req, 0x81, 4, 3),
          (.getCertificate req, 0x82, 8, 3), (.challenge req, 0x83, 36, 3), (.getMeasurements req, 0xE0, 4, 3)]
      let error (i : Instr) (code : Nat) : Prop := exec i s = .next (s.spdmError code)
      let answers (i : Instr) (start : List Byte) (stage : Nat) : Prop := ∃ t resp, exec i s = .next t ∧ t.boot.doe = resp :: s.boot.doe ∧
        resp.take start.length = start ∧ t.boot.spdm = stage ∧
        t.boot.transcript = (if fieldAt req 1 1 = 0x84 then [] else s.boot.transcript) ++ req ++ resp ∧
        t.boot.measures = s.boot.measures ∧ t.mem = s.mem ∧ t.fe = s.fe ∧ t.iso = s.iso ∧ t.alm = s.alm
      (s.boot.released = false → ∀ x ∈ all, exec x.1 s = .next s) ∧
      (s.boot.released = false → exec (.unsupportedRequest req) s = .next s) ∧
      (s.boot.released = true → exec (.unsupportedRequest req) s = .next (s.spdmError 7)) ∧
      (s.boot.released = true → ∀ x ∈ all, (fieldAt req 1 1 ≠ x.2.1 ∨ req.length < x.2.2.1 → error x.1 1) ∧
        (fieldAt req 1 1 = x.2.1 → x.2.2.1 ≤ req.length → s.boot.spdm < x.2.2.2 → error x.1 4)) ∧
      (s.boot.released = true →
        (fieldAt req 1 1 = 0x84 → 4 ≤ req.length → answers (.getVersion req) [0x10, 4, 0, 0, 0, 1, 0, 0x12] 1) ∧
        (fieldAt req 1 1 = 0xE1 → 4 ≤ req.length → 1 ≤ s.boot.spdm → answers (.getCapabilities req) [0x12, 0x61] (max 2 s.boot.spdm)) ∧
        (fieldAt req 1 1 = 0xE3 → 32 ≤ req.length → 2 ≤ s.boot.spdm → answers (.negotiateAlgorithms req) [0x12, 0x63] (max 3 s.boot.spdm)) ∧
        (3 ≤ s.boot.spdm →
          (fieldAt req 1 1 = 0x81 → 4 ≤ req.length →
            answers (.getDigests req) ([0x12, 1, 0, 1] ++ digestBytes (Config.sha256 Config.certChain)) s.boot.spdm) ∧
          (fieldAt req 1 1 = 0x82 → 8 ≤ req.length → fieldAt req 2 1 = 0 → fieldAt req 4 2 ≤ Config.certChain.length →
            answers (.getCertificate req) [0x12, 2] s.boot.spdm) ∧
          (fieldAt req 1 1 = 0x83 → 36 ≤ req.length → fieldAt req 2 1 = 0 → answers (.challenge req) [0x12, 3] s.boot.spdm) ∧
          (fieldAt req 1 1 = 0xE0 → 4 ≤ req.length → fieldAt req 3 1 ≤ 5 ∨ fieldAt req 3 1 = 0xFF →
            answers (.getMeasurements req) [0x12, 0x60] s.boot.spdm))))
end

