-- ==== Sys2Proof/Laws/Memory.lean ====
section
/-!
SUPPORT. Laws/Memory.lean: reading after writing, and that every operation over a memory keeps its canonical form.
-/
namespace Sys2Proof.Machine

theorem smWf_nil {n : Nat} : smWf ([] : SMap n) = true := rfl

/-- A map whose keys start at `lo` also starts at any lower bound. -/
theorem smWfFrom_le {n : Nat} {lo lo' : Nat} {m : SMap n} (h : smWfFrom lo m = true) (hl : lo' ≤ lo) : smWfFrom lo' m = true := by
  cases m with
  | nil => rfl
  | cons p t =>
    simp only [smWfFrom, Bool.and_eq_true, decide_eq_true_eq] at h ⊢
    exact ⟨⟨by omega, h.1.2⟩, h.2⟩

/-- Nothing is listed below the bound. -/
theorem smGet_below {n : Nat} {lo a : Nat} {m : SMap n} (h : smWfFrom lo m = true) (ha : a < lo) : smGet m a = 0 := by
  induction m generalizing lo with
  | nil => rfl
  | cons p t ih =>
    simp only [smWfFrom, Bool.and_eq_true, decide_eq_true_eq] at h
    simp only [smGet]
    rw [if_neg (by omega)]
    exact ih h.2 (by omega)

theorem smErase_length {n : Nat} (m : SMap n) (a : Nat) : (smErase m a).length ≤ m.length := by
  induction m with
  | nil => exact Nat.le_refl _
  | cons x y ih =>
    simp only [smErase]
    split <;> simp only [List.length_cons] <;> omega

theorem smWfFrom_erase {n : Nat} {lo : Nat} {m : SMap n} (h : smWfFrom lo m = true) (a : Nat) : smWfFrom lo (smErase m a) = true := by
  induction m generalizing lo with
  | nil => rfl
  | cons p t ih =>
    simp only [smWfFrom, Bool.and_eq_true, decide_eq_true_eq] at h
    simp only [smErase]
    split
    · exact smWfFrom_le (ih h.2) (by omega)
    · simp only [smWfFrom, Bool.and_eq_true, decide_eq_true_eq]
      exact ⟨h.1, ih h.2⟩

theorem smGet_erase {n : Nat} (m : SMap n) (a b : Nat) : smGet (smErase m a) b = if b = a then 0 else smGet m b := by
  induction m with
  | nil => simp [smErase, smGet]
  | cons p t ih =>
    simp only [smErase]
    split
    · rename_i h
      rw [ih]
      by_cases hb : b = a
      · simp [hb]
      · simp only [if_neg hb, smGet]
        rw [if_neg (by omega)]
    · rename_i h
      simp only [smGet]
      rw [ih]
      by_cases hp : p.1 = b
      · rw [if_pos hp, if_pos hp, if_neg (by omega)]
      · rw [if_neg hp, if_neg hp]

theorem smWfFrom_insert {n : Nat} {lo a : Nat} {m : SMap n} {v : BitVec n} (h : smWfFrom lo m = true) (hl : lo ≤ a) (hv : v ≠ 0)
    (hm : smErase m a = m) : smWfFrom lo (smInsert m a v) = true := by
  induction m generalizing lo with
  | nil => simpa [smInsert, smWfFrom] using ⟨hl, hv⟩
  | cons p t ih =>
    simp only [smErase] at hm
    split at hm
    · exfalso
      have := smErase_length t a
      rw [hm] at this
      simp only [List.length_cons] at this
      omega
    · rename_i hp
      have ht : smErase t a = t := by simpa using hm
      simp only [smWfFrom, Bool.and_eq_true, decide_eq_true_eq] at h
      simp only [smInsert]
      split
      · simp only [smWfFrom, Bool.and_eq_true, decide_eq_true_eq]
        exact ⟨⟨hl, by simpa using hv⟩, ⟨by omega, h.1.2⟩, h.2⟩
      · simp only [smWfFrom, Bool.and_eq_true, decide_eq_true_eq]
        exact ⟨h.1, ih h.2 (by omega) ht⟩

theorem smErase_erase {n : Nat} (m : SMap n) (a : Nat) : smErase (smErase m a) a = smErase m a := by
  induction m with
  | nil => rfl
  | cons p t ih =>
    simp only [smErase]
    split
    · exact ih
    · rename_i h; simp only [smErase, if_neg h, ih]

theorem smGet_insert {n : Nat} (m : SMap n) (a b : Nat) (v : BitVec n) (h : smErase m a = m) :
    smGet (smInsert m a v) b = if b = a then v else smGet m b := by
  induction m with
  | nil =>
    simp only [smInsert, smGet]
    by_cases hb : b = a
    · simp [hb]
    · rw [if_neg (by omega), if_neg hb]
  | cons p t ih =>
    have hp : p.1 ≠ a ∧ smErase t a = t := by
      simp only [smErase] at h
      split at h
      · exfalso
        have := smErase_length t a
        rw [h] at this
        simp only [List.length_cons] at this
        omega
      · rename_i hp; exact ⟨hp, by simpa using h⟩
    simp only [smInsert]
    split
    · simp only [smGet]
      by_cases hb : b = a
      · rw [if_pos hb.symm, if_pos hb]
      · rw [if_neg (Ne.symm hb), if_neg hb]
    · simp only [smGet]
      by_cases hb : p.1 = b
      · rw [if_pos hb, if_pos hb, if_neg (by omega)]
      · rw [if_neg hb, if_neg hb]; exact ih hp.2

/-- A write reads back, and leaves every other address alone. -/
@[simp] theorem smGet_set {n : Nat} (m : SMap n) (a b : Nat) (v : BitVec n) : smGet (smSet m a v) b = if b = a then v else smGet m b := by
  unfold smSet
  split
  · rename_i h
    rw [smGet_erase, h]
  · rw [smGet_insert _ _ _ _ (smErase_erase m a), smGet_erase]
    by_cases hb : b = a <;> simp [hb]

/-- A write keeps the canonical form. -/
theorem smWf_set {n : Nat} {m : SMap n} (h : smWf m = true) (a : Nat) (v : BitVec n) : smWf (smSet m a v) = true := by
  unfold smSet
  split
  · exact smWfFrom_erase h a
  · rename_i hv
    exact smWfFrom_insert (smWfFrom_erase h a) (Nat.zero_le a) hv (smErase_erase m a)

/-- A sublist of a canonical memory that a test on its entries leaves is canonical. -/
theorem smWfFrom_filter {n : Nat} {lo : Nat} {m : SMap n} (h : smWfFrom lo m = true) (p : Nat × BitVec n → Bool) :
    smWfFrom lo (m.filter p) = true := by
  induction m generalizing lo with
  | nil => rfl
  | cons x t ih =>
    simp only [smWfFrom, Bool.and_eq_true, decide_eq_true_eq] at h
    rw [List.filter_cons]
    split
    · simp only [smWfFrom, Bool.and_eq_true, decide_eq_true_eq]
      exact ⟨h.1, ih h.2⟩
    · exact smWfFrom_le (ih h.2) (by omega)

theorem smWf_filter {n : Nat} {m : SMap n} (h : smWf m = true) (p : Nat × BitVec n → Bool) : smWf (m.filter p) = true := smWfFrom_filter h p

/-- Two canonical maps that read alike are equal. -/
theorem smWfFrom_ext {n : Nat} {lo : Nat} {x y : SMap n} (hx : smWfFrom lo x = true) (hy : smWfFrom lo y = true)
    (h : ∀ a, smGet x a = smGet y a) : x = y := by
  induction x generalizing lo y with
  | nil =>
    cases y with
    | nil => rfl
    | cons q t =>
      simp only [smWfFrom, Bool.and_eq_true, decide_eq_true_eq] at hy
      have := h q.1
      simp only [smGet, if_pos] at this
      have h2 := hy.1.2
      rw [← this] at h2
      exact absurd h2 (by simp)
  | cons p s ih =>
    simp only [smWfFrom, Bool.and_eq_true, decide_eq_true_eq] at hx
    cases y with
    | nil =>
      have := h p.1
      simp only [smGet, if_pos] at this
      have h2 := hx.1.2
      rw [this] at h2
      exact absurd h2 (by simp)
    | cons q t =>
      simp only [smWfFrom, Bool.and_eq_true, decide_eq_true_eq] at hy
      have hpq : p.1 = q.1 := by
        rcases Nat.lt_trichotomy p.1 q.1 with hlt | heq | hgt
        · exfalso
          have := h p.1
          simp only [smGet, if_pos] at this
          rw [if_neg (by omega), smGet_below hy.2 (by omega)] at this
          have h2 := hx.1.2
          rw [this] at h2
          exact absurd h2 (by simp)
        · exact heq
        · exfalso
          have := h q.1
          simp only [smGet, if_pos] at this
          rw [if_neg (by omega), smGet_below hx.2 (by omega)] at this
          have h2 := hy.1.2
          rw [← this] at h2
          exact absurd h2 (by simp)
      have hv : p.2 = q.2 := by
        have := h p.1
        simp only [smGet, if_pos] at this
        rwa [if_pos hpq.symm] at this
      have hst : s = t := by
        refine ih hx.2 (hpq ▸ hy.2) fun a => ?_
        by_cases ha : a ≤ p.1
        · rw [smGet_below hx.2 (by omega), smGet_below (hpq ▸ hy.2) (by omega)]
        · have := h a
          simp only [smGet] at this
          rwa [if_neg (by omega), if_neg (by omega)] at this
      rw [hst, Prod.ext hpq hv]

theorem smWf_ext {n : Nat} {x y : SMap n} (hx : smWf x = true) (hy : smWf y = true) (h : ∀ a, smGet x a = smGet y a) : x = y :=
  smWfFrom_ext hx hy h

/-- A fold of writes keeps the canonical form. -/
theorem smWf_foldl {n : Nat} {α : Type} (l : List α) (g : SMap n → α → SMap n) (hg : ∀ m x, smWf m = true → smWf (g m x) = true) {m : SMap n}
    (h : smWf m = true) : smWf (l.foldl g m) = true := by
  induction l generalizing m with
  | nil => exact h
  | cons x t ih => exact ih (hg m x h)

/-- Bytes of a line written at its home (Store.lean) keep the canonical form. -/
theorem smWf_writeBytes {m : SMap 8} (h : smWf m = true) (line : Nat) (d : LineData) (mask : LineMask) : smWf (writeBytes m line d mask) = true := by
  unfold writeBytes
  refine smWf_foldl _ _ (fun m i hm => ?_) h
  split
  · exact smWf_set hm _ _
  · exact hm

/-- What a fold of writes at `base + i` under a test leaves at an address. -/
theorem smGet_foldl_range {n : Nat} (m : SMap n) (base k : Nat) (p : Nat → Bool) (v : Nat → BitVec n) (a : Nat) :
    smGet ((List.range k).foldl (fun m i => if p i then smSet m (base + i) (v i) else m) m) a
      = if base ≤ a ∧ a < base + k ∧ p (a - base) = true then v (a - base) else smGet m a := by
  induction k with
  | zero => rw [if_neg (by omega)]; rfl
  | succ k ih =>
    rw [List.range_succ, List.foldl_append, List.foldl_cons, List.foldl_nil]
    by_cases hp : p k = true
    · rw [if_pos hp, smGet_set, ih]
      by_cases ha : a = base + k
      · subst ha; simp [hp]
      · rw [if_neg ha]
        by_cases hc : base ≤ a ∧ a < base + k ∧ p (a - base) = true
        · rw [if_pos hc, if_pos ⟨hc.1, by omega, hc.2.2⟩]
        · rw [if_neg hc, if_neg]
          rintro ⟨h1, h2, h3⟩
          exact hc ⟨h1, by omega, h3⟩
    · rw [if_neg hp, ih]
      by_cases hc : base ≤ a ∧ a < base + k ∧ p (a - base) = true
      · rw [if_pos hc, if_pos ⟨hc.1, by omega, hc.2.2⟩]
      · rw [if_neg hc, if_neg]
        rintro ⟨h1, h2, h3⟩
        by_cases hk : a = base + k
        · subst hk; simp at h3; exact hp h3
        · exact hc ⟨h1, by omega, h3⟩

/-- What writing bytes of a line leaves at an address. -/
theorem smGet_writeBytes (m : SMap 8) (line : Nat) (d : LineData) (mask : LineMask) (a : Nat) :
    smGet (writeBytes m line d mask) a
      = if line ≤ a ∧ a < line + 128 ∧ mask.getLsbD (a - line) = true then LineData.byte d (a - line) else smGet m a :=
  smGet_foldl_range m line 128 (fun i => mask.getLsbD i) (fun i => LineData.byte d i) a

/-- The range of undefined bytes that holds an address, after the addresses from `lo` up to `hi` are taken out: none inside, as before outside. -/
theorem find_carve (us : List (Nat × Nat × Nat)) (lo hi a : Nat) :
    ((carve us lo hi).find? fun u => decide (u.1 ≤ a ∧ a < u.2.1)).map (fun u => u.2.2)
      = if lo ≤ a ∧ a < hi then none else (us.find? fun u => decide (u.1 ≤ a ∧ a < u.2.1)).map fun u => u.2.2 := by
  induction us with
  | nil => simp [carve]
  | cons u t ih =>
    have hc : carve (u :: t) lo hi = ((if u.1 < min u.2.1 lo then [(u.1, min u.2.1 lo, u.2.2)] else [])
        ++ (if max u.1 hi < u.2.1 then [(max u.1 hi, u.2.1, u.2.2)] else [])) ++ carve t lo hi := by simp [carve]
    rw [hc, List.find?_append]
    by_cases hu : u.1 ≤ a ∧ a < u.2.1
    · rw [List.find?_cons_of_pos (by simpa using hu)]
      by_cases hr : lo ≤ a ∧ a < hi
      · rw [if_pos hr] at ih ⊢
        have h0 : (((if u.1 < min u.2.1 lo then [(u.1, min u.2.1 lo, u.2.2)] else [])
            ++ (if max u.1 hi < u.2.1 then [(max u.1 hi, u.2.1, u.2.2)] else [])).find? fun u => decide (u.1 ≤ a ∧ a < u.2.1)) = none := by
          rw [List.find?_eq_none]
          intro x hx
          simp only [List.mem_append] at hx
          rcases hx with hx | hx <;> split at hx <;> simp at hx <;> subst hx <;> simp <;> omega
        rw [h0]; simpa using ih
      · rw [if_neg hr]
        by_cases hl : a < lo
        · rw [if_pos (by omega), List.singleton_append, List.find?_cons_of_pos (by simp; omega)]
          rfl
        · by_cases hp : u.1 < min u.2.1 lo
          · rw [if_pos hp, if_pos (by omega), List.singleton_append, List.find?_cons_of_neg (by simp; omega),
              List.find?_cons_of_pos (by simp; omega)]
            rfl
          · rw [if_neg hp, if_pos (by omega), List.nil_append, List.find?_cons_of_pos (by simp; omega)]
            rfl
    · rw [List.find?_cons_of_neg (by simpa using hu), ← ih]
      have h0 : (((if u.1 < min u.2.1 lo then [(u.1, min u.2.1 lo, u.2.2)] else [])
          ++ (if max u.1 hi < u.2.1 then [(max u.1 hi, u.2.1, u.2.2)] else [])).find? fun u => decide (u.1 ≤ a ∧ a < u.2.1)) = none := by
        rw [List.find?_eq_none]
        intro x hx
        simp only [List.mem_append] at hx
        rcases hx with hx | hx <;> split at hx <;> simp at hx <;> subst hx <;> simp <;> omega
      rw [h0]; rfl

/-- A byte at its home, by what its range of undefined bytes is. -/
theorem State.homeByte_eq (s : State) (a : Nat) :
    s.homeByte a = (match (s.mem.undef.find? fun u => decide (u.1 ≤ a ∧ a < u.2.1)).map (fun u => u.2.2) with
      | some n => Config.freeByte n a
      | none => smGet s.mem.bytes a) := by
  unfold State.homeByte
  cases s.mem.undef.find? fun u => decide (u.1 ≤ a ∧ a < u.2.1) <;> rfl

/-- What a log or table of the machine's own writes at its home. -/
theorem State.homeByte_putBytes (s : State) (pa n x a : Nat) :
    (s.putBytes pa n x).homeByte a = if pa ≤ a ∧ a < pa + n then byteOf x (a - pa) else s.homeByte a := by
  have hb := smGet_foldl_range s.mem.bytes pa n (fun _ => true) (fun i => byteOf x i) a
  rw [State.homeByte_eq, State.homeByte_eq]
  simp only [State.putBytes]
  rw [find_carve]
  by_cases h : pa ≤ a ∧ a < pa + n
  · rw [if_pos h, if_pos h]; simpa [h] using hb
  · rw [if_neg h, if_neg h]
    have : smGet (List.foldl (fun m i => smSet m (pa + i) (byteOf x i)) s.mem.bytes (List.range n)) a = smGet s.mem.bytes a := by
      simpa [h] using hb
    rw [this]

theorem State.canonical_putBytes {s : State} (h : s.canonical = true) (pa n x : Nat) : (s.putBytes pa n x).canonical = true :=
  smWf_foldl _ _ (fun _ _ hm => smWf_set hm _ _) h

/-- A state whose bytes are another's is canonical where the other is. -/
theorem State.canonical_of_bytes {s t : State} (h : s.canonical = true) (e : t.mem.bytes = s.mem.bytes) : t.canonical = true := by
  unfold State.canonical at *
  rw [e]; exact h

/-- A range zeroed at its homes keeps the canonical form (10 R279). -/
theorem State.canonical_zeroRange {s : State} (h : s.canonical = true) (base lim : Nat) : (s.zeroRange base lim).canonical = true :=
  smWf_filter h _

/-- Reset memory lists nothing. -/
theorem State.reset_bytes : State.reset.mem.bytes = [] := rfl

/-- What has been written in a partial map: a write reads back, and leaves every other address alone. -/
@[simp] theorem pmGet_set {n : Nat} (m : PMap n) (a b : Nat) (v : BitVec n) : pmGet (pmSet m a v) b = if b = a then some v else pmGet m b := by
  induction m with
  | nil =>
    simp only [pmSet, pmGet]
    by_cases hb : b = a
    · simp [hb]
    · rw [if_neg (Ne.symm hb), if_neg hb]
  | cons p t ih =>
    simp only [pmSet]
    split
    · simp only [pmGet]
      by_cases hb : b = a
      · rw [if_pos hb.symm, if_pos hb]
      · rw [if_neg (Ne.symm hb), if_neg hb]
    · split
      · rename_i h1 h2
        simp only [pmGet]
        by_cases hb : b = a
        · rw [if_pos hb.symm, if_pos hb]
        · rw [if_neg (Ne.symm hb), if_neg hb, if_neg (by omega)]
      · rename_i h1 h2
        simp only [pmGet]
        by_cases hb : p.1 = b
        · rw [if_pos hb, if_pos hb, if_neg (by omega)]
        · rw [if_neg hb, if_neg hb]; exact ih

end Sys2Proof.Machine
end

