-- ==== Sys2Proof/Laws/State.lean ====
section
/-!
SUPPORT. Laws/State.lean: what each update of the state leaves unchanged, one lemma for each field, so that no proof unfolds an update.
-/
namespace Sys2Proof.Machine
variable (s : State)

@[simp] theorem State.setWarp_now (w : Warp) : (s.setWarp w).now = s.now := rfl
@[simp] theorem State.setWarp_calAhead (w : Warp) : (s.setWarp w).calAhead = s.calAhead := rfl
@[simp] theorem State.setWarp_ckAhead (w : Warp) : (s.setWarp w).ckAhead = s.ckAhead := rfl
@[simp] theorem State.setWarp_nonce (w : Warp) : (s.setWarp w).nonce = s.nonce := rfl
@[simp] theorem State.setWarp_turn (w : Warp) : (s.setWarp w).turn = s.turn := rfl
@[simp] theorem State.setWarp_agenda (w : Warp) : (s.setWarp w).agenda = s.agenda := rfl
@[simp] theorem State.setWarp_focus (w : Warp) : (s.setWarp w).focus = s.focus := rfl
@[simp] theorem State.setWarp_fe_wgs (w : Warp) : (s.setWarp w).fe.wgs = s.fe.wgs := rfl
@[simp] theorem State.setWarp_fe_issues (w : Warp) : (s.setWarp w).fe.issues = s.fe.issues := rfl
@[simp] theorem State.setWarp_fe_llops (w : Warp) : (s.setWarp w).fe.llops = s.fe.llops := rfl
@[simp] theorem State.setWarp_fe_monitors (w : Warp) : (s.setWarp w).fe.monitors = s.fe.monitors := rfl
@[simp] theorem State.setWarp_fe_buckets (w : Warp) : (s.setWarp w).fe.buckets = s.fe.buckets := rfl
@[simp] theorem State.setWarp_fe_regrouped (w : Warp) : (s.setWarp w).fe.regrouped = s.fe.regrouped := rfl
@[simp] theorem State.setWarp_fe_matched (w : Warp) : (s.setWarp w).fe.matched = s.fe.matched := rfl
@[simp] theorem State.setWarp_mem (w : Warp) : (s.setWarp w).mem = s.mem := rfl
@[simp] theorem State.setWarp_iso (w : Warp) : (s.setWarp w).iso = s.iso := rfl
@[simp] theorem State.setWarp_alm (w : Warp) : (s.setWarp w).alm = s.alm := rfl
@[simp] theorem State.setWarp_eng (w : Warp) : (s.setWarp w).eng = s.eng := rfl
@[simp] theorem State.setWarp_mx (w : Warp) : (s.setWarp w).mx = s.mx := rfl
@[simp] theorem State.setWarp_grid (w : Warp) : (s.setWarp w).grid = s.grid := rfl
@[simp] theorem State.setWarp_saved (w : Warp) : (s.setWarp w).saved = s.saved := rfl
@[simp] theorem State.setWarp_links (w : Warp) : (s.setWarp w).links = s.links := rfl
@[simp] theorem State.setWarp_boot (w : Warp) : (s.setWarp w).boot = s.boot := rfl
@[simp] theorem State.setWarp_irqs (w : Warp) : (s.setWarp w).irqs = s.irqs := rfl

@[simp] theorem State.setWg_now (g : Wg) : (s.setWg g).now = s.now := rfl
@[simp] theorem State.setWg_calAhead (g : Wg) : (s.setWg g).calAhead = s.calAhead := rfl
@[simp] theorem State.setWg_ckAhead (g : Wg) : (s.setWg g).ckAhead = s.ckAhead := rfl
@[simp] theorem State.setWg_nonce (g : Wg) : (s.setWg g).nonce = s.nonce := rfl
@[simp] theorem State.setWg_turn (g : Wg) : (s.setWg g).turn = s.turn := rfl
@[simp] theorem State.setWg_agenda (g : Wg) : (s.setWg g).agenda = s.agenda := rfl
@[simp] theorem State.setWg_focus (g : Wg) : (s.setWg g).focus = s.focus := rfl
@[simp] theorem State.setWg_fe_warps (g : Wg) : (s.setWg g).fe.warps = s.fe.warps := rfl
@[simp] theorem State.setWg_fe_issues (g : Wg) : (s.setWg g).fe.issues = s.fe.issues := rfl
@[simp] theorem State.setWg_fe_llops (g : Wg) : (s.setWg g).fe.llops = s.fe.llops := rfl
@[simp] theorem State.setWg_fe_monitors (g : Wg) : (s.setWg g).fe.monitors = s.fe.monitors := rfl
@[simp] theorem State.setWg_fe_buckets (g : Wg) : (s.setWg g).fe.buckets = s.fe.buckets := rfl
@[simp] theorem State.setWg_fe_regrouped (g : Wg) : (s.setWg g).fe.regrouped = s.fe.regrouped := rfl
@[simp] theorem State.setWg_fe_matched (g : Wg) : (s.setWg g).fe.matched = s.fe.matched := rfl
@[simp] theorem State.setWg_mem (g : Wg) : (s.setWg g).mem = s.mem := rfl
@[simp] theorem State.setWg_iso (g : Wg) : (s.setWg g).iso = s.iso := rfl
@[simp] theorem State.setWg_alm (g : Wg) : (s.setWg g).alm = s.alm := rfl
@[simp] theorem State.setWg_eng (g : Wg) : (s.setWg g).eng = s.eng := rfl
@[simp] theorem State.setWg_mx (g : Wg) : (s.setWg g).mx = s.mx := rfl
@[simp] theorem State.setWg_grid (g : Wg) : (s.setWg g).grid = s.grid := rfl
@[simp] theorem State.setWg_saved (g : Wg) : (s.setWg g).saved = s.saved := rfl
@[simp] theorem State.setWg_links (g : Wg) : (s.setWg g).links = s.links := rfl
@[simp] theorem State.setWg_boot (g : Wg) : (s.setWg g).boot = s.boot := rfl
@[simp] theorem State.setWg_irqs (g : Wg) : (s.setWg g).irqs = s.irqs := rfl

@[simp] theorem State.setLaunch_now (l : Launch) : (s.setLaunch l).now = s.now := rfl
@[simp] theorem State.setLaunch_calAhead (l : Launch) : (s.setLaunch l).calAhead = s.calAhead := rfl
@[simp] theorem State.setLaunch_ckAhead (l : Launch) : (s.setLaunch l).ckAhead = s.ckAhead := rfl
@[simp] theorem State.setLaunch_nonce (l : Launch) : (s.setLaunch l).nonce = s.nonce := rfl
@[simp] theorem State.setLaunch_turn (l : Launch) : (s.setLaunch l).turn = s.turn := rfl
@[simp] theorem State.setLaunch_agenda (l : Launch) : (s.setLaunch l).agenda = s.agenda := rfl
@[simp] theorem State.setLaunch_focus (l : Launch) : (s.setLaunch l).focus = s.focus := rfl
@[simp] theorem State.setLaunch_fe (l : Launch) : (s.setLaunch l).fe = s.fe := rfl
@[simp] theorem State.setLaunch_mem (l : Launch) : (s.setLaunch l).mem = s.mem := rfl
@[simp] theorem State.setLaunch_iso (l : Launch) : (s.setLaunch l).iso = s.iso := rfl
@[simp] theorem State.setLaunch_alm_queues (l : Launch) : (s.setLaunch l).alm.queues = s.alm.queues := rfl
@[simp] theorem State.setLaunch_alm_graphs (l : Launch) : (s.setLaunch l).alm.graphs = s.alm.graphs := rfl
@[simp] theorem State.setLaunch_alm_gens (l : Launch) : (s.setLaunch l).alm.gens = s.alm.gens := rfl
@[simp] theorem State.setLaunch_alm_rr (l : Launch) : (s.setLaunch l).alm.rr = s.alm.rr := rfl
@[simp] theorem State.setLaunch_alm_reserve (l : Launch) : (s.setLaunch l).alm.reserve = s.alm.reserve := rfl
@[simp] theorem State.setLaunch_alm_xlated (l : Launch) : (s.setLaunch l).alm.xlated = s.alm.xlated := rfl
@[simp] theorem State.setLaunch_eng (l : Launch) : (s.setLaunch l).eng = s.eng := rfl
@[simp] theorem State.setLaunch_mx (l : Launch) : (s.setLaunch l).mx = s.mx := rfl
@[simp] theorem State.setLaunch_grid (l : Launch) : (s.setLaunch l).grid = s.grid := rfl
@[simp] theorem State.setLaunch_saved (l : Launch) : (s.setLaunch l).saved = s.saved := rfl
@[simp] theorem State.setLaunch_links (l : Launch) : (s.setLaunch l).links = s.links := rfl
@[simp] theorem State.setLaunch_boot (l : Launch) : (s.setLaunch l).boot = s.boot := rfl
@[simp] theorem State.setLaunch_irqs (l : Launch) : (s.setLaunch l).irqs = s.irqs := rfl

@[simp] theorem State.updQueue_now (q : Nat) (f : Queue → Queue) : (s.updQueue q f).now = s.now := rfl
@[simp] theorem State.updQueue_calAhead (q : Nat) (f : Queue → Queue) : (s.updQueue q f).calAhead = s.calAhead := rfl
@[simp] theorem State.updQueue_ckAhead (q : Nat) (f : Queue → Queue) : (s.updQueue q f).ckAhead = s.ckAhead := rfl
@[simp] theorem State.updQueue_nonce (q : Nat) (f : Queue → Queue) : (s.updQueue q f).nonce = s.nonce := rfl
@[simp] theorem State.updQueue_turn (q : Nat) (f : Queue → Queue) : (s.updQueue q f).turn = s.turn := rfl
@[simp] theorem State.updQueue_agenda (q : Nat) (f : Queue → Queue) : (s.updQueue q f).agenda = s.agenda := rfl
@[simp] theorem State.updQueue_focus (q : Nat) (f : Queue → Queue) : (s.updQueue q f).focus = s.focus := rfl
@[simp] theorem State.updQueue_fe (q : Nat) (f : Queue → Queue) : (s.updQueue q f).fe = s.fe := rfl
@[simp] theorem State.updQueue_mem (q : Nat) (f : Queue → Queue) : (s.updQueue q f).mem = s.mem := rfl
@[simp] theorem State.updQueue_iso (q : Nat) (f : Queue → Queue) : (s.updQueue q f).iso = s.iso := rfl
@[simp] theorem State.updQueue_alm_launches (q : Nat) (f : Queue → Queue) : (s.updQueue q f).alm.launches = s.alm.launches := rfl
@[simp] theorem State.updQueue_alm_graphs (q : Nat) (f : Queue → Queue) : (s.updQueue q f).alm.graphs = s.alm.graphs := rfl
@[simp] theorem State.updQueue_alm_gens (q : Nat) (f : Queue → Queue) : (s.updQueue q f).alm.gens = s.alm.gens := rfl
@[simp] theorem State.updQueue_alm_rr (q : Nat) (f : Queue → Queue) : (s.updQueue q f).alm.rr = s.alm.rr := rfl
@[simp] theorem State.updQueue_alm_reserve (q : Nat) (f : Queue → Queue) : (s.updQueue q f).alm.reserve = s.alm.reserve := rfl
@[simp] theorem State.updQueue_alm_xlated (q : Nat) (f : Queue → Queue) : (s.updQueue q f).alm.xlated = s.alm.xlated := rfl
@[simp] theorem State.updQueue_eng (q : Nat) (f : Queue → Queue) : (s.updQueue q f).eng = s.eng := rfl
@[simp] theorem State.updQueue_mx (q : Nat) (f : Queue → Queue) : (s.updQueue q f).mx = s.mx := rfl
@[simp] theorem State.updQueue_grid (q : Nat) (f : Queue → Queue) : (s.updQueue q f).grid = s.grid := rfl
@[simp] theorem State.updQueue_saved (q : Nat) (f : Queue → Queue) : (s.updQueue q f).saved = s.saved := rfl
@[simp] theorem State.updQueue_links (q : Nat) (f : Queue → Queue) : (s.updQueue q f).links = s.links := rfl
@[simp] theorem State.updQueue_boot (q : Nat) (f : Queue → Queue) : (s.updQueue q f).boot = s.boot := rfl
@[simp] theorem State.updQueue_irqs (q : Nat) (f : Queue → Queue) : (s.updQueue q f).irqs = s.irqs := rfl

@[simp] theorem State.updGraph_now (g : Nat) (f : Graph → Graph) : (s.updGraph g f).now = s.now := rfl
@[simp] theorem State.updGraph_calAhead (g : Nat) (f : Graph → Graph) : (s.updGraph g f).calAhead = s.calAhead := rfl
@[simp] theorem State.updGraph_ckAhead (g : Nat) (f : Graph → Graph) : (s.updGraph g f).ckAhead = s.ckAhead := rfl
@[simp] theorem State.updGraph_nonce (g : Nat) (f : Graph → Graph) : (s.updGraph g f).nonce = s.nonce := rfl
@[simp] theorem State.updGraph_turn (g : Nat) (f : Graph → Graph) : (s.updGraph g f).turn = s.turn := rfl
@[simp] theorem State.updGraph_agenda (g : Nat) (f : Graph → Graph) : (s.updGraph g f).agenda = s.agenda := rfl
@[simp] theorem State.updGraph_focus (g : Nat) (f : Graph → Graph) : (s.updGraph g f).focus = s.focus := rfl
@[simp] theorem State.updGraph_fe (g : Nat) (f : Graph → Graph) : (s.updGraph g f).fe = s.fe := rfl
@[simp] theorem State.updGraph_mem (g : Nat) (f : Graph → Graph) : (s.updGraph g f).mem = s.mem := rfl
@[simp] theorem State.updGraph_iso (g : Nat) (f : Graph → Graph) : (s.updGraph g f).iso = s.iso := rfl
@[simp] theorem State.updGraph_alm_queues (g : Nat) (f : Graph → Graph) : (s.updGraph g f).alm.queues = s.alm.queues := rfl
@[simp] theorem State.updGraph_alm_launches (g : Nat) (f : Graph → Graph) : (s.updGraph g f).alm.launches = s.alm.launches := rfl
@[simp] theorem State.updGraph_alm_gens (g : Nat) (f : Graph → Graph) : (s.updGraph g f).alm.gens = s.alm.gens := rfl
@[simp] theorem State.updGraph_alm_rr (g : Nat) (f : Graph → Graph) : (s.updGraph g f).alm.rr = s.alm.rr := rfl
@[simp] theorem State.updGraph_alm_reserve (g : Nat) (f : Graph → Graph) : (s.updGraph g f).alm.reserve = s.alm.reserve := rfl
@[simp] theorem State.updGraph_alm_xlated (g : Nat) (f : Graph → Graph) : (s.updGraph g f).alm.xlated = s.alm.xlated := rfl
@[simp] theorem State.updGraph_eng (g : Nat) (f : Graph → Graph) : (s.updGraph g f).eng = s.eng := rfl
@[simp] theorem State.updGraph_mx (g : Nat) (f : Graph → Graph) : (s.updGraph g f).mx = s.mx := rfl
@[simp] theorem State.updGraph_grid (g : Nat) (f : Graph → Graph) : (s.updGraph g f).grid = s.grid := rfl
@[simp] theorem State.updGraph_saved (g : Nat) (f : Graph → Graph) : (s.updGraph g f).saved = s.saved := rfl
@[simp] theorem State.updGraph_links (g : Nat) (f : Graph → Graph) : (s.updGraph g f).links = s.links := rfl
@[simp] theorem State.updGraph_boot (g : Nat) (f : Graph → Graph) : (s.updGraph g f).boot = s.boot := rfl
@[simp] theorem State.updGraph_irqs (g : Nat) (f : Graph → Graph) : (s.updGraph g f).irqs = s.irqs := rfl

@[simp] theorem State.updLL_now (id : Nat) (f : LLOp → LLOp) : (s.updLL id f).now = s.now := rfl
@[simp] theorem State.updLL_calAhead (id : Nat) (f : LLOp → LLOp) : (s.updLL id f).calAhead = s.calAhead := rfl
@[simp] theorem State.updLL_ckAhead (id : Nat) (f : LLOp → LLOp) : (s.updLL id f).ckAhead = s.ckAhead := rfl
@[simp] theorem State.updLL_nonce (id : Nat) (f : LLOp → LLOp) : (s.updLL id f).nonce = s.nonce := rfl
@[simp] theorem State.updLL_turn (id : Nat) (f : LLOp → LLOp) : (s.updLL id f).turn = s.turn := rfl
@[simp] theorem State.updLL_agenda (id : Nat) (f : LLOp → LLOp) : (s.updLL id f).agenda = s.agenda := rfl
@[simp] theorem State.updLL_focus (id : Nat) (f : LLOp → LLOp) : (s.updLL id f).focus = s.focus := rfl
@[simp] theorem State.updLL_fe_warps (id : Nat) (f : LLOp → LLOp) : (s.updLL id f).fe.warps = s.fe.warps := rfl
@[simp] theorem State.updLL_fe_wgs (id : Nat) (f : LLOp → LLOp) : (s.updLL id f).fe.wgs = s.fe.wgs := rfl
@[simp] theorem State.updLL_fe_issues (id : Nat) (f : LLOp → LLOp) : (s.updLL id f).fe.issues = s.fe.issues := rfl
@[simp] theorem State.updLL_fe_monitors (id : Nat) (f : LLOp → LLOp) : (s.updLL id f).fe.monitors = s.fe.monitors := rfl
@[simp] theorem State.updLL_fe_buckets (id : Nat) (f : LLOp → LLOp) : (s.updLL id f).fe.buckets = s.fe.buckets := rfl
@[simp] theorem State.updLL_fe_regrouped (id : Nat) (f : LLOp → LLOp) : (s.updLL id f).fe.regrouped = s.fe.regrouped := rfl
@[simp] theorem State.updLL_fe_matched (id : Nat) (f : LLOp → LLOp) : (s.updLL id f).fe.matched = s.fe.matched := rfl
@[simp] theorem State.updLL_mem (id : Nat) (f : LLOp → LLOp) : (s.updLL id f).mem = s.mem := rfl
@[simp] theorem State.updLL_iso (id : Nat) (f : LLOp → LLOp) : (s.updLL id f).iso = s.iso := rfl
@[simp] theorem State.updLL_alm (id : Nat) (f : LLOp → LLOp) : (s.updLL id f).alm = s.alm := rfl
@[simp] theorem State.updLL_eng (id : Nat) (f : LLOp → LLOp) : (s.updLL id f).eng = s.eng := rfl
@[simp] theorem State.updLL_mx (id : Nat) (f : LLOp → LLOp) : (s.updLL id f).mx = s.mx := rfl
@[simp] theorem State.updLL_grid (id : Nat) (f : LLOp → LLOp) : (s.updLL id f).grid = s.grid := rfl
@[simp] theorem State.updLL_saved (id : Nat) (f : LLOp → LLOp) : (s.updLL id f).saved = s.saved := rfl
@[simp] theorem State.updLL_links (id : Nat) (f : LLOp → LLOp) : (s.updLL id f).links = s.links := rfl
@[simp] theorem State.updLL_boot (id : Nat) (f : LLOp → LLOp) : (s.updLL id f).boot = s.boot := rfl
@[simp] theorem State.updLL_irqs (id : Nat) (f : LLOp → LLOp) : (s.updLL id f).irqs = s.irqs := rfl

@[simp] theorem State.after_now (dt : Nat) (i : Instr) : (s.after dt i).now = s.now := rfl
@[simp] theorem State.after_calAhead (dt : Nat) (i : Instr) : (s.after dt i).calAhead = s.calAhead := rfl
@[simp] theorem State.after_ckAhead (dt : Nat) (i : Instr) : (s.after dt i).ckAhead = s.ckAhead := rfl
@[simp] theorem State.after_nonce (dt : Nat) (i : Instr) : (s.after dt i).nonce = s.nonce := rfl
@[simp] theorem State.after_turn (dt : Nat) (i : Instr) : (s.after dt i).turn = s.turn := rfl
@[simp] theorem State.after_focus (dt : Nat) (i : Instr) : (s.after dt i).focus = s.focus := rfl
@[simp] theorem State.after_fe (dt : Nat) (i : Instr) : (s.after dt i).fe = s.fe := rfl
@[simp] theorem State.after_mem (dt : Nat) (i : Instr) : (s.after dt i).mem = s.mem := rfl
@[simp] theorem State.after_iso (dt : Nat) (i : Instr) : (s.after dt i).iso = s.iso := rfl
@[simp] theorem State.after_alm (dt : Nat) (i : Instr) : (s.after dt i).alm = s.alm := rfl
@[simp] theorem State.after_eng (dt : Nat) (i : Instr) : (s.after dt i).eng = s.eng := rfl
@[simp] theorem State.after_mx (dt : Nat) (i : Instr) : (s.after dt i).mx = s.mx := rfl
@[simp] theorem State.after_grid (dt : Nat) (i : Instr) : (s.after dt i).grid = s.grid := rfl
@[simp] theorem State.after_saved (dt : Nat) (i : Instr) : (s.after dt i).saved = s.saved := rfl
@[simp] theorem State.after_links (dt : Nat) (i : Instr) : (s.after dt i).links = s.links := rfl
@[simp] theorem State.after_boot (dt : Nat) (i : Instr) : (s.after dt i).boot = s.boot := rfl
@[simp] theorem State.after_irqs (dt : Nat) (i : Instr) : (s.after dt i).irqs = s.irqs := rfl

@[simp] theorem State.later_now (i : Instr) : (s.later i).now = s.now := rfl
@[simp] theorem State.later_calAhead (i : Instr) : (s.later i).calAhead = s.calAhead := rfl
@[simp] theorem State.later_ckAhead (i : Instr) : (s.later i).ckAhead = s.ckAhead := rfl
@[simp] theorem State.later_turn (i : Instr) : (s.later i).turn = s.turn := rfl
@[simp] theorem State.later_focus (i : Instr) : (s.later i).focus = s.focus := rfl
@[simp] theorem State.later_fe (i : Instr) : (s.later i).fe = s.fe := rfl
@[simp] theorem State.later_mem (i : Instr) : (s.later i).mem = s.mem := rfl
@[simp] theorem State.later_iso (i : Instr) : (s.later i).iso = s.iso := rfl
@[simp] theorem State.later_alm (i : Instr) : (s.later i).alm = s.alm := rfl
@[simp] theorem State.later_eng (i : Instr) : (s.later i).eng = s.eng := rfl
@[simp] theorem State.later_mx (i : Instr) : (s.later i).mx = s.mx := rfl
@[simp] theorem State.later_grid (i : Instr) : (s.later i).grid = s.grid := rfl
@[simp] theorem State.later_saved (i : Instr) : (s.later i).saved = s.saved := rfl
@[simp] theorem State.later_links (i : Instr) : (s.later i).links = s.links := rfl
@[simp] theorem State.later_boot (i : Instr) : (s.later i).boot = s.boot := rfl
@[simp] theorem State.later_irqs (i : Instr) : (s.later i).irqs = s.irqs := rfl

@[simp] theorem State.within_now (n : Nat) (i : Instr) : (s.within n i).now = s.now := rfl
@[simp] theorem State.within_calAhead (n : Nat) (i : Instr) : (s.within n i).calAhead = s.calAhead := rfl
@[simp] theorem State.within_ckAhead (n : Nat) (i : Instr) : (s.within n i).ckAhead = s.ckAhead := rfl
@[simp] theorem State.within_turn (n : Nat) (i : Instr) : (s.within n i).turn = s.turn := rfl
@[simp] theorem State.within_focus (n : Nat) (i : Instr) : (s.within n i).focus = s.focus := rfl
@[simp] theorem State.within_fe (n : Nat) (i : Instr) : (s.within n i).fe = s.fe := rfl
@[simp] theorem State.within_mem (n : Nat) (i : Instr) : (s.within n i).mem = s.mem := rfl
@[simp] theorem State.within_iso (n : Nat) (i : Instr) : (s.within n i).iso = s.iso := rfl
@[simp] theorem State.within_alm (n : Nat) (i : Instr) : (s.within n i).alm = s.alm := rfl
@[simp] theorem State.within_eng (n : Nat) (i : Instr) : (s.within n i).eng = s.eng := rfl
@[simp] theorem State.within_mx (n : Nat) (i : Instr) : (s.within n i).mx = s.mx := rfl
@[simp] theorem State.within_grid (n : Nat) (i : Instr) : (s.within n i).grid = s.grid := rfl
@[simp] theorem State.within_saved (n : Nat) (i : Instr) : (s.within n i).saved = s.saved := rfl
@[simp] theorem State.within_links (n : Nat) (i : Instr) : (s.within n i).links = s.links := rfl
@[simp] theorem State.within_boot (n : Nat) (i : Instr) : (s.within n i).boot = s.boot := rfl
@[simp] theorem State.within_irqs (n : Nat) (i : Instr) : (s.within n i).irqs = s.irqs := rfl

@[simp] theorem State.first_now (l : List Instr) : (s.first l).now = s.now := rfl
@[simp] theorem State.first_calAhead (l : List Instr) : (s.first l).calAhead = s.calAhead := rfl
@[simp] theorem State.first_ckAhead (l : List Instr) : (s.first l).ckAhead = s.ckAhead := rfl
@[simp] theorem State.first_nonce (l : List Instr) : (s.first l).nonce = s.nonce := rfl
@[simp] theorem State.first_turn (l : List Instr) : (s.first l).turn = s.turn := rfl
@[simp] theorem State.first_focus (l : List Instr) : (s.first l).focus = s.focus := rfl
@[simp] theorem State.first_fe (l : List Instr) : (s.first l).fe = s.fe := rfl
@[simp] theorem State.first_mem (l : List Instr) : (s.first l).mem = s.mem := rfl
@[simp] theorem State.first_iso (l : List Instr) : (s.first l).iso = s.iso := rfl
@[simp] theorem State.first_alm (l : List Instr) : (s.first l).alm = s.alm := rfl
@[simp] theorem State.first_eng (l : List Instr) : (s.first l).eng = s.eng := rfl
@[simp] theorem State.first_mx (l : List Instr) : (s.first l).mx = s.mx := rfl
@[simp] theorem State.first_grid (l : List Instr) : (s.first l).grid = s.grid := rfl
@[simp] theorem State.first_saved (l : List Instr) : (s.first l).saved = s.saved := rfl
@[simp] theorem State.first_links (l : List Instr) : (s.first l).links = s.links := rfl
@[simp] theorem State.first_boot (l : List Instr) : (s.first l).boot = s.boot := rfl
@[simp] theorem State.first_irqs (l : List Instr) : (s.first l).irqs = s.irqs := rfl

@[simp] theorem State.acquireFab_now (core ctx : Nat) : (s.acquireFab core ctx).now = s.now := rfl
@[simp] theorem State.acquireFab_calAhead (core ctx : Nat) : (s.acquireFab core ctx).calAhead = s.calAhead := rfl
@[simp] theorem State.acquireFab_ckAhead (core ctx : Nat) : (s.acquireFab core ctx).ckAhead = s.ckAhead := rfl
@[simp] theorem State.acquireFab_nonce (core ctx : Nat) : (s.acquireFab core ctx).nonce = s.nonce := rfl
@[simp] theorem State.acquireFab_turn (core ctx : Nat) : (s.acquireFab core ctx).turn = s.turn := rfl
@[simp] theorem State.acquireFab_agenda (core ctx : Nat) : (s.acquireFab core ctx).agenda = s.agenda := rfl
@[simp] theorem State.acquireFab_focus (core ctx : Nat) : (s.acquireFab core ctx).focus = s.focus := rfl
@[simp] theorem State.acquireFab_fe (core ctx : Nat) : (s.acquireFab core ctx).fe = s.fe := rfl
@[simp] theorem State.acquireFab_mem_bytes (core ctx : Nat) : (s.acquireFab core ctx).mem.bytes = s.mem.bytes := rfl
@[simp] theorem State.acquireFab_mem_undef (core ctx : Nat) : (s.acquireFab core ctx).mem.undef = s.mem.undef := rfl
@[simp] theorem State.acquireFab_mem_veil (core ctx : Nat) : (s.acquireFab core ctx).mem.veil = s.mem.veil := rfl
@[simp] theorem State.acquireFab_mem_consts (core ctx : Nat) : (s.acquireFab core ctx).mem.consts = s.mem.consts := rfl
@[simp] theorem State.acquireFab_mem_die (core ctx : Nat) : (s.acquireFab core ctx).mem.die = s.mem.die := rfl
@[simp] theorem State.acquireFab_mem_home (core ctx : Nat) : (s.acquireFab core ctx).mem.home = s.mem.home := rfl
@[simp] theorem State.acquireFab_mem_reqs (core ctx : Nat) : (s.acquireFab core ctx).mem.reqs = s.mem.reqs := rfl
@[simp] theorem State.acquireFab_mem_tables (core ctx : Nat) : (s.acquireFab core ctx).mem.tables = s.mem.tables := rfl
@[simp] theorem State.acquireFab_mem_ranges (core ctx : Nat) : (s.acquireFab core ctx).mem.ranges = s.mem.ranges := rfl
@[simp] theorem State.acquireFab_mem_windows (core ctx : Nat) : (s.acquireFab core ctx).mem.windows = s.mem.windows := rfl
@[simp] theorem State.acquireFab_mem_ranging (core ctx : Nat) : (s.acquireFab core ctx).mem.ranging = s.mem.ranging := rfl
@[simp] theorem State.acquireFab_mem_aged (core ctx : Nat) : (s.acquireFab core ctx).mem.aged = s.mem.aged := rfl
@[simp] theorem State.acquireFab_mem_pts (core ctx : Nat) : (s.acquireFab core ctx).mem.pts = s.mem.pts := rfl
@[simp] theorem State.acquireFab_mem_poisoned (core ctx : Nat) : (s.acquireFab core ctx).mem.poisoned = s.mem.poisoned := rfl
@[simp] theorem State.acquireFab_mem_s2m (core ctx : Nat) : (s.acquireFab core ctx).mem.s2m = s.mem.s2m := rfl
@[simp] theorem State.acquireFab_iso (core ctx : Nat) : (s.acquireFab core ctx).iso = s.iso := rfl
@[simp] theorem State.acquireFab_alm (core ctx : Nat) : (s.acquireFab core ctx).alm = s.alm := rfl
@[simp] theorem State.acquireFab_eng (core ctx : Nat) : (s.acquireFab core ctx).eng = s.eng := rfl
@[simp] theorem State.acquireFab_mx (core ctx : Nat) : (s.acquireFab core ctx).mx = s.mx := rfl
@[simp] theorem State.acquireFab_grid (core ctx : Nat) : (s.acquireFab core ctx).grid = s.grid := rfl
@[simp] theorem State.acquireFab_saved (core ctx : Nat) : (s.acquireFab core ctx).saved = s.saved := rfl
@[simp] theorem State.acquireFab_links (core ctx : Nat) : (s.acquireFab core ctx).links = s.links := rfl
@[simp] theorem State.acquireFab_boot (core ctx : Nat) : (s.acquireFab core ctx).boot = s.boot := rfl
@[simp] theorem State.acquireFab_irqs (core ctx : Nat) : (s.acquireFab core ctx).irqs = s.irqs := rfl

@[simp] theorem State.setJob_now (j : RangeJob) : (s.setJob j).now = s.now := rfl
@[simp] theorem State.setJob_calAhead (j : RangeJob) : (s.setJob j).calAhead = s.calAhead := rfl
@[simp] theorem State.setJob_ckAhead (j : RangeJob) : (s.setJob j).ckAhead = s.ckAhead := rfl
@[simp] theorem State.setJob_nonce (j : RangeJob) : (s.setJob j).nonce = s.nonce := rfl
@[simp] theorem State.setJob_turn (j : RangeJob) : (s.setJob j).turn = s.turn := rfl
@[simp] theorem State.setJob_agenda (j : RangeJob) : (s.setJob j).agenda = s.agenda := rfl
@[simp] theorem State.setJob_focus (j : RangeJob) : (s.setJob j).focus = s.focus := rfl
@[simp] theorem State.setJob_fe (j : RangeJob) : (s.setJob j).fe = s.fe := rfl
@[simp] theorem State.setJob_mem_bytes (j : RangeJob) : (s.setJob j).mem.bytes = s.mem.bytes := rfl
@[simp] theorem State.setJob_mem_undef (j : RangeJob) : (s.setJob j).mem.undef = s.mem.undef := rfl
@[simp] theorem State.setJob_mem_veil (j : RangeJob) : (s.setJob j).mem.veil = s.mem.veil := rfl
@[simp] theorem State.setJob_mem_consts (j : RangeJob) : (s.setJob j).mem.consts = s.mem.consts := rfl
@[simp] theorem State.setJob_mem_fab (j : RangeJob) : (s.setJob j).mem.fab = s.mem.fab := rfl
@[simp] theorem State.setJob_mem_die (j : RangeJob) : (s.setJob j).mem.die = s.mem.die := rfl
@[simp] theorem State.setJob_mem_home (j : RangeJob) : (s.setJob j).mem.home = s.mem.home := rfl
@[simp] theorem State.setJob_mem_reqs (j : RangeJob) : (s.setJob j).mem.reqs = s.mem.reqs := rfl
@[simp] theorem State.setJob_mem_tables (j : RangeJob) : (s.setJob j).mem.tables = s.mem.tables := rfl
@[simp] theorem State.setJob_mem_ranges (j : RangeJob) : (s.setJob j).mem.ranges = s.mem.ranges := rfl
@[simp] theorem State.setJob_mem_windows (j : RangeJob) : (s.setJob j).mem.windows = s.mem.windows := rfl
@[simp] theorem State.setJob_mem_aged (j : RangeJob) : (s.setJob j).mem.aged = s.mem.aged := rfl
@[simp] theorem State.setJob_mem_pts (j : RangeJob) : (s.setJob j).mem.pts = s.mem.pts := rfl
@[simp] theorem State.setJob_mem_poisoned (j : RangeJob) : (s.setJob j).mem.poisoned = s.mem.poisoned := rfl
@[simp] theorem State.setJob_mem_s2m (j : RangeJob) : (s.setJob j).mem.s2m = s.mem.s2m := rfl
@[simp] theorem State.setJob_iso (j : RangeJob) : (s.setJob j).iso = s.iso := rfl
@[simp] theorem State.setJob_alm (j : RangeJob) : (s.setJob j).alm = s.alm := rfl
@[simp] theorem State.setJob_eng (j : RangeJob) : (s.setJob j).eng = s.eng := rfl
@[simp] theorem State.setJob_mx (j : RangeJob) : (s.setJob j).mx = s.mx := rfl
@[simp] theorem State.setJob_grid (j : RangeJob) : (s.setJob j).grid = s.grid := rfl
@[simp] theorem State.setJob_saved (j : RangeJob) : (s.setJob j).saved = s.saved := rfl
@[simp] theorem State.setJob_links (j : RangeJob) : (s.setJob j).links = s.links := rfl
@[simp] theorem State.setJob_boot (j : RangeJob) : (s.setJob j).boot = s.boot := rfl
@[simp] theorem State.setJob_irqs (j : RangeJob) : (s.setJob j).irqs = s.irqs := rfl

@[simp] theorem State.gridWait_now (m : LaneMask) : (s.gridWait m).now = s.now := rfl
@[simp] theorem State.gridWait_calAhead (m : LaneMask) : (s.gridWait m).calAhead = s.calAhead := rfl
@[simp] theorem State.gridWait_ckAhead (m : LaneMask) : (s.gridWait m).ckAhead = s.ckAhead := rfl
@[simp] theorem State.gridWait_nonce (m : LaneMask) : (s.gridWait m).nonce = s.nonce := rfl
@[simp] theorem State.gridWait_turn (m : LaneMask) : (s.gridWait m).turn = s.turn := rfl
@[simp] theorem State.gridWait_agenda (m : LaneMask) : (s.gridWait m).agenda = s.agenda := rfl
@[simp] theorem State.gridWait_fe (m : LaneMask) : (s.gridWait m).fe = s.fe := rfl
@[simp] theorem State.gridWait_mem (m : LaneMask) : (s.gridWait m).mem = s.mem := rfl
@[simp] theorem State.gridWait_iso (m : LaneMask) : (s.gridWait m).iso = s.iso := rfl
@[simp] theorem State.gridWait_alm (m : LaneMask) : (s.gridWait m).alm = s.alm := rfl
@[simp] theorem State.gridWait_eng (m : LaneMask) : (s.gridWait m).eng = s.eng := rfl
@[simp] theorem State.gridWait_mx (m : LaneMask) : (s.gridWait m).mx = s.mx := rfl
@[simp] theorem State.gridWait_grid (m : LaneMask) : (s.gridWait m).grid = s.grid := rfl
@[simp] theorem State.gridWait_saved (m : LaneMask) : (s.gridWait m).saved = s.saved := rfl
@[simp] theorem State.gridWait_links (m : LaneMask) : (s.gridWait m).links = s.links := rfl
@[simp] theorem State.gridWait_boot (m : LaneMask) : (s.gridWait m).boot = s.boot := rfl
@[simp] theorem State.gridWait_irqs (m : LaneMask) : (s.gridWait m).irqs = s.irqs := rfl

@[simp] theorem State.gridFail_now (kind : Nat) (errs : List LaneErr) : (s.gridFail kind errs).now = s.now := rfl
@[simp] theorem State.gridFail_calAhead (kind : Nat) (errs : List LaneErr) : (s.gridFail kind errs).calAhead = s.calAhead := rfl
@[simp] theorem State.gridFail_ckAhead (kind : Nat) (errs : List LaneErr) : (s.gridFail kind errs).ckAhead = s.ckAhead := rfl
@[simp] theorem State.gridFail_nonce (kind : Nat) (errs : List LaneErr) : (s.gridFail kind errs).nonce = s.nonce := rfl
@[simp] theorem State.gridFail_turn (kind : Nat) (errs : List LaneErr) : (s.gridFail kind errs).turn = s.turn := rfl
@[simp] theorem State.gridFail_agenda (kind : Nat) (errs : List LaneErr) : (s.gridFail kind errs).agenda = s.agenda := rfl
@[simp] theorem State.gridFail_fe (kind : Nat) (errs : List LaneErr) : (s.gridFail kind errs).fe = s.fe := rfl
@[simp] theorem State.gridFail_mem (kind : Nat) (errs : List LaneErr) : (s.gridFail kind errs).mem = s.mem := rfl
@[simp] theorem State.gridFail_iso (kind : Nat) (errs : List LaneErr) : (s.gridFail kind errs).iso = s.iso := rfl
@[simp] theorem State.gridFail_alm (kind : Nat) (errs : List LaneErr) : (s.gridFail kind errs).alm = s.alm := rfl
@[simp] theorem State.gridFail_eng (kind : Nat) (errs : List LaneErr) : (s.gridFail kind errs).eng = s.eng := rfl
@[simp] theorem State.gridFail_mx (kind : Nat) (errs : List LaneErr) : (s.gridFail kind errs).mx = s.mx := rfl
@[simp] theorem State.gridFail_grid (kind : Nat) (errs : List LaneErr) : (s.gridFail kind errs).grid = s.grid := rfl
@[simp] theorem State.gridFail_saved (kind : Nat) (errs : List LaneErr) : (s.gridFail kind errs).saved = s.saved := rfl
@[simp] theorem State.gridFail_links (kind : Nat) (errs : List LaneErr) : (s.gridFail kind errs).links = s.links := rfl
@[simp] theorem State.gridFail_boot (kind : Nat) (errs : List LaneErr) : (s.gridFail kind errs).boot = s.boot := rfl
@[simp] theorem State.gridFail_irqs (kind : Nat) (errs : List LaneErr) : (s.gridFail kind errs).irqs = s.irqs := rfl

@[simp] theorem State.setFab_now (l : FabLine) : (s.setFab l).now = s.now := rfl
@[simp] theorem State.setFab_calAhead (l : FabLine) : (s.setFab l).calAhead = s.calAhead := rfl
@[simp] theorem State.setFab_ckAhead (l : FabLine) : (s.setFab l).ckAhead = s.ckAhead := rfl
@[simp] theorem State.setFab_nonce (l : FabLine) : (s.setFab l).nonce = s.nonce := rfl
@[simp] theorem State.setFab_turn (l : FabLine) : (s.setFab l).turn = s.turn := rfl
@[simp] theorem State.setFab_agenda (l : FabLine) : (s.setFab l).agenda = s.agenda := rfl
@[simp] theorem State.setFab_focus (l : FabLine) : (s.setFab l).focus = s.focus := rfl
@[simp] theorem State.setFab_fe (l : FabLine) : (s.setFab l).fe = s.fe := rfl
@[simp] theorem State.setFab_mem_bytes (l : FabLine) : (s.setFab l).mem.bytes = s.mem.bytes := rfl
@[simp] theorem State.setFab_mem_undef (l : FabLine) : (s.setFab l).mem.undef = s.mem.undef := rfl
@[simp] theorem State.setFab_mem_veil (l : FabLine) : (s.setFab l).mem.veil = s.mem.veil := rfl
@[simp] theorem State.setFab_mem_consts (l : FabLine) : (s.setFab l).mem.consts = s.mem.consts := rfl
@[simp] theorem State.setFab_mem_die (l : FabLine) : (s.setFab l).mem.die = s.mem.die := rfl
@[simp] theorem State.setFab_mem_home (l : FabLine) : (s.setFab l).mem.home = s.mem.home := rfl
@[simp] theorem State.setFab_mem_reqs (l : FabLine) : (s.setFab l).mem.reqs = s.mem.reqs := rfl
@[simp] theorem State.setFab_mem_tables (l : FabLine) : (s.setFab l).mem.tables = s.mem.tables := rfl
@[simp] theorem State.setFab_mem_ranges (l : FabLine) : (s.setFab l).mem.ranges = s.mem.ranges := rfl
@[simp] theorem State.setFab_mem_windows (l : FabLine) : (s.setFab l).mem.windows = s.mem.windows := rfl
@[simp] theorem State.setFab_mem_ranging (l : FabLine) : (s.setFab l).mem.ranging = s.mem.ranging := rfl
@[simp] theorem State.setFab_mem_aged (l : FabLine) : (s.setFab l).mem.aged = s.mem.aged := rfl
@[simp] theorem State.setFab_mem_pts (l : FabLine) : (s.setFab l).mem.pts = s.mem.pts := rfl
@[simp] theorem State.setFab_mem_poisoned (l : FabLine) : (s.setFab l).mem.poisoned = s.mem.poisoned := rfl
@[simp] theorem State.setFab_mem_s2m (l : FabLine) : (s.setFab l).mem.s2m = s.mem.s2m := rfl
@[simp] theorem State.setFab_iso (l : FabLine) : (s.setFab l).iso = s.iso := rfl
@[simp] theorem State.setFab_alm (l : FabLine) : (s.setFab l).alm = s.alm := rfl
@[simp] theorem State.setFab_eng (l : FabLine) : (s.setFab l).eng = s.eng := rfl
@[simp] theorem State.setFab_mx (l : FabLine) : (s.setFab l).mx = s.mx := rfl
@[simp] theorem State.setFab_grid (l : FabLine) : (s.setFab l).grid = s.grid := rfl
@[simp] theorem State.setFab_saved (l : FabLine) : (s.setFab l).saved = s.saved := rfl
@[simp] theorem State.setFab_links (l : FabLine) : (s.setFab l).links = s.links := rfl
@[simp] theorem State.setFab_boot (l : FabLine) : (s.setFab l).boot = s.boot := rfl
@[simp] theorem State.setFab_irqs (l : FabLine) : (s.setFab l).irqs = s.irqs := rfl

@[simp] theorem State.dropFab_now (core ctx vline : Nat) : (s.dropFab core ctx vline).now = s.now := rfl
@[simp] theorem State.dropFab_calAhead (core ctx vline : Nat) : (s.dropFab core ctx vline).calAhead = s.calAhead := rfl
@[simp] theorem State.dropFab_ckAhead (core ctx vline : Nat) : (s.dropFab core ctx vline).ckAhead = s.ckAhead := rfl
@[simp] theorem State.dropFab_nonce (core ctx vline : Nat) : (s.dropFab core ctx vline).nonce = s.nonce := rfl
@[simp] theorem State.dropFab_turn (core ctx vline : Nat) : (s.dropFab core ctx vline).turn = s.turn := rfl
@[simp] theorem State.dropFab_agenda (core ctx vline : Nat) : (s.dropFab core ctx vline).agenda = s.agenda := rfl
@[simp] theorem State.dropFab_focus (core ctx vline : Nat) : (s.dropFab core ctx vline).focus = s.focus := rfl
@[simp] theorem State.dropFab_fe (core ctx vline : Nat) : (s.dropFab core ctx vline).fe = s.fe := rfl
@[simp] theorem State.dropFab_mem_bytes (core ctx vline : Nat) : (s.dropFab core ctx vline).mem.bytes = s.mem.bytes := rfl
@[simp] theorem State.dropFab_mem_undef (core ctx vline : Nat) : (s.dropFab core ctx vline).mem.undef = s.mem.undef := rfl
@[simp] theorem State.dropFab_mem_veil (core ctx vline : Nat) : (s.dropFab core ctx vline).mem.veil = s.mem.veil := rfl
@[simp] theorem State.dropFab_mem_consts (core ctx vline : Nat) : (s.dropFab core ctx vline).mem.consts = s.mem.consts := rfl
@[simp] theorem State.dropFab_mem_die (core ctx vline : Nat) : (s.dropFab core ctx vline).mem.die = s.mem.die := rfl
@[simp] theorem State.dropFab_mem_home (core ctx vline : Nat) : (s.dropFab core ctx vline).mem.home = s.mem.home := rfl
@[simp] theorem State.dropFab_mem_reqs (core ctx vline : Nat) : (s.dropFab core ctx vline).mem.reqs = s.mem.reqs := rfl
@[simp] theorem State.dropFab_mem_tables (core ctx vline : Nat) : (s.dropFab core ctx vline).mem.tables = s.mem.tables := rfl
@[simp] theorem State.dropFab_mem_ranges (core ctx vline : Nat) : (s.dropFab core ctx vline).mem.ranges = s.mem.ranges := rfl
@[simp] theorem State.dropFab_mem_windows (core ctx vline : Nat) : (s.dropFab core ctx vline).mem.windows = s.mem.windows := rfl
@[simp] theorem State.dropFab_mem_ranging (core ctx vline : Nat) : (s.dropFab core ctx vline).mem.ranging = s.mem.ranging := rfl
@[simp] theorem State.dropFab_mem_aged (core ctx vline : Nat) : (s.dropFab core ctx vline).mem.aged = s.mem.aged := rfl
@[simp] theorem State.dropFab_mem_pts (core ctx vline : Nat) : (s.dropFab core ctx vline).mem.pts = s.mem.pts := rfl
@[simp] theorem State.dropFab_mem_poisoned (core ctx vline : Nat) : (s.dropFab core ctx vline).mem.poisoned = s.mem.poisoned := rfl
@[simp] theorem State.dropFab_mem_s2m (core ctx vline : Nat) : (s.dropFab core ctx vline).mem.s2m = s.mem.s2m := rfl
@[simp] theorem State.dropFab_iso (core ctx vline : Nat) : (s.dropFab core ctx vline).iso = s.iso := rfl
@[simp] theorem State.dropFab_alm (core ctx vline : Nat) : (s.dropFab core ctx vline).alm = s.alm := rfl
@[simp] theorem State.dropFab_eng (core ctx vline : Nat) : (s.dropFab core ctx vline).eng = s.eng := rfl
@[simp] theorem State.dropFab_mx (core ctx vline : Nat) : (s.dropFab core ctx vline).mx = s.mx := rfl
@[simp] theorem State.dropFab_grid (core ctx vline : Nat) : (s.dropFab core ctx vline).grid = s.grid := rfl
@[simp] theorem State.dropFab_saved (core ctx vline : Nat) : (s.dropFab core ctx vline).saved = s.saved := rfl
@[simp] theorem State.dropFab_links (core ctx vline : Nat) : (s.dropFab core ctx vline).links = s.links := rfl
@[simp] theorem State.dropFab_boot (core ctx vline : Nat) : (s.dropFab core ctx vline).boot = s.boot := rfl
@[simp] theorem State.dropFab_irqs (core ctx vline : Nat) : (s.dropFab core ctx vline).irqs = s.irqs := rfl

@[simp] theorem State.setDieLine_now (d : DieLine) : (s.setDieLine d).now = s.now := rfl
@[simp] theorem State.setDieLine_calAhead (d : DieLine) : (s.setDieLine d).calAhead = s.calAhead := rfl
@[simp] theorem State.setDieLine_ckAhead (d : DieLine) : (s.setDieLine d).ckAhead = s.ckAhead := rfl
@[simp] theorem State.setDieLine_nonce (d : DieLine) : (s.setDieLine d).nonce = s.nonce := rfl
@[simp] theorem State.setDieLine_turn (d : DieLine) : (s.setDieLine d).turn = s.turn := rfl
@[simp] theorem State.setDieLine_agenda (d : DieLine) : (s.setDieLine d).agenda = s.agenda := rfl
@[simp] theorem State.setDieLine_focus (d : DieLine) : (s.setDieLine d).focus = s.focus := rfl
@[simp] theorem State.setDieLine_fe (d : DieLine) : (s.setDieLine d).fe = s.fe := rfl
@[simp] theorem State.setDieLine_mem_bytes (d : DieLine) : (s.setDieLine d).mem.bytes = s.mem.bytes := rfl
@[simp] theorem State.setDieLine_mem_undef (d : DieLine) : (s.setDieLine d).mem.undef = s.mem.undef := rfl
@[simp] theorem State.setDieLine_mem_veil (d : DieLine) : (s.setDieLine d).mem.veil = s.mem.veil := rfl
@[simp] theorem State.setDieLine_mem_consts (d : DieLine) : (s.setDieLine d).mem.consts = s.mem.consts := rfl
@[simp] theorem State.setDieLine_mem_fab (d : DieLine) : (s.setDieLine d).mem.fab = s.mem.fab := rfl
@[simp] theorem State.setDieLine_mem_home (d : DieLine) : (s.setDieLine d).mem.home = s.mem.home := rfl
@[simp] theorem State.setDieLine_mem_reqs (d : DieLine) : (s.setDieLine d).mem.reqs = s.mem.reqs := rfl
@[simp] theorem State.setDieLine_mem_tables (d : DieLine) : (s.setDieLine d).mem.tables = s.mem.tables := rfl
@[simp] theorem State.setDieLine_mem_ranges (d : DieLine) : (s.setDieLine d).mem.ranges = s.mem.ranges := rfl
@[simp] theorem State.setDieLine_mem_windows (d : DieLine) : (s.setDieLine d).mem.windows = s.mem.windows := rfl
@[simp] theorem State.setDieLine_mem_ranging (d : DieLine) : (s.setDieLine d).mem.ranging = s.mem.ranging := rfl
@[simp] theorem State.setDieLine_mem_aged (d : DieLine) : (s.setDieLine d).mem.aged = s.mem.aged := rfl
@[simp] theorem State.setDieLine_mem_pts (d : DieLine) : (s.setDieLine d).mem.pts = s.mem.pts := rfl
@[simp] theorem State.setDieLine_mem_poisoned (d : DieLine) : (s.setDieLine d).mem.poisoned = s.mem.poisoned := rfl
@[simp] theorem State.setDieLine_mem_s2m (d : DieLine) : (s.setDieLine d).mem.s2m = s.mem.s2m := rfl
@[simp] theorem State.setDieLine_iso (d : DieLine) : (s.setDieLine d).iso = s.iso := rfl
@[simp] theorem State.setDieLine_alm (d : DieLine) : (s.setDieLine d).alm = s.alm := rfl
@[simp] theorem State.setDieLine_eng (d : DieLine) : (s.setDieLine d).eng = s.eng := rfl
@[simp] theorem State.setDieLine_mx (d : DieLine) : (s.setDieLine d).mx = s.mx := rfl
@[simp] theorem State.setDieLine_grid (d : DieLine) : (s.setDieLine d).grid = s.grid := rfl
@[simp] theorem State.setDieLine_saved (d : DieLine) : (s.setDieLine d).saved = s.saved := rfl
@[simp] theorem State.setDieLine_links (d : DieLine) : (s.setDieLine d).links = s.links := rfl
@[simp] theorem State.setDieLine_boot (d : DieLine) : (s.setDieLine d).boot = s.boot := rfl
@[simp] theorem State.setDieLine_irqs (d : DieLine) : (s.setDieLine d).irqs = s.irqs := rfl

@[simp] theorem State.dropDieLine_now (die line : Nat) : (s.dropDieLine die line).now = s.now := rfl
@[simp] theorem State.dropDieLine_calAhead (die line : Nat) : (s.dropDieLine die line).calAhead = s.calAhead := rfl
@[simp] theorem State.dropDieLine_ckAhead (die line : Nat) : (s.dropDieLine die line).ckAhead = s.ckAhead := rfl
@[simp] theorem State.dropDieLine_nonce (die line : Nat) : (s.dropDieLine die line).nonce = s.nonce := rfl
@[simp] theorem State.dropDieLine_turn (die line : Nat) : (s.dropDieLine die line).turn = s.turn := rfl
@[simp] theorem State.dropDieLine_agenda (die line : Nat) : (s.dropDieLine die line).agenda = s.agenda := rfl
@[simp] theorem State.dropDieLine_focus (die line : Nat) : (s.dropDieLine die line).focus = s.focus := rfl
@[simp] theorem State.dropDieLine_fe (die line : Nat) : (s.dropDieLine die line).fe = s.fe := rfl
@[simp] theorem State.dropDieLine_mem_bytes (die line : Nat) : (s.dropDieLine die line).mem.bytes = s.mem.bytes := rfl
@[simp] theorem State.dropDieLine_mem_undef (die line : Nat) : (s.dropDieLine die line).mem.undef = s.mem.undef := rfl
@[simp] theorem State.dropDieLine_mem_veil (die line : Nat) : (s.dropDieLine die line).mem.veil = s.mem.veil := rfl
@[simp] theorem State.dropDieLine_mem_consts (die line : Nat) : (s.dropDieLine die line).mem.consts = s.mem.consts := rfl
@[simp] theorem State.dropDieLine_mem_fab (die line : Nat) : (s.dropDieLine die line).mem.fab = s.mem.fab := rfl
@[simp] theorem State.dropDieLine_mem_home (die line : Nat) : (s.dropDieLine die line).mem.home = s.mem.home := rfl
@[simp] theorem State.dropDieLine_mem_reqs (die line : Nat) : (s.dropDieLine die line).mem.reqs = s.mem.reqs := rfl
@[simp] theorem State.dropDieLine_mem_tables (die line : Nat) : (s.dropDieLine die line).mem.tables = s.mem.tables := rfl
@[simp] theorem State.dropDieLine_mem_ranges (die line : Nat) : (s.dropDieLine die line).mem.ranges = s.mem.ranges := rfl
@[simp] theorem State.dropDieLine_mem_windows (die line : Nat) : (s.dropDieLine die line).mem.windows = s.mem.windows := rfl
@[simp] theorem State.dropDieLine_mem_ranging (die line : Nat) : (s.dropDieLine die line).mem.ranging = s.mem.ranging := rfl
@[simp] theorem State.dropDieLine_mem_aged (die line : Nat) : (s.dropDieLine die line).mem.aged = s.mem.aged := rfl
@[simp] theorem State.dropDieLine_mem_pts (die line : Nat) : (s.dropDieLine die line).mem.pts = s.mem.pts := rfl
@[simp] theorem State.dropDieLine_mem_poisoned (die line : Nat) : (s.dropDieLine die line).mem.poisoned = s.mem.poisoned := rfl
@[simp] theorem State.dropDieLine_mem_s2m (die line : Nat) : (s.dropDieLine die line).mem.s2m = s.mem.s2m := rfl
@[simp] theorem State.dropDieLine_iso (die line : Nat) : (s.dropDieLine die line).iso = s.iso := rfl
@[simp] theorem State.dropDieLine_alm (die line : Nat) : (s.dropDieLine die line).alm = s.alm := rfl
@[simp] theorem State.dropDieLine_eng (die line : Nat) : (s.dropDieLine die line).eng = s.eng := rfl
@[simp] theorem State.dropDieLine_mx (die line : Nat) : (s.dropDieLine die line).mx = s.mx := rfl
@[simp] theorem State.dropDieLine_grid (die line : Nat) : (s.dropDieLine die line).grid = s.grid := rfl
@[simp] theorem State.dropDieLine_saved (die line : Nat) : (s.dropDieLine die line).saved = s.saved := rfl
@[simp] theorem State.dropDieLine_links (die line : Nat) : (s.dropDieLine die line).links = s.links := rfl
@[simp] theorem State.dropDieLine_boot (die line : Nat) : (s.dropDieLine die line).boot = s.boot := rfl
@[simp] theorem State.dropDieLine_irqs (die line : Nat) : (s.dropDieLine die line).irqs = s.irqs := rfl

@[simp] theorem State.setHomeLine_now (h : HomeLine) : (s.setHomeLine h).now = s.now := rfl
@[simp] theorem State.setHomeLine_calAhead (h : HomeLine) : (s.setHomeLine h).calAhead = s.calAhead := rfl
@[simp] theorem State.setHomeLine_ckAhead (h : HomeLine) : (s.setHomeLine h).ckAhead = s.ckAhead := rfl
@[simp] theorem State.setHomeLine_nonce (h : HomeLine) : (s.setHomeLine h).nonce = s.nonce := rfl
@[simp] theorem State.setHomeLine_turn (h : HomeLine) : (s.setHomeLine h).turn = s.turn := rfl
@[simp] theorem State.setHomeLine_agenda (h : HomeLine) : (s.setHomeLine h).agenda = s.agenda := rfl
@[simp] theorem State.setHomeLine_focus (h : HomeLine) : (s.setHomeLine h).focus = s.focus := rfl
@[simp] theorem State.setHomeLine_fe (h : HomeLine) : (s.setHomeLine h).fe = s.fe := rfl
@[simp] theorem State.setHomeLine_mem_bytes (h : HomeLine) : (s.setHomeLine h).mem.bytes = s.mem.bytes := rfl
@[simp] theorem State.setHomeLine_mem_undef (h : HomeLine) : (s.setHomeLine h).mem.undef = s.mem.undef := rfl
@[simp] theorem State.setHomeLine_mem_veil (h : HomeLine) : (s.setHomeLine h).mem.veil = s.mem.veil := rfl
@[simp] theorem State.setHomeLine_mem_consts (h : HomeLine) : (s.setHomeLine h).mem.consts = s.mem.consts := rfl
@[simp] theorem State.setHomeLine_mem_fab (h : HomeLine) : (s.setHomeLine h).mem.fab = s.mem.fab := rfl
@[simp] theorem State.setHomeLine_mem_die (h : HomeLine) : (s.setHomeLine h).mem.die = s.mem.die := rfl
@[simp] theorem State.setHomeLine_mem_reqs (h : HomeLine) : (s.setHomeLine h).mem.reqs = s.mem.reqs := rfl
@[simp] theorem State.setHomeLine_mem_tables (h : HomeLine) : (s.setHomeLine h).mem.tables = s.mem.tables := rfl
@[simp] theorem State.setHomeLine_mem_ranges (h : HomeLine) : (s.setHomeLine h).mem.ranges = s.mem.ranges := rfl
@[simp] theorem State.setHomeLine_mem_windows (h : HomeLine) : (s.setHomeLine h).mem.windows = s.mem.windows := rfl
@[simp] theorem State.setHomeLine_mem_ranging (h : HomeLine) : (s.setHomeLine h).mem.ranging = s.mem.ranging := rfl
@[simp] theorem State.setHomeLine_mem_aged (h : HomeLine) : (s.setHomeLine h).mem.aged = s.mem.aged := rfl
@[simp] theorem State.setHomeLine_mem_pts (h : HomeLine) : (s.setHomeLine h).mem.pts = s.mem.pts := rfl
@[simp] theorem State.setHomeLine_mem_poisoned (h : HomeLine) : (s.setHomeLine h).mem.poisoned = s.mem.poisoned := rfl
@[simp] theorem State.setHomeLine_mem_s2m (h : HomeLine) : (s.setHomeLine h).mem.s2m = s.mem.s2m := rfl
@[simp] theorem State.setHomeLine_iso (h : HomeLine) : (s.setHomeLine h).iso = s.iso := rfl
@[simp] theorem State.setHomeLine_alm (h : HomeLine) : (s.setHomeLine h).alm = s.alm := rfl
@[simp] theorem State.setHomeLine_eng (h : HomeLine) : (s.setHomeLine h).eng = s.eng := rfl
@[simp] theorem State.setHomeLine_mx (h : HomeLine) : (s.setHomeLine h).mx = s.mx := rfl
@[simp] theorem State.setHomeLine_grid (h : HomeLine) : (s.setHomeLine h).grid = s.grid := rfl
@[simp] theorem State.setHomeLine_saved (h : HomeLine) : (s.setHomeLine h).saved = s.saved := rfl
@[simp] theorem State.setHomeLine_links (h : HomeLine) : (s.setHomeLine h).links = s.links := rfl
@[simp] theorem State.setHomeLine_boot (h : HomeLine) : (s.setHomeLine h).boot = s.boot := rfl
@[simp] theorem State.setHomeLine_irqs (h : HomeLine) : (s.setHomeLine h).irqs = s.irqs := rfl

@[simp] theorem State.updReq_now (id : Nat) (f : Req → Req) : (s.updReq id f).now = s.now := rfl
@[simp] theorem State.updReq_calAhead (id : Nat) (f : Req → Req) : (s.updReq id f).calAhead = s.calAhead := rfl
@[simp] theorem State.updReq_ckAhead (id : Nat) (f : Req → Req) : (s.updReq id f).ckAhead = s.ckAhead := rfl
@[simp] theorem State.updReq_nonce (id : Nat) (f : Req → Req) : (s.updReq id f).nonce = s.nonce := rfl
@[simp] theorem State.updReq_turn (id : Nat) (f : Req → Req) : (s.updReq id f).turn = s.turn := rfl
@[simp] theorem State.updReq_agenda (id : Nat) (f : Req → Req) : (s.updReq id f).agenda = s.agenda := rfl
@[simp] theorem State.updReq_focus (id : Nat) (f : Req → Req) : (s.updReq id f).focus = s.focus := rfl
@[simp] theorem State.updReq_fe (id : Nat) (f : Req → Req) : (s.updReq id f).fe = s.fe := rfl
@[simp] theorem State.updReq_mem_bytes (id : Nat) (f : Req → Req) : (s.updReq id f).mem.bytes = s.mem.bytes := rfl
@[simp] theorem State.updReq_mem_undef (id : Nat) (f : Req → Req) : (s.updReq id f).mem.undef = s.mem.undef := rfl
@[simp] theorem State.updReq_mem_veil (id : Nat) (f : Req → Req) : (s.updReq id f).mem.veil = s.mem.veil := rfl
@[simp] theorem State.updReq_mem_consts (id : Nat) (f : Req → Req) : (s.updReq id f).mem.consts = s.mem.consts := rfl
@[simp] theorem State.updReq_mem_fab (id : Nat) (f : Req → Req) : (s.updReq id f).mem.fab = s.mem.fab := rfl
@[simp] theorem State.updReq_mem_die (id : Nat) (f : Req → Req) : (s.updReq id f).mem.die = s.mem.die := rfl
@[simp] theorem State.updReq_mem_home (id : Nat) (f : Req → Req) : (s.updReq id f).mem.home = s.mem.home := rfl
@[simp] theorem State.updReq_mem_tables (id : Nat) (f : Req → Req) : (s.updReq id f).mem.tables = s.mem.tables := rfl
@[simp] theorem State.updReq_mem_ranges (id : Nat) (f : Req → Req) : (s.updReq id f).mem.ranges = s.mem.ranges := rfl
@[simp] theorem State.updReq_mem_windows (id : Nat) (f : Req → Req) : (s.updReq id f).mem.windows = s.mem.windows := rfl
@[simp] theorem State.updReq_mem_ranging (id : Nat) (f : Req → Req) : (s.updReq id f).mem.ranging = s.mem.ranging := rfl
@[simp] theorem State.updReq_mem_aged (id : Nat) (f : Req → Req) : (s.updReq id f).mem.aged = s.mem.aged := rfl
@[simp] theorem State.updReq_mem_pts (id : Nat) (f : Req → Req) : (s.updReq id f).mem.pts = s.mem.pts := rfl
@[simp] theorem State.updReq_mem_poisoned (id : Nat) (f : Req → Req) : (s.updReq id f).mem.poisoned = s.mem.poisoned := rfl
@[simp] theorem State.updReq_mem_s2m (id : Nat) (f : Req → Req) : (s.updReq id f).mem.s2m = s.mem.s2m := rfl
@[simp] theorem State.updReq_iso (id : Nat) (f : Req → Req) : (s.updReq id f).iso = s.iso := rfl
@[simp] theorem State.updReq_alm (id : Nat) (f : Req → Req) : (s.updReq id f).alm = s.alm := rfl
@[simp] theorem State.updReq_eng (id : Nat) (f : Req → Req) : (s.updReq id f).eng = s.eng := rfl
@[simp] theorem State.updReq_mx (id : Nat) (f : Req → Req) : (s.updReq id f).mx = s.mx := rfl
@[simp] theorem State.updReq_grid (id : Nat) (f : Req → Req) : (s.updReq id f).grid = s.grid := rfl
@[simp] theorem State.updReq_saved (id : Nat) (f : Req → Req) : (s.updReq id f).saved = s.saved := rfl
@[simp] theorem State.updReq_links (id : Nat) (f : Req → Req) : (s.updReq id f).links = s.links := rfl
@[simp] theorem State.updReq_boot (id : Nat) (f : Req → Req) : (s.updReq id f).boot = s.boot := rfl
@[simp] theorem State.updReq_irqs (id : Nat) (f : Req → Req) : (s.updReq id f).irqs = s.irqs := rfl

@[simp] theorem State.dropReq_now (id : Nat) : (s.dropReq id).now = s.now := rfl
@[simp] theorem State.dropReq_calAhead (id : Nat) : (s.dropReq id).calAhead = s.calAhead := rfl
@[simp] theorem State.dropReq_ckAhead (id : Nat) : (s.dropReq id).ckAhead = s.ckAhead := rfl
@[simp] theorem State.dropReq_nonce (id : Nat) : (s.dropReq id).nonce = s.nonce := rfl
@[simp] theorem State.dropReq_turn (id : Nat) : (s.dropReq id).turn = s.turn := rfl
@[simp] theorem State.dropReq_agenda (id : Nat) : (s.dropReq id).agenda = s.agenda := rfl
@[simp] theorem State.dropReq_focus (id : Nat) : (s.dropReq id).focus = s.focus := rfl
@[simp] theorem State.dropReq_fe (id : Nat) : (s.dropReq id).fe = s.fe := rfl
@[simp] theorem State.dropReq_mem_bytes (id : Nat) : (s.dropReq id).mem.bytes = s.mem.bytes := rfl
@[simp] theorem State.dropReq_mem_undef (id : Nat) : (s.dropReq id).mem.undef = s.mem.undef := rfl
@[simp] theorem State.dropReq_mem_veil (id : Nat) : (s.dropReq id).mem.veil = s.mem.veil := rfl
@[simp] theorem State.dropReq_mem_consts (id : Nat) : (s.dropReq id).mem.consts = s.mem.consts := rfl
@[simp] theorem State.dropReq_mem_fab (id : Nat) : (s.dropReq id).mem.fab = s.mem.fab := rfl
@[simp] theorem State.dropReq_mem_die (id : Nat) : (s.dropReq id).mem.die = s.mem.die := rfl
@[simp] theorem State.dropReq_mem_home (id : Nat) : (s.dropReq id).mem.home = s.mem.home := rfl
@[simp] theorem State.dropReq_mem_tables (id : Nat) : (s.dropReq id).mem.tables = s.mem.tables := rfl
@[simp] theorem State.dropReq_mem_ranges (id : Nat) : (s.dropReq id).mem.ranges = s.mem.ranges := rfl
@[simp] theorem State.dropReq_mem_windows (id : Nat) : (s.dropReq id).mem.windows = s.mem.windows := rfl
@[simp] theorem State.dropReq_mem_ranging (id : Nat) : (s.dropReq id).mem.ranging = s.mem.ranging := rfl
@[simp] theorem State.dropReq_mem_aged (id : Nat) : (s.dropReq id).mem.aged = s.mem.aged := rfl
@[simp] theorem State.dropReq_mem_pts (id : Nat) : (s.dropReq id).mem.pts = s.mem.pts := rfl
@[simp] theorem State.dropReq_mem_poisoned (id : Nat) : (s.dropReq id).mem.poisoned = s.mem.poisoned := rfl
@[simp] theorem State.dropReq_mem_s2m (id : Nat) : (s.dropReq id).mem.s2m = s.mem.s2m := rfl
@[simp] theorem State.dropReq_iso (id : Nat) : (s.dropReq id).iso = s.iso := rfl
@[simp] theorem State.dropReq_alm (id : Nat) : (s.dropReq id).alm = s.alm := rfl
@[simp] theorem State.dropReq_eng (id : Nat) : (s.dropReq id).eng = s.eng := rfl
@[simp] theorem State.dropReq_mx (id : Nat) : (s.dropReq id).mx = s.mx := rfl
@[simp] theorem State.dropReq_grid (id : Nat) : (s.dropReq id).grid = s.grid := rfl
@[simp] theorem State.dropReq_saved (id : Nat) : (s.dropReq id).saved = s.saved := rfl
@[simp] theorem State.dropReq_links (id : Nat) : (s.dropReq id).links = s.links := rfl
@[simp] theorem State.dropReq_boot (id : Nat) : (s.dropReq id).boot = s.boot := rfl
@[simp] theorem State.dropReq_irqs (id : Nat) : (s.dropReq id).irqs = s.irqs := rfl

@[simp] theorem State.clearPoison_now (line : Nat) (m : LineMask) : (s.clearPoison line m).now = s.now := rfl
@[simp] theorem State.clearPoison_calAhead (line : Nat) (m : LineMask) : (s.clearPoison line m).calAhead = s.calAhead := rfl
@[simp] theorem State.clearPoison_ckAhead (line : Nat) (m : LineMask) : (s.clearPoison line m).ckAhead = s.ckAhead := rfl
@[simp] theorem State.clearPoison_nonce (line : Nat) (m : LineMask) : (s.clearPoison line m).nonce = s.nonce := rfl
@[simp] theorem State.clearPoison_turn (line : Nat) (m : LineMask) : (s.clearPoison line m).turn = s.turn := rfl
@[simp] theorem State.clearPoison_agenda (line : Nat) (m : LineMask) : (s.clearPoison line m).agenda = s.agenda := rfl
@[simp] theorem State.clearPoison_focus (line : Nat) (m : LineMask) : (s.clearPoison line m).focus = s.focus := rfl
@[simp] theorem State.clearPoison_fe (line : Nat) (m : LineMask) : (s.clearPoison line m).fe = s.fe := rfl
@[simp] theorem State.clearPoison_mem_bytes (line : Nat) (m : LineMask) : (s.clearPoison line m).mem.bytes = s.mem.bytes := rfl
@[simp] theorem State.clearPoison_mem_undef (line : Nat) (m : LineMask) : (s.clearPoison line m).mem.undef = s.mem.undef := rfl
@[simp] theorem State.clearPoison_mem_veil (line : Nat) (m : LineMask) : (s.clearPoison line m).mem.veil = s.mem.veil := rfl
@[simp] theorem State.clearPoison_mem_consts (line : Nat) (m : LineMask) : (s.clearPoison line m).mem.consts = s.mem.consts := rfl
@[simp] theorem State.clearPoison_mem_fab (line : Nat) (m : LineMask) : (s.clearPoison line m).mem.fab = s.mem.fab := rfl
@[simp] theorem State.clearPoison_mem_die (line : Nat) (m : LineMask) : (s.clearPoison line m).mem.die = s.mem.die := rfl
@[simp] theorem State.clearPoison_mem_home (line : Nat) (m : LineMask) : (s.clearPoison line m).mem.home = s.mem.home := rfl
@[simp] theorem State.clearPoison_mem_reqs (line : Nat) (m : LineMask) : (s.clearPoison line m).mem.reqs = s.mem.reqs := rfl
@[simp] theorem State.clearPoison_mem_tables (line : Nat) (m : LineMask) : (s.clearPoison line m).mem.tables = s.mem.tables := rfl
@[simp] theorem State.clearPoison_mem_ranges (line : Nat) (m : LineMask) : (s.clearPoison line m).mem.ranges = s.mem.ranges := rfl
@[simp] theorem State.clearPoison_mem_windows (line : Nat) (m : LineMask) : (s.clearPoison line m).mem.windows = s.mem.windows := rfl
@[simp] theorem State.clearPoison_mem_ranging (line : Nat) (m : LineMask) : (s.clearPoison line m).mem.ranging = s.mem.ranging := rfl
@[simp] theorem State.clearPoison_mem_aged (line : Nat) (m : LineMask) : (s.clearPoison line m).mem.aged = s.mem.aged := rfl
@[simp] theorem State.clearPoison_mem_pts (line : Nat) (m : LineMask) : (s.clearPoison line m).mem.pts = s.mem.pts := rfl
@[simp] theorem State.clearPoison_mem_s2m (line : Nat) (m : LineMask) : (s.clearPoison line m).mem.s2m = s.mem.s2m := rfl
@[simp] theorem State.clearPoison_iso (line : Nat) (m : LineMask) : (s.clearPoison line m).iso = s.iso := rfl
@[simp] theorem State.clearPoison_alm (line : Nat) (m : LineMask) : (s.clearPoison line m).alm = s.alm := rfl
@[simp] theorem State.clearPoison_eng (line : Nat) (m : LineMask) : (s.clearPoison line m).eng = s.eng := rfl
@[simp] theorem State.clearPoison_mx (line : Nat) (m : LineMask) : (s.clearPoison line m).mx = s.mx := rfl
@[simp] theorem State.clearPoison_grid (line : Nat) (m : LineMask) : (s.clearPoison line m).grid = s.grid := rfl
@[simp] theorem State.clearPoison_saved (line : Nat) (m : LineMask) : (s.clearPoison line m).saved = s.saved := rfl
@[simp] theorem State.clearPoison_links (line : Nat) (m : LineMask) : (s.clearPoison line m).links = s.links := rfl
@[simp] theorem State.clearPoison_boot (line : Nat) (m : LineMask) : (s.clearPoison line m).boot = s.boot := rfl
@[simp] theorem State.clearPoison_irqs (line : Nat) (m : LineMask) : (s.clearPoison line m).irqs = s.irqs := rfl

@[simp] theorem State.putBytes_now (pa n x : Nat) : (s.putBytes pa n x).now = s.now := rfl
@[simp] theorem State.putBytes_calAhead (pa n x : Nat) : (s.putBytes pa n x).calAhead = s.calAhead := rfl
@[simp] theorem State.putBytes_ckAhead (pa n x : Nat) : (s.putBytes pa n x).ckAhead = s.ckAhead := rfl
@[simp] theorem State.putBytes_nonce (pa n x : Nat) : (s.putBytes pa n x).nonce = s.nonce := rfl
@[simp] theorem State.putBytes_turn (pa n x : Nat) : (s.putBytes pa n x).turn = s.turn := rfl
@[simp] theorem State.putBytes_agenda (pa n x : Nat) : (s.putBytes pa n x).agenda = s.agenda := rfl
@[simp] theorem State.putBytes_focus (pa n x : Nat) : (s.putBytes pa n x).focus = s.focus := rfl
@[simp] theorem State.putBytes_fe (pa n x : Nat) : (s.putBytes pa n x).fe = s.fe := rfl
@[simp] theorem State.putBytes_mem_fab (pa n x : Nat) : (s.putBytes pa n x).mem.fab = s.mem.fab := rfl
@[simp] theorem State.putBytes_mem_die (pa n x : Nat) : (s.putBytes pa n x).mem.die = s.mem.die := rfl
@[simp] theorem State.putBytes_mem_home (pa n x : Nat) : (s.putBytes pa n x).mem.home = s.mem.home := rfl
@[simp] theorem State.putBytes_mem_reqs (pa n x : Nat) : (s.putBytes pa n x).mem.reqs = s.mem.reqs := rfl
@[simp] theorem State.putBytes_mem_tables (pa n x : Nat) : (s.putBytes pa n x).mem.tables = s.mem.tables := rfl
@[simp] theorem State.putBytes_mem_ranges (pa n x : Nat) : (s.putBytes pa n x).mem.ranges = s.mem.ranges := rfl
@[simp] theorem State.putBytes_mem_windows (pa n x : Nat) : (s.putBytes pa n x).mem.windows = s.mem.windows := rfl
@[simp] theorem State.putBytes_mem_ranging (pa n x : Nat) : (s.putBytes pa n x).mem.ranging = s.mem.ranging := rfl
@[simp] theorem State.putBytes_mem_aged (pa n x : Nat) : (s.putBytes pa n x).mem.aged = s.mem.aged := rfl
@[simp] theorem State.putBytes_mem_pts (pa n x : Nat) : (s.putBytes pa n x).mem.pts = s.mem.pts := rfl
@[simp] theorem State.putBytes_mem_poisoned (pa n x : Nat) : (s.putBytes pa n x).mem.poisoned = s.mem.poisoned := rfl
@[simp] theorem State.putBytes_mem_s2m (pa n x : Nat) : (s.putBytes pa n x).mem.s2m = s.mem.s2m := rfl
@[simp] theorem State.putBytes_iso (pa n x : Nat) : (s.putBytes pa n x).iso = s.iso := rfl
@[simp] theorem State.putBytes_alm (pa n x : Nat) : (s.putBytes pa n x).alm = s.alm := rfl
@[simp] theorem State.putBytes_eng (pa n x : Nat) : (s.putBytes pa n x).eng = s.eng := rfl
@[simp] theorem State.putBytes_mx (pa n x : Nat) : (s.putBytes pa n x).mx = s.mx := rfl
@[simp] theorem State.putBytes_grid (pa n x : Nat) : (s.putBytes pa n x).grid = s.grid := rfl
@[simp] theorem State.putBytes_saved (pa n x : Nat) : (s.putBytes pa n x).saved = s.saved := rfl
@[simp] theorem State.putBytes_links (pa n x : Nat) : (s.putBytes pa n x).links = s.links := rfl
@[simp] theorem State.putBytes_boot (pa n x : Nat) : (s.putBytes pa n x).boot = s.boot := rfl
@[simp] theorem State.putBytes_irqs (pa n x : Nat) : (s.putBytes pa n x).irqs = s.irqs := rfl

@[simp] theorem State.setWindow_now (w : VWindow) : (s.setWindow w).now = s.now := rfl
@[simp] theorem State.setWindow_calAhead (w : VWindow) : (s.setWindow w).calAhead = s.calAhead := rfl
@[simp] theorem State.setWindow_ckAhead (w : VWindow) : (s.setWindow w).ckAhead = s.ckAhead := rfl
@[simp] theorem State.setWindow_nonce (w : VWindow) : (s.setWindow w).nonce = s.nonce := rfl
@[simp] theorem State.setWindow_turn (w : VWindow) : (s.setWindow w).turn = s.turn := rfl
@[simp] theorem State.setWindow_agenda (w : VWindow) : (s.setWindow w).agenda = s.agenda := rfl
@[simp] theorem State.setWindow_focus (w : VWindow) : (s.setWindow w).focus = s.focus := rfl
@[simp] theorem State.setWindow_fe (w : VWindow) : (s.setWindow w).fe = s.fe := rfl
@[simp] theorem State.setWindow_mem_bytes (w : VWindow) : (s.setWindow w).mem.bytes = s.mem.bytes := rfl
@[simp] theorem State.setWindow_mem_undef (w : VWindow) : (s.setWindow w).mem.undef = s.mem.undef := rfl
@[simp] theorem State.setWindow_mem_veil (w : VWindow) : (s.setWindow w).mem.veil = s.mem.veil := rfl
@[simp] theorem State.setWindow_mem_consts (w : VWindow) : (s.setWindow w).mem.consts = s.mem.consts := rfl
@[simp] theorem State.setWindow_mem_fab (w : VWindow) : (s.setWindow w).mem.fab = s.mem.fab := rfl
@[simp] theorem State.setWindow_mem_die (w : VWindow) : (s.setWindow w).mem.die = s.mem.die := rfl
@[simp] theorem State.setWindow_mem_home (w : VWindow) : (s.setWindow w).mem.home = s.mem.home := rfl
@[simp] theorem State.setWindow_mem_reqs (w : VWindow) : (s.setWindow w).mem.reqs = s.mem.reqs := rfl
@[simp] theorem State.setWindow_mem_tables (w : VWindow) : (s.setWindow w).mem.tables = s.mem.tables := rfl
@[simp] theorem State.setWindow_mem_ranges (w : VWindow) : (s.setWindow w).mem.ranges = s.mem.ranges := rfl
@[simp] theorem State.setWindow_mem_ranging (w : VWindow) : (s.setWindow w).mem.ranging = s.mem.ranging := rfl
@[simp] theorem State.setWindow_mem_aged (w : VWindow) : (s.setWindow w).mem.aged = s.mem.aged := rfl
@[simp] theorem State.setWindow_mem_pts (w : VWindow) : (s.setWindow w).mem.pts = s.mem.pts := rfl
@[simp] theorem State.setWindow_mem_poisoned (w : VWindow) : (s.setWindow w).mem.poisoned = s.mem.poisoned := rfl
@[simp] theorem State.setWindow_mem_s2m (w : VWindow) : (s.setWindow w).mem.s2m = s.mem.s2m := rfl
@[simp] theorem State.setWindow_iso (w : VWindow) : (s.setWindow w).iso = s.iso := rfl
@[simp] theorem State.setWindow_alm (w : VWindow) : (s.setWindow w).alm = s.alm := rfl
@[simp] theorem State.setWindow_eng (w : VWindow) : (s.setWindow w).eng = s.eng := rfl
@[simp] theorem State.setWindow_mx (w : VWindow) : (s.setWindow w).mx = s.mx := rfl
@[simp] theorem State.setWindow_grid (w : VWindow) : (s.setWindow w).grid = s.grid := rfl
@[simp] theorem State.setWindow_saved (w : VWindow) : (s.setWindow w).saved = s.saved := rfl
@[simp] theorem State.setWindow_links (w : VWindow) : (s.setWindow w).links = s.links := rfl
@[simp] theorem State.setWindow_boot (w : VWindow) : (s.setWindow w).boot = s.boot := rfl
@[simp] theorem State.setWindow_irqs (w : VWindow) : (s.setWindow w).irqs = s.irqs := rfl

@[simp] theorem State.cmdStatus_now (v : Word) : (s.cmdStatus v).now = s.now := rfl
@[simp] theorem State.cmdStatus_calAhead (v : Word) : (s.cmdStatus v).calAhead = s.calAhead := rfl
@[simp] theorem State.cmdStatus_ckAhead (v : Word) : (s.cmdStatus v).ckAhead = s.ckAhead := rfl
@[simp] theorem State.cmdStatus_nonce (v : Word) : (s.cmdStatus v).nonce = s.nonce := rfl
@[simp] theorem State.cmdStatus_turn (v : Word) : (s.cmdStatus v).turn = s.turn := rfl
@[simp] theorem State.cmdStatus_agenda (v : Word) : (s.cmdStatus v).agenda = s.agenda := rfl
@[simp] theorem State.cmdStatus_focus (v : Word) : (s.cmdStatus v).focus = s.focus := rfl
@[simp] theorem State.cmdStatus_fe (v : Word) : (s.cmdStatus v).fe = s.fe := rfl
@[simp] theorem State.cmdStatus_mem (v : Word) : (s.cmdStatus v).mem = s.mem := rfl
@[simp] theorem State.cmdStatus_iso_ctxs (v : Word) : (s.cmdStatus v).iso.ctxs = s.iso.ctxs := rfl
@[simp] theorem State.cmdStatus_iso_tenants (v : Word) : (s.cmdStatus v).iso.tenants = s.iso.tenants := rfl
@[simp] theorem State.cmdStatus_iso_ctxtab (v : Word) : (s.cmdStatus v).iso.ctxtab = s.iso.ctxtab := rfl
@[simp] theorem State.cmdStatus_iso_tentab (v : Word) : (s.cmdStatus v).iso.tentab = s.iso.tentab := rfl
@[simp] theorem State.cmdStatus_iso_qtab (v : Word) : (s.cmdStatus v).iso.qtab = s.iso.qtab := rfl
@[simp] theorem State.cmdStatus_iso_tlb (v : Word) : (s.cmdStatus v).iso.tlb = s.iso.tlb := rfl
@[simp] theorem State.cmdStatus_iso_invs (v : Word) : (s.cmdStatus v).iso.invs = s.iso.invs := rfl
@[simp] theorem State.cmdStatus_iso_rings (v : Word) : (s.cmdStatus v).iso.rings = s.iso.rings := rfl
@[simp] theorem State.cmdStatus_iso_perf (v : Word) : (s.cmdStatus v).iso.perf = s.iso.perf := rfl
@[simp] theorem State.cmdStatus_alm (v : Word) : (s.cmdStatus v).alm = s.alm := rfl
@[simp] theorem State.cmdStatus_eng (v : Word) : (s.cmdStatus v).eng = s.eng := rfl
@[simp] theorem State.cmdStatus_mx (v : Word) : (s.cmdStatus v).mx = s.mx := rfl
@[simp] theorem State.cmdStatus_grid (v : Word) : (s.cmdStatus v).grid = s.grid := rfl
@[simp] theorem State.cmdStatus_saved (v : Word) : (s.cmdStatus v).saved = s.saved := rfl
@[simp] theorem State.cmdStatus_links (v : Word) : (s.cmdStatus v).links = s.links := rfl
@[simp] theorem State.cmdStatus_boot (v : Word) : (s.cmdStatus v).boot = s.boot := rfl
@[simp] theorem State.cmdStatus_irqs (v : Word) : (s.cmdStatus v).irqs = s.irqs := rfl

@[simp] theorem State.updOp_now (id : Nat) (f : EngOp → EngOp) : (s.updOp id f).now = s.now := rfl
@[simp] theorem State.updOp_calAhead (id : Nat) (f : EngOp → EngOp) : (s.updOp id f).calAhead = s.calAhead := rfl
@[simp] theorem State.updOp_ckAhead (id : Nat) (f : EngOp → EngOp) : (s.updOp id f).ckAhead = s.ckAhead := rfl
@[simp] theorem State.updOp_nonce (id : Nat) (f : EngOp → EngOp) : (s.updOp id f).nonce = s.nonce := rfl
@[simp] theorem State.updOp_turn (id : Nat) (f : EngOp → EngOp) : (s.updOp id f).turn = s.turn := rfl
@[simp] theorem State.updOp_agenda (id : Nat) (f : EngOp → EngOp) : (s.updOp id f).agenda = s.agenda := rfl
@[simp] theorem State.updOp_focus (id : Nat) (f : EngOp → EngOp) : (s.updOp id f).focus = s.focus := rfl
@[simp] theorem State.updOp_fe (id : Nat) (f : EngOp → EngOp) : (s.updOp id f).fe = s.fe := rfl
@[simp] theorem State.updOp_mem (id : Nat) (f : EngOp → EngOp) : (s.updOp id f).mem = s.mem := rfl
@[simp] theorem State.updOp_iso (id : Nat) (f : EngOp → EngOp) : (s.updOp id f).iso = s.iso := rfl
@[simp] theorem State.updOp_alm (id : Nat) (f : EngOp → EngOp) : (s.updOp id f).alm = s.alm := rfl
@[simp] theorem State.updOp_eng_strms (id : Nat) (f : EngOp → EngOp) : (s.updOp id f).eng.strms = s.eng.strms := rfl
@[simp] theorem State.updOp_eng_gports (id : Nat) (f : EngOp → EngOp) : (s.updOp id f).eng.gports = s.eng.gports := rfl
@[simp] theorem State.updOp_eng_wins (id : Nat) (f : EngOp → EngOp) : (s.updOp id f).eng.wins = s.eng.wins := rfl
@[simp] theorem State.updOp_mx (id : Nat) (f : EngOp → EngOp) : (s.updOp id f).mx = s.mx := rfl
@[simp] theorem State.updOp_grid (id : Nat) (f : EngOp → EngOp) : (s.updOp id f).grid = s.grid := rfl
@[simp] theorem State.updOp_saved (id : Nat) (f : EngOp → EngOp) : (s.updOp id f).saved = s.saved := rfl
@[simp] theorem State.updOp_links (id : Nat) (f : EngOp → EngOp) : (s.updOp id f).links = s.links := rfl
@[simp] theorem State.updOp_boot (id : Nat) (f : EngOp → EngOp) : (s.updOp id f).boot = s.boot := rfl
@[simp] theorem State.updOp_irqs (id : Nat) (f : EngOp → EngOp) : (s.updOp id f).irqs = s.irqs := rfl

@[simp] theorem State.updStrm_now (id : Nat) (f : Strm → Strm) : (s.updStrm id f).now = s.now := rfl
@[simp] theorem State.updStrm_calAhead (id : Nat) (f : Strm → Strm) : (s.updStrm id f).calAhead = s.calAhead := rfl
@[simp] theorem State.updStrm_ckAhead (id : Nat) (f : Strm → Strm) : (s.updStrm id f).ckAhead = s.ckAhead := rfl
@[simp] theorem State.updStrm_nonce (id : Nat) (f : Strm → Strm) : (s.updStrm id f).nonce = s.nonce := rfl
@[simp] theorem State.updStrm_turn (id : Nat) (f : Strm → Strm) : (s.updStrm id f).turn = s.turn := rfl
@[simp] theorem State.updStrm_agenda (id : Nat) (f : Strm → Strm) : (s.updStrm id f).agenda = s.agenda := rfl
@[simp] theorem State.updStrm_focus (id : Nat) (f : Strm → Strm) : (s.updStrm id f).focus = s.focus := rfl
@[simp] theorem State.updStrm_fe (id : Nat) (f : Strm → Strm) : (s.updStrm id f).fe = s.fe := rfl
@[simp] theorem State.updStrm_mem (id : Nat) (f : Strm → Strm) : (s.updStrm id f).mem = s.mem := rfl
@[simp] theorem State.updStrm_iso (id : Nat) (f : Strm → Strm) : (s.updStrm id f).iso = s.iso := rfl
@[simp] theorem State.updStrm_alm (id : Nat) (f : Strm → Strm) : (s.updStrm id f).alm = s.alm := rfl
@[simp] theorem State.updStrm_eng_ops (id : Nat) (f : Strm → Strm) : (s.updStrm id f).eng.ops = s.eng.ops := rfl
@[simp] theorem State.updStrm_eng_gports (id : Nat) (f : Strm → Strm) : (s.updStrm id f).eng.gports = s.eng.gports := rfl
@[simp] theorem State.updStrm_eng_wins (id : Nat) (f : Strm → Strm) : (s.updStrm id f).eng.wins = s.eng.wins := rfl
@[simp] theorem State.updStrm_mx (id : Nat) (f : Strm → Strm) : (s.updStrm id f).mx = s.mx := rfl
@[simp] theorem State.updStrm_grid (id : Nat) (f : Strm → Strm) : (s.updStrm id f).grid = s.grid := rfl
@[simp] theorem State.updStrm_saved (id : Nat) (f : Strm → Strm) : (s.updStrm id f).saved = s.saved := rfl
@[simp] theorem State.updStrm_links (id : Nat) (f : Strm → Strm) : (s.updStrm id f).links = s.links := rfl
@[simp] theorem State.updStrm_boot (id : Nat) (f : Strm → Strm) : (s.updStrm id f).boot = s.boot := rfl
@[simp] theorem State.updStrm_irqs (id : Nat) (f : Strm → Strm) : (s.updStrm id f).irqs = s.irqs := rfl

@[simp] theorem State.updWin_now (id : Nat) (f : WinUnit → WinUnit) : (s.updWin id f).now = s.now := rfl
@[simp] theorem State.updWin_calAhead (id : Nat) (f : WinUnit → WinUnit) : (s.updWin id f).calAhead = s.calAhead := rfl
@[simp] theorem State.updWin_ckAhead (id : Nat) (f : WinUnit → WinUnit) : (s.updWin id f).ckAhead = s.ckAhead := rfl
@[simp] theorem State.updWin_nonce (id : Nat) (f : WinUnit → WinUnit) : (s.updWin id f).nonce = s.nonce := rfl
@[simp] theorem State.updWin_turn (id : Nat) (f : WinUnit → WinUnit) : (s.updWin id f).turn = s.turn := rfl
@[simp] theorem State.updWin_agenda (id : Nat) (f : WinUnit → WinUnit) : (s.updWin id f).agenda = s.agenda := rfl
@[simp] theorem State.updWin_focus (id : Nat) (f : WinUnit → WinUnit) : (s.updWin id f).focus = s.focus := rfl
@[simp] theorem State.updWin_fe (id : Nat) (f : WinUnit → WinUnit) : (s.updWin id f).fe = s.fe := rfl
@[simp] theorem State.updWin_mem (id : Nat) (f : WinUnit → WinUnit) : (s.updWin id f).mem = s.mem := rfl
@[simp] theorem State.updWin_iso (id : Nat) (f : WinUnit → WinUnit) : (s.updWin id f).iso = s.iso := rfl
@[simp] theorem State.updWin_alm (id : Nat) (f : WinUnit → WinUnit) : (s.updWin id f).alm = s.alm := rfl
@[simp] theorem State.updWin_eng_ops (id : Nat) (f : WinUnit → WinUnit) : (s.updWin id f).eng.ops = s.eng.ops := rfl
@[simp] theorem State.updWin_eng_strms (id : Nat) (f : WinUnit → WinUnit) : (s.updWin id f).eng.strms = s.eng.strms := rfl
@[simp] theorem State.updWin_eng_gports (id : Nat) (f : WinUnit → WinUnit) : (s.updWin id f).eng.gports = s.eng.gports := rfl
@[simp] theorem State.updWin_mx (id : Nat) (f : WinUnit → WinUnit) : (s.updWin id f).mx = s.mx := rfl
@[simp] theorem State.updWin_grid (id : Nat) (f : WinUnit → WinUnit) : (s.updWin id f).grid = s.grid := rfl
@[simp] theorem State.updWin_saved (id : Nat) (f : WinUnit → WinUnit) : (s.updWin id f).saved = s.saved := rfl
@[simp] theorem State.updWin_links (id : Nat) (f : WinUnit → WinUnit) : (s.updWin id f).links = s.links := rfl
@[simp] theorem State.updWin_boot (id : Nat) (f : WinUnit → WinUnit) : (s.updWin id f).boot = s.boot := rfl
@[simp] theorem State.updWin_irqs (id : Nat) (f : WinUnit → WinUnit) : (s.updWin id f).irqs = s.irqs := rfl

@[simp] theorem State.updMx_now (id : Nat) (f : MxEntry → MxEntry) : (s.updMx id f).now = s.now := rfl
@[simp] theorem State.updMx_calAhead (id : Nat) (f : MxEntry → MxEntry) : (s.updMx id f).calAhead = s.calAhead := rfl
@[simp] theorem State.updMx_ckAhead (id : Nat) (f : MxEntry → MxEntry) : (s.updMx id f).ckAhead = s.ckAhead := rfl
@[simp] theorem State.updMx_nonce (id : Nat) (f : MxEntry → MxEntry) : (s.updMx id f).nonce = s.nonce := rfl
@[simp] theorem State.updMx_turn (id : Nat) (f : MxEntry → MxEntry) : (s.updMx id f).turn = s.turn := rfl
@[simp] theorem State.updMx_agenda (id : Nat) (f : MxEntry → MxEntry) : (s.updMx id f).agenda = s.agenda := rfl
@[simp] theorem State.updMx_focus (id : Nat) (f : MxEntry → MxEntry) : (s.updMx id f).focus = s.focus := rfl
@[simp] theorem State.updMx_fe (id : Nat) (f : MxEntry → MxEntry) : (s.updMx id f).fe = s.fe := rfl
@[simp] theorem State.updMx_mem (id : Nat) (f : MxEntry → MxEntry) : (s.updMx id f).mem = s.mem := rfl
@[simp] theorem State.updMx_iso (id : Nat) (f : MxEntry → MxEntry) : (s.updMx id f).iso = s.iso := rfl
@[simp] theorem State.updMx_alm (id : Nat) (f : MxEntry → MxEntry) : (s.updMx id f).alm = s.alm := rfl
@[simp] theorem State.updMx_eng (id : Nat) (f : MxEntry → MxEntry) : (s.updMx id f).eng = s.eng := rfl
@[simp] theorem State.updMx_mx_frames (id : Nat) (f : MxEntry → MxEntry) : (s.updMx id f).mx.frames = s.mx.frames := rfl
@[simp] theorem State.updMx_mx_partials (id : Nat) (f : MxEntry → MxEntry) : (s.updMx id f).mx.partials = s.mx.partials := rfl
@[simp] theorem State.updMx_mx_last (id : Nat) (f : MxEntry → MxEntry) : (s.updMx id f).mx.last = s.mx.last := rfl
@[simp] theorem State.updMx_grid (id : Nat) (f : MxEntry → MxEntry) : (s.updMx id f).grid = s.grid := rfl
@[simp] theorem State.updMx_saved (id : Nat) (f : MxEntry → MxEntry) : (s.updMx id f).saved = s.saved := rfl
@[simp] theorem State.updMx_links (id : Nat) (f : MxEntry → MxEntry) : (s.updMx id f).links = s.links := rfl
@[simp] theorem State.updMx_boot (id : Nat) (f : MxEntry → MxEntry) : (s.updMx id f).boot = s.boot := rfl
@[simp] theorem State.updMx_irqs (id : Nat) (f : MxEntry → MxEntry) : (s.updMx id f).irqs = s.irqs := rfl

@[simp] theorem State.setMxFrame_now (x : MxFrame) : (s.setMxFrame x).now = s.now := rfl
@[simp] theorem State.setMxFrame_calAhead (x : MxFrame) : (s.setMxFrame x).calAhead = s.calAhead := rfl
@[simp] theorem State.setMxFrame_ckAhead (x : MxFrame) : (s.setMxFrame x).ckAhead = s.ckAhead := rfl
@[simp] theorem State.setMxFrame_nonce (x : MxFrame) : (s.setMxFrame x).nonce = s.nonce := rfl
@[simp] theorem State.setMxFrame_turn (x : MxFrame) : (s.setMxFrame x).turn = s.turn := rfl
@[simp] theorem State.setMxFrame_agenda (x : MxFrame) : (s.setMxFrame x).agenda = s.agenda := rfl
@[simp] theorem State.setMxFrame_focus (x : MxFrame) : (s.setMxFrame x).focus = s.focus := rfl
@[simp] theorem State.setMxFrame_fe (x : MxFrame) : (s.setMxFrame x).fe = s.fe := rfl
@[simp] theorem State.setMxFrame_mem (x : MxFrame) : (s.setMxFrame x).mem = s.mem := rfl
@[simp] theorem State.setMxFrame_iso (x : MxFrame) : (s.setMxFrame x).iso = s.iso := rfl
@[simp] theorem State.setMxFrame_alm (x : MxFrame) : (s.setMxFrame x).alm = s.alm := rfl
@[simp] theorem State.setMxFrame_eng (x : MxFrame) : (s.setMxFrame x).eng = s.eng := rfl
@[simp] theorem State.setMxFrame_mx_entries (x : MxFrame) : (s.setMxFrame x).mx.entries = s.mx.entries := rfl
@[simp] theorem State.setMxFrame_mx_partials (x : MxFrame) : (s.setMxFrame x).mx.partials = s.mx.partials := rfl
@[simp] theorem State.setMxFrame_mx_last (x : MxFrame) : (s.setMxFrame x).mx.last = s.mx.last := rfl
@[simp] theorem State.setMxFrame_grid (x : MxFrame) : (s.setMxFrame x).grid = s.grid := rfl
@[simp] theorem State.setMxFrame_saved (x : MxFrame) : (s.setMxFrame x).saved = s.saved := rfl
@[simp] theorem State.setMxFrame_links (x : MxFrame) : (s.setMxFrame x).links = s.links := rfl
@[simp] theorem State.setMxFrame_boot (x : MxFrame) : (s.setMxFrame x).boot = s.boot := rfl
@[simp] theorem State.setMxFrame_irqs (x : MxFrame) : (s.setMxFrame x).irqs = s.irqs := rfl

@[simp] theorem State.setGcfg_now (c : GCfg) : (s.setGcfg c).now = s.now := rfl
@[simp] theorem State.setGcfg_calAhead (c : GCfg) : (s.setGcfg c).calAhead = s.calAhead := rfl
@[simp] theorem State.setGcfg_ckAhead (c : GCfg) : (s.setGcfg c).ckAhead = s.ckAhead := rfl
@[simp] theorem State.setGcfg_nonce (c : GCfg) : (s.setGcfg c).nonce = s.nonce := rfl
@[simp] theorem State.setGcfg_turn (c : GCfg) : (s.setGcfg c).turn = s.turn := rfl
@[simp] theorem State.setGcfg_agenda (c : GCfg) : (s.setGcfg c).agenda = s.agenda := rfl
@[simp] theorem State.setGcfg_focus (c : GCfg) : (s.setGcfg c).focus = s.focus := rfl
@[simp] theorem State.setGcfg_fe (c : GCfg) : (s.setGcfg c).fe = s.fe := rfl
@[simp] theorem State.setGcfg_mem (c : GCfg) : (s.setGcfg c).mem = s.mem := rfl
@[simp] theorem State.setGcfg_iso (c : GCfg) : (s.setGcfg c).iso = s.iso := rfl
@[simp] theorem State.setGcfg_alm (c : GCfg) : (s.setGcfg c).alm = s.alm := rfl
@[simp] theorem State.setGcfg_eng (c : GCfg) : (s.setGcfg c).eng = s.eng := rfl
@[simp] theorem State.setGcfg_mx (c : GCfg) : (s.setGcfg c).mx = s.mx := rfl
@[simp] theorem State.setGcfg_grid_recs (c : GCfg) : (s.setGcfg c).grid.recs = s.grid.recs := rfl
@[simp] theorem State.setGcfg_grid_placing (c : GCfg) : (s.setGcfg c).grid.placing = s.grid.placing := rfl
@[simp] theorem State.setGcfg_grid_runs (c : GCfg) : (s.setGcfg c).grid.runs = s.grid.runs := rfl
@[simp] theorem State.setGcfg_grid_iters (c : GCfg) : (s.setGcfg c).grid.iters = s.grid.iters := rfl
@[simp] theorem State.setGcfg_grid_chans (c : GCfg) : (s.setGcfg c).grid.chans = s.grid.chans := rfl
@[simp] theorem State.setGcfg_grid_waiting (c : GCfg) : (s.setGcfg c).grid.waiting = s.grid.waiting := rfl
@[simp] theorem State.setGcfg_saved (c : GCfg) : (s.setGcfg c).saved = s.saved := rfl
@[simp] theorem State.setGcfg_links (c : GCfg) : (s.setGcfg c).links = s.links := rfl
@[simp] theorem State.setGcfg_boot (c : GCfg) : (s.setGcfg c).boot = s.boot := rfl
@[simp] theorem State.setGcfg_irqs (c : GCfg) : (s.setGcfg c).irqs = s.irqs := rfl

@[simp] theorem State.updRun_now (core slot : Nat) (f : GRun → GRun) : (s.updRun core slot f).now = s.now := rfl
@[simp] theorem State.updRun_calAhead (core slot : Nat) (f : GRun → GRun) : (s.updRun core slot f).calAhead = s.calAhead := rfl
@[simp] theorem State.updRun_ckAhead (core slot : Nat) (f : GRun → GRun) : (s.updRun core slot f).ckAhead = s.ckAhead := rfl
@[simp] theorem State.updRun_nonce (core slot : Nat) (f : GRun → GRun) : (s.updRun core slot f).nonce = s.nonce := rfl
@[simp] theorem State.updRun_turn (core slot : Nat) (f : GRun → GRun) : (s.updRun core slot f).turn = s.turn := rfl
@[simp] theorem State.updRun_agenda (core slot : Nat) (f : GRun → GRun) : (s.updRun core slot f).agenda = s.agenda := rfl
@[simp] theorem State.updRun_focus (core slot : Nat) (f : GRun → GRun) : (s.updRun core slot f).focus = s.focus := rfl
@[simp] theorem State.updRun_fe (core slot : Nat) (f : GRun → GRun) : (s.updRun core slot f).fe = s.fe := rfl
@[simp] theorem State.updRun_mem (core slot : Nat) (f : GRun → GRun) : (s.updRun core slot f).mem = s.mem := rfl
@[simp] theorem State.updRun_iso (core slot : Nat) (f : GRun → GRun) : (s.updRun core slot f).iso = s.iso := rfl
@[simp] theorem State.updRun_alm (core slot : Nat) (f : GRun → GRun) : (s.updRun core slot f).alm = s.alm := rfl
@[simp] theorem State.updRun_eng (core slot : Nat) (f : GRun → GRun) : (s.updRun core slot f).eng = s.eng := rfl
@[simp] theorem State.updRun_mx (core slot : Nat) (f : GRun → GRun) : (s.updRun core slot f).mx = s.mx := rfl
@[simp] theorem State.updRun_grid_recs (core slot : Nat) (f : GRun → GRun) : (s.updRun core slot f).grid.recs = s.grid.recs := rfl
@[simp] theorem State.updRun_grid_placing (core slot : Nat) (f : GRun → GRun) : (s.updRun core slot f).grid.placing = s.grid.placing := rfl
@[simp] theorem State.updRun_grid_cfgs (core slot : Nat) (f : GRun → GRun) : (s.updRun core slot f).grid.cfgs = s.grid.cfgs := rfl
@[simp] theorem State.updRun_grid_iters (core slot : Nat) (f : GRun → GRun) : (s.updRun core slot f).grid.iters = s.grid.iters := rfl
@[simp] theorem State.updRun_grid_chans (core slot : Nat) (f : GRun → GRun) : (s.updRun core slot f).grid.chans = s.grid.chans := rfl
@[simp] theorem State.updRun_grid_waiting (core slot : Nat) (f : GRun → GRun) : (s.updRun core slot f).grid.waiting = s.grid.waiting := rfl
@[simp] theorem State.updRun_saved (core slot : Nat) (f : GRun → GRun) : (s.updRun core slot f).saved = s.saved := rfl
@[simp] theorem State.updRun_links (core slot : Nat) (f : GRun → GRun) : (s.updRun core slot f).links = s.links := rfl
@[simp] theorem State.updRun_boot (core slot : Nat) (f : GRun → GRun) : (s.updRun core slot f).boot = s.boot := rfl
@[simp] theorem State.updRun_irqs (core slot : Nat) (f : GRun → GRun) : (s.updRun core slot f).irqs = s.irqs := rfl

@[simp] theorem State.updIter_now (id : Nat) (f : GIter → GIter) : (s.updIter id f).now = s.now := rfl
@[simp] theorem State.updIter_calAhead (id : Nat) (f : GIter → GIter) : (s.updIter id f).calAhead = s.calAhead := rfl
@[simp] theorem State.updIter_ckAhead (id : Nat) (f : GIter → GIter) : (s.updIter id f).ckAhead = s.ckAhead := rfl
@[simp] theorem State.updIter_nonce (id : Nat) (f : GIter → GIter) : (s.updIter id f).nonce = s.nonce := rfl
@[simp] theorem State.updIter_turn (id : Nat) (f : GIter → GIter) : (s.updIter id f).turn = s.turn := rfl
@[simp] theorem State.updIter_agenda (id : Nat) (f : GIter → GIter) : (s.updIter id f).agenda = s.agenda := rfl
@[simp] theorem State.updIter_focus (id : Nat) (f : GIter → GIter) : (s.updIter id f).focus = s.focus := rfl
@[simp] theorem State.updIter_fe (id : Nat) (f : GIter → GIter) : (s.updIter id f).fe = s.fe := rfl
@[simp] theorem State.updIter_mem (id : Nat) (f : GIter → GIter) : (s.updIter id f).mem = s.mem := rfl
@[simp] theorem State.updIter_iso (id : Nat) (f : GIter → GIter) : (s.updIter id f).iso = s.iso := rfl
@[simp] theorem State.updIter_alm (id : Nat) (f : GIter → GIter) : (s.updIter id f).alm = s.alm := rfl
@[simp] theorem State.updIter_eng (id : Nat) (f : GIter → GIter) : (s.updIter id f).eng = s.eng := rfl
@[simp] theorem State.updIter_mx (id : Nat) (f : GIter → GIter) : (s.updIter id f).mx = s.mx := rfl
@[simp] theorem State.updIter_grid_recs (id : Nat) (f : GIter → GIter) : (s.updIter id f).grid.recs = s.grid.recs := rfl
@[simp] theorem State.updIter_grid_placing (id : Nat) (f : GIter → GIter) : (s.updIter id f).grid.placing = s.grid.placing := rfl
@[simp] theorem State.updIter_grid_cfgs (id : Nat) (f : GIter → GIter) : (s.updIter id f).grid.cfgs = s.grid.cfgs := rfl
@[simp] theorem State.updIter_grid_runs (id : Nat) (f : GIter → GIter) : (s.updIter id f).grid.runs = s.grid.runs := rfl
@[simp] theorem State.updIter_grid_chans (id : Nat) (f : GIter → GIter) : (s.updIter id f).grid.chans = s.grid.chans := rfl
@[simp] theorem State.updIter_grid_waiting (id : Nat) (f : GIter → GIter) : (s.updIter id f).grid.waiting = s.grid.waiting := rfl
@[simp] theorem State.updIter_saved (id : Nat) (f : GIter → GIter) : (s.updIter id f).saved = s.saved := rfl
@[simp] theorem State.updIter_links (id : Nat) (f : GIter → GIter) : (s.updIter id f).links = s.links := rfl
@[simp] theorem State.updIter_boot (id : Nat) (f : GIter → GIter) : (s.updIter id f).boot = s.boot := rfl
@[simp] theorem State.updIter_irqs (id : Nat) (f : GIter → GIter) : (s.updIter id f).irqs = s.irqs := rfl

@[simp] theorem State.setPlaceRec_now (r : PlaceRec) : (s.setPlaceRec r).now = s.now := rfl
@[simp] theorem State.setPlaceRec_calAhead (r : PlaceRec) : (s.setPlaceRec r).calAhead = s.calAhead := rfl
@[simp] theorem State.setPlaceRec_ckAhead (r : PlaceRec) : (s.setPlaceRec r).ckAhead = s.ckAhead := rfl
@[simp] theorem State.setPlaceRec_nonce (r : PlaceRec) : (s.setPlaceRec r).nonce = s.nonce := rfl
@[simp] theorem State.setPlaceRec_turn (r : PlaceRec) : (s.setPlaceRec r).turn = s.turn := rfl
@[simp] theorem State.setPlaceRec_agenda (r : PlaceRec) : (s.setPlaceRec r).agenda = s.agenda := rfl
@[simp] theorem State.setPlaceRec_focus (r : PlaceRec) : (s.setPlaceRec r).focus = s.focus := rfl
@[simp] theorem State.setPlaceRec_fe (r : PlaceRec) : (s.setPlaceRec r).fe = s.fe := rfl
@[simp] theorem State.setPlaceRec_mem (r : PlaceRec) : (s.setPlaceRec r).mem = s.mem := rfl
@[simp] theorem State.setPlaceRec_iso (r : PlaceRec) : (s.setPlaceRec r).iso = s.iso := rfl
@[simp] theorem State.setPlaceRec_alm (r : PlaceRec) : (s.setPlaceRec r).alm = s.alm := rfl
@[simp] theorem State.setPlaceRec_eng (r : PlaceRec) : (s.setPlaceRec r).eng = s.eng := rfl
@[simp] theorem State.setPlaceRec_mx (r : PlaceRec) : (s.setPlaceRec r).mx = s.mx := rfl
@[simp] theorem State.setPlaceRec_grid_placing (r : PlaceRec) : (s.setPlaceRec r).grid.placing = s.grid.placing := rfl
@[simp] theorem State.setPlaceRec_grid_cfgs (r : PlaceRec) : (s.setPlaceRec r).grid.cfgs = s.grid.cfgs := rfl
@[simp] theorem State.setPlaceRec_grid_runs (r : PlaceRec) : (s.setPlaceRec r).grid.runs = s.grid.runs := rfl
@[simp] theorem State.setPlaceRec_grid_iters (r : PlaceRec) : (s.setPlaceRec r).grid.iters = s.grid.iters := rfl
@[simp] theorem State.setPlaceRec_grid_chans (r : PlaceRec) : (s.setPlaceRec r).grid.chans = s.grid.chans := rfl
@[simp] theorem State.setPlaceRec_grid_waiting (r : PlaceRec) : (s.setPlaceRec r).grid.waiting = s.grid.waiting := rfl
@[simp] theorem State.setPlaceRec_saved (r : PlaceRec) : (s.setPlaceRec r).saved = s.saved := rfl
@[simp] theorem State.setPlaceRec_links (r : PlaceRec) : (s.setPlaceRec r).links = s.links := rfl
@[simp] theorem State.setPlaceRec_boot (r : PlaceRec) : (s.setPlaceRec r).boot = s.boot := rfl
@[simp] theorem State.setPlaceRec_irqs (r : PlaceRec) : (s.setPlaceRec r).irqs = s.irqs := rfl

@[simp] theorem State.stopWait_now (r : Option Nat) (line : Nat) : (s.stopWait r line).now = s.now := rfl
@[simp] theorem State.stopWait_calAhead (r : Option Nat) (line : Nat) : (s.stopWait r line).calAhead = s.calAhead := rfl
@[simp] theorem State.stopWait_ckAhead (r : Option Nat) (line : Nat) : (s.stopWait r line).ckAhead = s.ckAhead := rfl
@[simp] theorem State.stopWait_nonce (r : Option Nat) (line : Nat) : (s.stopWait r line).nonce = s.nonce := rfl
@[simp] theorem State.stopWait_turn (r : Option Nat) (line : Nat) : (s.stopWait r line).turn = s.turn := rfl
@[simp] theorem State.stopWait_agenda (r : Option Nat) (line : Nat) : (s.stopWait r line).agenda = s.agenda := rfl
@[simp] theorem State.stopWait_focus (r : Option Nat) (line : Nat) : (s.stopWait r line).focus = s.focus := rfl
@[simp] theorem State.stopWait_fe (r : Option Nat) (line : Nat) : (s.stopWait r line).fe = s.fe := rfl
@[simp] theorem State.stopWait_mem (r : Option Nat) (line : Nat) : (s.stopWait r line).mem = s.mem := rfl
@[simp] theorem State.stopWait_iso (r : Option Nat) (line : Nat) : (s.stopWait r line).iso = s.iso := rfl
@[simp] theorem State.stopWait_alm (r : Option Nat) (line : Nat) : (s.stopWait r line).alm = s.alm := rfl
@[simp] theorem State.stopWait_eng (r : Option Nat) (line : Nat) : (s.stopWait r line).eng = s.eng := rfl
@[simp] theorem State.stopWait_mx (r : Option Nat) (line : Nat) : (s.stopWait r line).mx = s.mx := rfl
@[simp] theorem State.stopWait_grid (r : Option Nat) (line : Nat) : (s.stopWait r line).grid = s.grid := rfl
@[simp] theorem State.stopWait_saved (r : Option Nat) (line : Nat) : (s.stopWait r line).saved = s.saved := rfl
@[simp] theorem State.stopWait_links_links (r : Option Nat) (line : Nat) : (s.stopWait r line).links.links = s.links.links := rfl
@[simp] theorem State.stopWait_links_lost (r : Option Nat) (line : Nat) : (s.stopWait r line).links.lost = s.links.lost := rfl
@[simp] theorem State.stopWait_links_sce (r : Option Nat) (line : Nat) : (s.stopWait r line).links.sce = s.links.sce := rfl
@[simp] theorem State.stopWait_links_sue (r : Option Nat) (line : Nat) : (s.stopWait r line).links.sue = s.links.sue := rfl
@[simp] theorem State.stopWait_boot (r : Option Nat) (line : Nat) : (s.stopWait r line).boot = s.boot := rfl
@[simp] theorem State.stopWait_irqs (r : Option Nat) (line : Nat) : (s.stopWait r line).irqs = s.irqs := rfl

@[simp] theorem State.dropLanes_now (core slot : Nat) (m : LaneMask) : (s.dropLanes core slot m).now = s.now := rfl
@[simp] theorem State.dropLanes_calAhead (core slot : Nat) (m : LaneMask) : (s.dropLanes core slot m).calAhead = s.calAhead := rfl
@[simp] theorem State.dropLanes_ckAhead (core slot : Nat) (m : LaneMask) : (s.dropLanes core slot m).ckAhead = s.ckAhead := rfl
@[simp] theorem State.dropLanes_nonce (core slot : Nat) (m : LaneMask) : (s.dropLanes core slot m).nonce = s.nonce := rfl
@[simp] theorem State.dropLanes_turn (core slot : Nat) (m : LaneMask) : (s.dropLanes core slot m).turn = s.turn := rfl
@[simp] theorem State.dropLanes_agenda (core slot : Nat) (m : LaneMask) : (s.dropLanes core slot m).agenda = s.agenda := rfl
@[simp] theorem State.dropLanes_focus (core slot : Nat) (m : LaneMask) : (s.dropLanes core slot m).focus = s.focus := rfl
@[simp] theorem State.dropLanes_fe_wgs (core slot : Nat) (m : LaneMask) : (s.dropLanes core slot m).fe.wgs = s.fe.wgs := rfl
@[simp] theorem State.dropLanes_fe_llops (core slot : Nat) (m : LaneMask) : (s.dropLanes core slot m).fe.llops = s.fe.llops := rfl
@[simp] theorem State.dropLanes_fe_monitors (core slot : Nat) (m : LaneMask) : (s.dropLanes core slot m).fe.monitors = s.fe.monitors := rfl
@[simp] theorem State.dropLanes_fe_buckets (core slot : Nat) (m : LaneMask) : (s.dropLanes core slot m).fe.buckets = s.fe.buckets := rfl
@[simp] theorem State.dropLanes_fe_regrouped (core slot : Nat) (m : LaneMask) : (s.dropLanes core slot m).fe.regrouped = s.fe.regrouped := rfl
@[simp] theorem State.dropLanes_fe_matched (core slot : Nat) (m : LaneMask) : (s.dropLanes core slot m).fe.matched = s.fe.matched := rfl
@[simp] theorem State.dropLanes_mem (core slot : Nat) (m : LaneMask) : (s.dropLanes core slot m).mem = s.mem := rfl
@[simp] theorem State.dropLanes_iso (core slot : Nat) (m : LaneMask) : (s.dropLanes core slot m).iso = s.iso := rfl
@[simp] theorem State.dropLanes_alm (core slot : Nat) (m : LaneMask) : (s.dropLanes core slot m).alm = s.alm := rfl
@[simp] theorem State.dropLanes_eng (core slot : Nat) (m : LaneMask) : (s.dropLanes core slot m).eng = s.eng := rfl
@[simp] theorem State.dropLanes_mx (core slot : Nat) (m : LaneMask) : (s.dropLanes core slot m).mx = s.mx := rfl
@[simp] theorem State.dropLanes_grid (core slot : Nat) (m : LaneMask) : (s.dropLanes core slot m).grid = s.grid := rfl
@[simp] theorem State.dropLanes_saved (core slot : Nat) (m : LaneMask) : (s.dropLanes core slot m).saved = s.saved := rfl
@[simp] theorem State.dropLanes_links (core slot : Nat) (m : LaneMask) : (s.dropLanes core slot m).links = s.links := rfl
@[simp] theorem State.dropLanes_boot (core slot : Nat) (m : LaneMask) : (s.dropLanes core slot m).boot = s.boot := rfl
@[simp] theorem State.dropLanes_irqs (core slot : Nat) (m : LaneMask) : (s.dropLanes core slot m).irqs = s.irqs := rfl

variable (w : Warp)

@[simp] theorem Warp.setReg_core (m : LaneMask) (r : Nat) (v : Nat → Word) : (w.setReg m r v).core = w.core := rfl
@[simp] theorem Warp.setReg_slot (m : LaneMask) (r : Nat) (v : Nat → Word) : (w.setReg m r v).slot = w.slot := rfl
@[simp] theorem Warp.setReg_wg (m : LaneMask) (r : Nat) (v : Nat → Word) : (w.setReg m r v).wg = w.wg := rfl
@[simp] theorem Warp.setReg_sub (m : LaneMask) (r : Nat) (v : Nat → Word) : (w.setReg m r v).sub = w.sub := rfl
@[simp] theorem Warp.setReg_budget (m : LaneMask) (r : Nat) (v : Nat → Word) : (w.setReg m r v).budget = w.budget := rfl
@[simp] theorem Warp.setReg_threads (m : LaneMask) (r : Nat) (v : Nat → Word) : (w.setReg m r v).threads = w.threads := rfl
@[simp] theorem Warp.setReg_preds (m : LaneMask) (r : Nat) (v : Nat → Word) : (w.setReg m r v).preds = w.preds := rfl
@[simp] theorem Warp.setReg_flags (m : LaneMask) (r : Nat) (v : Nat → Word) : (w.setReg m r v).flags = w.flags := rfl
@[simp] theorem Warp.setReg_ports (m : LaneMask) (r : Nat) (v : Nat → Word) : (w.setReg m r v).ports = w.ports := rfl
@[simp] theorem Warp.setReg_capd (m : LaneMask) (r : Nat) (v : Nat → Word) : (w.setReg m r v).capd = w.capd := rfl
@[simp] theorem Warp.setReg_bundles (m : LaneMask) (r : Nat) (v : Nat → Word) : (w.setReg m r v).bundles = w.bundles := rfl
@[simp] theorem Warp.setReg_castles (m : LaneMask) (r : Nat) (v : Nat → Word) : (w.setReg m r v).castles = w.castles := rfl
@[simp] theorem Warp.setReg_lastIssue (m : LaneMask) (r : Nat) (v : Nat → Word) : (w.setReg m r v).lastIssue = w.lastIssue := rfl
@[simp] theorem Warp.setReg_yielded (m : LaneMask) (r : Nat) (v : Nat → Word) : (w.setReg m r v).yielded = w.yielded := rfl
@[simp] theorem Warp.setReg_issued (m : LaneMask) (r : Nat) (v : Nat → Word) : (w.setReg m r v).issued = w.issued := rfl
@[simp] theorem Warp.setReg_bissue (m : LaneMask) (r : Nat) (v : Nat → Word) : (w.setReg m r v).bissue = w.bissue := rfl
@[simp] theorem Warp.setReg_stallck (m : LaneMask) (r : Nat) (v : Nat → Word) : (w.setReg m r v).stallck = w.stallck := rfl
@[simp] theorem Warp.setReg_gretire (m : LaneMask) (r : Nat) (v : Nat → Word) : (w.setReg m r v).gretire = w.gretire := rfl
@[simp] theorem Warp.setReg_drains (m : LaneMask) (r : Nat) (v : Nat → Word) : (w.setReg m r v).drains = w.drains := rfl

@[simp] theorem Warp.setPair_core (m : LaneMask) (r : Nat) (v : Nat → DWord) : (w.setPair m r v).core = w.core := rfl
@[simp] theorem Warp.setPair_slot (m : LaneMask) (r : Nat) (v : Nat → DWord) : (w.setPair m r v).slot = w.slot := rfl
@[simp] theorem Warp.setPair_wg (m : LaneMask) (r : Nat) (v : Nat → DWord) : (w.setPair m r v).wg = w.wg := rfl
@[simp] theorem Warp.setPair_sub (m : LaneMask) (r : Nat) (v : Nat → DWord) : (w.setPair m r v).sub = w.sub := rfl
@[simp] theorem Warp.setPair_budget (m : LaneMask) (r : Nat) (v : Nat → DWord) : (w.setPair m r v).budget = w.budget := rfl
@[simp] theorem Warp.setPair_threads (m : LaneMask) (r : Nat) (v : Nat → DWord) : (w.setPair m r v).threads = w.threads := rfl
@[simp] theorem Warp.setPair_preds (m : LaneMask) (r : Nat) (v : Nat → DWord) : (w.setPair m r v).preds = w.preds := rfl
@[simp] theorem Warp.setPair_flags (m : LaneMask) (r : Nat) (v : Nat → DWord) : (w.setPair m r v).flags = w.flags := rfl
@[simp] theorem Warp.setPair_ports (m : LaneMask) (r : Nat) (v : Nat → DWord) : (w.setPair m r v).ports = w.ports := rfl
@[simp] theorem Warp.setPair_capd (m : LaneMask) (r : Nat) (v : Nat → DWord) : (w.setPair m r v).capd = w.capd := rfl
@[simp] theorem Warp.setPair_bundles (m : LaneMask) (r : Nat) (v : Nat → DWord) : (w.setPair m r v).bundles = w.bundles := rfl
@[simp] theorem Warp.setPair_castles (m : LaneMask) (r : Nat) (v : Nat → DWord) : (w.setPair m r v).castles = w.castles := rfl
@[simp] theorem Warp.setPair_lastIssue (m : LaneMask) (r : Nat) (v : Nat → DWord) : (w.setPair m r v).lastIssue = w.lastIssue := rfl
@[simp] theorem Warp.setPair_yielded (m : LaneMask) (r : Nat) (v : Nat → DWord) : (w.setPair m r v).yielded = w.yielded := rfl
@[simp] theorem Warp.setPair_issued (m : LaneMask) (r : Nat) (v : Nat → DWord) : (w.setPair m r v).issued = w.issued := rfl
@[simp] theorem Warp.setPair_bissue (m : LaneMask) (r : Nat) (v : Nat → DWord) : (w.setPair m r v).bissue = w.bissue := rfl
@[simp] theorem Warp.setPair_stallck (m : LaneMask) (r : Nat) (v : Nat → DWord) : (w.setPair m r v).stallck = w.stallck := rfl
@[simp] theorem Warp.setPair_gretire (m : LaneMask) (r : Nat) (v : Nat → DWord) : (w.setPair m r v).gretire = w.gretire := rfl
@[simp] theorem Warp.setPair_drains (m : LaneMask) (r : Nat) (v : Nat → DWord) : (w.setPair m r v).drains = w.drains := rfl

@[simp] theorem Warp.mapThreads_core (m : LaneMask) (g : Nat → Thread → Thread) : (w.mapThreads m g).core = w.core := rfl
@[simp] theorem Warp.mapThreads_slot (m : LaneMask) (g : Nat → Thread → Thread) : (w.mapThreads m g).slot = w.slot := rfl
@[simp] theorem Warp.mapThreads_wg (m : LaneMask) (g : Nat → Thread → Thread) : (w.mapThreads m g).wg = w.wg := rfl
@[simp] theorem Warp.mapThreads_sub (m : LaneMask) (g : Nat → Thread → Thread) : (w.mapThreads m g).sub = w.sub := rfl
@[simp] theorem Warp.mapThreads_budget (m : LaneMask) (g : Nat → Thread → Thread) : (w.mapThreads m g).budget = w.budget := rfl
@[simp] theorem Warp.mapThreads_regs (m : LaneMask) (g : Nat → Thread → Thread) : (w.mapThreads m g).regs = w.regs := rfl
@[simp] theorem Warp.mapThreads_preds (m : LaneMask) (g : Nat → Thread → Thread) : (w.mapThreads m g).preds = w.preds := rfl
@[simp] theorem Warp.mapThreads_flags (m : LaneMask) (g : Nat → Thread → Thread) : (w.mapThreads m g).flags = w.flags := rfl
@[simp] theorem Warp.mapThreads_ports (m : LaneMask) (g : Nat → Thread → Thread) : (w.mapThreads m g).ports = w.ports := rfl
@[simp] theorem Warp.mapThreads_capd (m : LaneMask) (g : Nat → Thread → Thread) : (w.mapThreads m g).capd = w.capd := rfl
@[simp] theorem Warp.mapThreads_bundles (m : LaneMask) (g : Nat → Thread → Thread) : (w.mapThreads m g).bundles = w.bundles := rfl
@[simp] theorem Warp.mapThreads_castles (m : LaneMask) (g : Nat → Thread → Thread) : (w.mapThreads m g).castles = w.castles := rfl
@[simp] theorem Warp.mapThreads_lastIssue (m : LaneMask) (g : Nat → Thread → Thread) : (w.mapThreads m g).lastIssue = w.lastIssue := rfl
@[simp] theorem Warp.mapThreads_yielded (m : LaneMask) (g : Nat → Thread → Thread) : (w.mapThreads m g).yielded = w.yielded := rfl
@[simp] theorem Warp.mapThreads_issued (m : LaneMask) (g : Nat → Thread → Thread) : (w.mapThreads m g).issued = w.issued := rfl
@[simp] theorem Warp.mapThreads_bissue (m : LaneMask) (g : Nat → Thread → Thread) : (w.mapThreads m g).bissue = w.bissue := rfl
@[simp] theorem Warp.mapThreads_stallck (m : LaneMask) (g : Nat → Thread → Thread) : (w.mapThreads m g).stallck = w.stallck := rfl
@[simp] theorem Warp.mapThreads_gretire (m : LaneMask) (g : Nat → Thread → Thread) : (w.mapThreads m g).gretire = w.gretire := rfl
@[simp] theorem Warp.mapThreads_drains (m : LaneMask) (g : Nat → Thread → Thread) : (w.mapThreads m g).drains = w.drains := rfl

@[simp] theorem Warp.applyWrites_core (ws : List RegWrite) : (w.applyWrites ws).core = w.core := rfl
@[simp] theorem Warp.applyWrites_slot (ws : List RegWrite) : (w.applyWrites ws).slot = w.slot := rfl
@[simp] theorem Warp.applyWrites_wg (ws : List RegWrite) : (w.applyWrites ws).wg = w.wg := rfl
@[simp] theorem Warp.applyWrites_sub (ws : List RegWrite) : (w.applyWrites ws).sub = w.sub := rfl
@[simp] theorem Warp.applyWrites_budget (ws : List RegWrite) : (w.applyWrites ws).budget = w.budget := rfl
@[simp] theorem Warp.applyWrites_threads (ws : List RegWrite) : (w.applyWrites ws).threads = w.threads := rfl
@[simp] theorem Warp.applyWrites_preds (ws : List RegWrite) : (w.applyWrites ws).preds = w.preds := rfl
@[simp] theorem Warp.applyWrites_flags (ws : List RegWrite) : (w.applyWrites ws).flags = w.flags := rfl
@[simp] theorem Warp.applyWrites_ports (ws : List RegWrite) : (w.applyWrites ws).ports = w.ports := rfl
@[simp] theorem Warp.applyWrites_capd (ws : List RegWrite) : (w.applyWrites ws).capd = w.capd := rfl
@[simp] theorem Warp.applyWrites_bundles (ws : List RegWrite) : (w.applyWrites ws).bundles = w.bundles := rfl
@[simp] theorem Warp.applyWrites_castles (ws : List RegWrite) : (w.applyWrites ws).castles = w.castles := rfl
@[simp] theorem Warp.applyWrites_lastIssue (ws : List RegWrite) : (w.applyWrites ws).lastIssue = w.lastIssue := rfl
@[simp] theorem Warp.applyWrites_yielded (ws : List RegWrite) : (w.applyWrites ws).yielded = w.yielded := rfl
@[simp] theorem Warp.applyWrites_issued (ws : List RegWrite) : (w.applyWrites ws).issued = w.issued := rfl
@[simp] theorem Warp.applyWrites_bissue (ws : List RegWrite) : (w.applyWrites ws).bissue = w.bissue := rfl
@[simp] theorem Warp.applyWrites_stallck (ws : List RegWrite) : (w.applyWrites ws).stallck = w.stallck := rfl
@[simp] theorem Warp.applyWrites_gretire (ws : List RegWrite) : (w.applyWrites ws).gretire = w.gretire := rfl
@[simp] theorem Warp.applyWrites_drains (ws : List RegWrite) : (w.applyWrites ws).drains = w.drains := rfl

@[simp] theorem Warp.setPred_core (m : LaneMask) (p : Nat) (v : Nat → Bool) : (w.setPred m p v).core = w.core := by unfold Warp.setPred; split <;> rfl
@[simp] theorem Warp.setPred_slot (m : LaneMask) (p : Nat) (v : Nat → Bool) : (w.setPred m p v).slot = w.slot := by unfold Warp.setPred; split <;> rfl
@[simp] theorem Warp.setPred_wg (m : LaneMask) (p : Nat) (v : Nat → Bool) : (w.setPred m p v).wg = w.wg := by unfold Warp.setPred; split <;> rfl
@[simp] theorem Warp.setPred_sub (m : LaneMask) (p : Nat) (v : Nat → Bool) : (w.setPred m p v).sub = w.sub := by unfold Warp.setPred; split <;> rfl
@[simp] theorem Warp.setPred_budget (m : LaneMask) (p : Nat) (v : Nat → Bool) : (w.setPred m p v).budget = w.budget := by unfold Warp.setPred; split <;> rfl
@[simp] theorem Warp.setPred_threads (m : LaneMask) (p : Nat) (v : Nat → Bool) : (w.setPred m p v).threads = w.threads := by unfold Warp.setPred; split <;> rfl
@[simp] theorem Warp.setPred_regs (m : LaneMask) (p : Nat) (v : Nat → Bool) : (w.setPred m p v).regs = w.regs := by unfold Warp.setPred; split <;> rfl
@[simp] theorem Warp.setPred_flags (m : LaneMask) (p : Nat) (v : Nat → Bool) : (w.setPred m p v).flags = w.flags := by unfold Warp.setPred; split <;> rfl
@[simp] theorem Warp.setPred_ports (m : LaneMask) (p : Nat) (v : Nat → Bool) : (w.setPred m p v).ports = w.ports := by unfold Warp.setPred; split <;> rfl
@[simp] theorem Warp.setPred_capd (m : LaneMask) (p : Nat) (v : Nat → Bool) : (w.setPred m p v).capd = w.capd := by unfold Warp.setPred; split <;> rfl
@[simp] theorem Warp.setPred_bundles (m : LaneMask) (p : Nat) (v : Nat → Bool) : (w.setPred m p v).bundles = w.bundles := by unfold Warp.setPred; split <;> rfl
@[simp] theorem Warp.setPred_castles (m : LaneMask) (p : Nat) (v : Nat → Bool) : (w.setPred m p v).castles = w.castles := by unfold Warp.setPred; split <;> rfl
@[simp] theorem Warp.setPred_lastIssue (m : LaneMask) (p : Nat) (v : Nat → Bool) : (w.setPred m p v).lastIssue = w.lastIssue := by unfold Warp.setPred; split <;> rfl
@[simp] theorem Warp.setPred_yielded (m : LaneMask) (p : Nat) (v : Nat → Bool) : (w.setPred m p v).yielded = w.yielded := by unfold Warp.setPred; split <;> rfl
@[simp] theorem Warp.setPred_issued (m : LaneMask) (p : Nat) (v : Nat → Bool) : (w.setPred m p v).issued = w.issued := by unfold Warp.setPred; split <;> rfl
@[simp] theorem Warp.setPred_bissue (m : LaneMask) (p : Nat) (v : Nat → Bool) : (w.setPred m p v).bissue = w.bissue := by unfold Warp.setPred; split <;> rfl
@[simp] theorem Warp.setPred_stallck (m : LaneMask) (p : Nat) (v : Nat → Bool) : (w.setPred m p v).stallck = w.stallck := by unfold Warp.setPred; split <;> rfl
@[simp] theorem Warp.setPred_gretire (m : LaneMask) (p : Nat) (v : Nat → Bool) : (w.setPred m p v).gretire = w.gretire := by unfold Warp.setPred; split <;> rfl
@[simp] theorem Warp.setPred_drains (m : LaneMask) (p : Nat) (v : Nat → Bool) : (w.setPred m p v).drains = w.drains := by unfold Warp.setPred; split <;> rfl

@[simp] theorem Warp.addFlag_core (fl : Option Nat) : (w.addFlag fl).core = w.core := by cases fl <;> rfl
@[simp] theorem Warp.addFlag_slot (fl : Option Nat) : (w.addFlag fl).slot = w.slot := by cases fl <;> rfl
@[simp] theorem Warp.addFlag_wg (fl : Option Nat) : (w.addFlag fl).wg = w.wg := by cases fl <;> rfl
@[simp] theorem Warp.addFlag_sub (fl : Option Nat) : (w.addFlag fl).sub = w.sub := by cases fl <;> rfl
@[simp] theorem Warp.addFlag_budget (fl : Option Nat) : (w.addFlag fl).budget = w.budget := by cases fl <;> rfl
@[simp] theorem Warp.addFlag_threads (fl : Option Nat) : (w.addFlag fl).threads = w.threads := by cases fl <;> rfl
@[simp] theorem Warp.addFlag_regs (fl : Option Nat) : (w.addFlag fl).regs = w.regs := by cases fl <;> rfl
@[simp] theorem Warp.addFlag_preds (fl : Option Nat) : (w.addFlag fl).preds = w.preds := by cases fl <;> rfl
@[simp] theorem Warp.addFlag_ports (fl : Option Nat) : (w.addFlag fl).ports = w.ports := by cases fl <;> rfl
@[simp] theorem Warp.addFlag_capd (fl : Option Nat) : (w.addFlag fl).capd = w.capd := by cases fl <;> rfl
@[simp] theorem Warp.addFlag_bundles (fl : Option Nat) : (w.addFlag fl).bundles = w.bundles := by cases fl <;> rfl
@[simp] theorem Warp.addFlag_castles (fl : Option Nat) : (w.addFlag fl).castles = w.castles := by cases fl <;> rfl
@[simp] theorem Warp.addFlag_lastIssue (fl : Option Nat) : (w.addFlag fl).lastIssue = w.lastIssue := by cases fl <;> rfl
@[simp] theorem Warp.addFlag_yielded (fl : Option Nat) : (w.addFlag fl).yielded = w.yielded := by cases fl <;> rfl
@[simp] theorem Warp.addFlag_issued (fl : Option Nat) : (w.addFlag fl).issued = w.issued := by cases fl <;> rfl
@[simp] theorem Warp.addFlag_bissue (fl : Option Nat) : (w.addFlag fl).bissue = w.bissue := by cases fl <;> rfl
@[simp] theorem Warp.addFlag_stallck (fl : Option Nat) : (w.addFlag fl).stallck = w.stallck := by cases fl <;> rfl
@[simp] theorem Warp.addFlag_gretire (fl : Option Nat) : (w.addFlag fl).gretire = w.gretire := by cases fl <;> rfl
@[simp] theorem Warp.addFlag_drains (fl : Option Nat) : (w.addFlag fl).drains = w.drains := by cases fl <;> rfl

@[simp] theorem Warp.subFlag_core (fl : Option Nat) : (w.subFlag fl).core = w.core := by cases fl <;> rfl
@[simp] theorem Warp.subFlag_slot (fl : Option Nat) : (w.subFlag fl).slot = w.slot := by cases fl <;> rfl
@[simp] theorem Warp.subFlag_wg (fl : Option Nat) : (w.subFlag fl).wg = w.wg := by cases fl <;> rfl
@[simp] theorem Warp.subFlag_sub (fl : Option Nat) : (w.subFlag fl).sub = w.sub := by cases fl <;> rfl
@[simp] theorem Warp.subFlag_budget (fl : Option Nat) : (w.subFlag fl).budget = w.budget := by cases fl <;> rfl
@[simp] theorem Warp.subFlag_threads (fl : Option Nat) : (w.subFlag fl).threads = w.threads := by cases fl <;> rfl
@[simp] theorem Warp.subFlag_regs (fl : Option Nat) : (w.subFlag fl).regs = w.regs := by cases fl <;> rfl
@[simp] theorem Warp.subFlag_preds (fl : Option Nat) : (w.subFlag fl).preds = w.preds := by cases fl <;> rfl
@[simp] theorem Warp.subFlag_ports (fl : Option Nat) : (w.subFlag fl).ports = w.ports := by cases fl <;> rfl
@[simp] theorem Warp.subFlag_capd (fl : Option Nat) : (w.subFlag fl).capd = w.capd := by cases fl <;> rfl
@[simp] theorem Warp.subFlag_bundles (fl : Option Nat) : (w.subFlag fl).bundles = w.bundles := by cases fl <;> rfl
@[simp] theorem Warp.subFlag_castles (fl : Option Nat) : (w.subFlag fl).castles = w.castles := by cases fl <;> rfl
@[simp] theorem Warp.subFlag_lastIssue (fl : Option Nat) : (w.subFlag fl).lastIssue = w.lastIssue := by cases fl <;> rfl
@[simp] theorem Warp.subFlag_yielded (fl : Option Nat) : (w.subFlag fl).yielded = w.yielded := by cases fl <;> rfl
@[simp] theorem Warp.subFlag_issued (fl : Option Nat) : (w.subFlag fl).issued = w.issued := by cases fl <;> rfl
@[simp] theorem Warp.subFlag_bissue (fl : Option Nat) : (w.subFlag fl).bissue = w.bissue := by cases fl <;> rfl
@[simp] theorem Warp.subFlag_stallck (fl : Option Nat) : (w.subFlag fl).stallck = w.stallck := by cases fl <;> rfl
@[simp] theorem Warp.subFlag_gretire (fl : Option Nat) : (w.subFlag fl).gretire = w.gretire := by cases fl <;> rfl
@[simp] theorem Warp.subFlag_drains (fl : Option Nat) : (w.subFlag fl).drains = w.drains := by cases fl <;> rfl

@[simp] theorem Warp.unpop_core (f : Focus) : (w.unpop f).core = w.core := by unfold Warp.unpop; split <;> (try split) <;> rfl
@[simp] theorem Warp.unpop_slot (f : Focus) : (w.unpop f).slot = w.slot := by unfold Warp.unpop; split <;> (try split) <;> rfl
@[simp] theorem Warp.unpop_wg (f : Focus) : (w.unpop f).wg = w.wg := by unfold Warp.unpop; split <;> (try split) <;> rfl
@[simp] theorem Warp.unpop_sub (f : Focus) : (w.unpop f).sub = w.sub := by unfold Warp.unpop; split <;> (try split) <;> rfl
@[simp] theorem Warp.unpop_budget (f : Focus) : (w.unpop f).budget = w.budget := by unfold Warp.unpop; split <;> (try split) <;> rfl
@[simp] theorem Warp.unpop_regs (f : Focus) : (w.unpop f).regs = w.regs := by unfold Warp.unpop; split <;> (try split) <;> rfl
@[simp] theorem Warp.unpop_preds (f : Focus) : (w.unpop f).preds = w.preds := by unfold Warp.unpop; split <;> (try split) <;> rfl
@[simp] theorem Warp.unpop_flags (f : Focus) : (w.unpop f).flags = w.flags := by unfold Warp.unpop; split <;> (try split) <;> rfl
@[simp] theorem Warp.unpop_capd (f : Focus) : (w.unpop f).capd = w.capd := by unfold Warp.unpop; split <;> (try split) <;> rfl
@[simp] theorem Warp.unpop_bundles (f : Focus) : (w.unpop f).bundles = w.bundles := by unfold Warp.unpop; split <;> (try split) <;> rfl
@[simp] theorem Warp.unpop_castles (f : Focus) : (w.unpop f).castles = w.castles := by unfold Warp.unpop; split <;> (try split) <;> rfl
@[simp] theorem Warp.unpop_lastIssue (f : Focus) : (w.unpop f).lastIssue = w.lastIssue := by unfold Warp.unpop; split <;> (try split) <;> rfl
@[simp] theorem Warp.unpop_yielded (f : Focus) : (w.unpop f).yielded = w.yielded := by unfold Warp.unpop; split <;> (try split) <;> rfl
@[simp] theorem Warp.unpop_issued (f : Focus) : (w.unpop f).issued = w.issued := by unfold Warp.unpop; split <;> (try split) <;> rfl
@[simp] theorem Warp.unpop_bissue (f : Focus) : (w.unpop f).bissue = w.bissue := by unfold Warp.unpop; split <;> (try split) <;> rfl
@[simp] theorem Warp.unpop_stallck (f : Focus) : (w.unpop f).stallck = w.stallck := by unfold Warp.unpop; split <;> (try split) <;> rfl
@[simp] theorem Warp.unpop_gretire (f : Focus) : (w.unpop f).gretire = w.gretire := by unfold Warp.unpop; split <;> (try split) <;> rfl
@[simp] theorem Warp.unpop_drains (f : Focus) : (w.unpop f).drains = w.drains := by unfold Warp.unpop; split <;> (try split) <;> rfl

@[simp] theorem State.raiseIrq_now (fn : Option Nat) (vec : Nat) : (s.raiseIrq fn vec).now = s.now := by unfold State.raiseIrq; split <;> rfl
@[simp] theorem State.raiseIrq_calAhead (fn : Option Nat) (vec : Nat) : (s.raiseIrq fn vec).calAhead = s.calAhead := by unfold State.raiseIrq; split <;> rfl
@[simp] theorem State.raiseIrq_ckAhead (fn : Option Nat) (vec : Nat) : (s.raiseIrq fn vec).ckAhead = s.ckAhead := by unfold State.raiseIrq; split <;> rfl
@[simp] theorem State.raiseIrq_nonce (fn : Option Nat) (vec : Nat) : (s.raiseIrq fn vec).nonce = s.nonce := by unfold State.raiseIrq; split <;> rfl
@[simp] theorem State.raiseIrq_turn (fn : Option Nat) (vec : Nat) : (s.raiseIrq fn vec).turn = s.turn := by unfold State.raiseIrq; split <;> rfl
@[simp] theorem State.raiseIrq_agenda (fn : Option Nat) (vec : Nat) : (s.raiseIrq fn vec).agenda = s.agenda := by unfold State.raiseIrq; split <;> rfl
@[simp] theorem State.raiseIrq_focus (fn : Option Nat) (vec : Nat) : (s.raiseIrq fn vec).focus = s.focus := by unfold State.raiseIrq; split <;> rfl
@[simp] theorem State.raiseIrq_fe (fn : Option Nat) (vec : Nat) : (s.raiseIrq fn vec).fe = s.fe := by unfold State.raiseIrq; split <;> rfl
@[simp] theorem State.raiseIrq_mem (fn : Option Nat) (vec : Nat) : (s.raiseIrq fn vec).mem = s.mem := by unfold State.raiseIrq; split <;> rfl
@[simp] theorem State.raiseIrq_iso (fn : Option Nat) (vec : Nat) : (s.raiseIrq fn vec).iso = s.iso := by unfold State.raiseIrq; split <;> rfl
@[simp] theorem State.raiseIrq_alm (fn : Option Nat) (vec : Nat) : (s.raiseIrq fn vec).alm = s.alm := by unfold State.raiseIrq; split <;> rfl
@[simp] theorem State.raiseIrq_eng (fn : Option Nat) (vec : Nat) : (s.raiseIrq fn vec).eng = s.eng := by unfold State.raiseIrq; split <;> rfl
@[simp] theorem State.raiseIrq_mx (fn : Option Nat) (vec : Nat) : (s.raiseIrq fn vec).mx = s.mx := by unfold State.raiseIrq; split <;> rfl
@[simp] theorem State.raiseIrq_grid (fn : Option Nat) (vec : Nat) : (s.raiseIrq fn vec).grid = s.grid := by unfold State.raiseIrq; split <;> rfl
@[simp] theorem State.raiseIrq_saved (fn : Option Nat) (vec : Nat) : (s.raiseIrq fn vec).saved = s.saved := by unfold State.raiseIrq; split <;> rfl
@[simp] theorem State.raiseIrq_links (fn : Option Nat) (vec : Nat) : (s.raiseIrq fn vec).links = s.links := by unfold State.raiseIrq; split <;> rfl
@[simp] theorem State.raiseIrq_boot (fn : Option Nat) (vec : Nat) : (s.raiseIrq fn vec).boot = s.boot := by unfold State.raiseIrq; split <;> rfl

@[simp] theorem State.setPts_now (die t : Nat) : (s.setPts die t).now = s.now := by unfold State.setPts; split <;> rfl
@[simp] theorem State.setPts_calAhead (die t : Nat) : (s.setPts die t).calAhead = s.calAhead := by unfold State.setPts; split <;> rfl
@[simp] theorem State.setPts_ckAhead (die t : Nat) : (s.setPts die t).ckAhead = s.ckAhead := by unfold State.setPts; split <;> rfl
@[simp] theorem State.setPts_nonce (die t : Nat) : (s.setPts die t).nonce = s.nonce := by unfold State.setPts; split <;> rfl
@[simp] theorem State.setPts_turn (die t : Nat) : (s.setPts die t).turn = s.turn := by unfold State.setPts; split <;> rfl
@[simp] theorem State.setPts_agenda (die t : Nat) : (s.setPts die t).agenda = s.agenda := by unfold State.setPts; split <;> rfl
@[simp] theorem State.setPts_focus (die t : Nat) : (s.setPts die t).focus = s.focus := by unfold State.setPts; split <;> rfl
@[simp] theorem State.setPts_fe (die t : Nat) : (s.setPts die t).fe = s.fe := by unfold State.setPts; split <;> rfl
@[simp] theorem State.setPts_mem_bytes (die t : Nat) : (s.setPts die t).mem.bytes = s.mem.bytes := by unfold State.setPts; split <;> rfl
@[simp] theorem State.setPts_mem_undef (die t : Nat) : (s.setPts die t).mem.undef = s.mem.undef := by unfold State.setPts; split <;> rfl
@[simp] theorem State.setPts_mem_veil (die t : Nat) : (s.setPts die t).mem.veil = s.mem.veil := by unfold State.setPts; split <;> rfl
@[simp] theorem State.setPts_mem_consts (die t : Nat) : (s.setPts die t).mem.consts = s.mem.consts := by unfold State.setPts; split <;> rfl
@[simp] theorem State.setPts_mem_fab (die t : Nat) : (s.setPts die t).mem.fab = s.mem.fab := by unfold State.setPts; split <;> rfl
@[simp] theorem State.setPts_mem_die (die t : Nat) : (s.setPts die t).mem.die = s.mem.die := by unfold State.setPts; split <;> rfl
@[simp] theorem State.setPts_mem_home (die t : Nat) : (s.setPts die t).mem.home = s.mem.home := by unfold State.setPts; split <;> rfl
@[simp] theorem State.setPts_mem_reqs (die t : Nat) : (s.setPts die t).mem.reqs = s.mem.reqs := by unfold State.setPts; split <;> rfl
@[simp] theorem State.setPts_mem_tables (die t : Nat) : (s.setPts die t).mem.tables = s.mem.tables := by unfold State.setPts; split <;> rfl
@[simp] theorem State.setPts_mem_ranges (die t : Nat) : (s.setPts die t).mem.ranges = s.mem.ranges := by unfold State.setPts; split <;> rfl
@[simp] theorem State.setPts_mem_windows (die t : Nat) : (s.setPts die t).mem.windows = s.mem.windows := by unfold State.setPts; split <;> rfl
@[simp] theorem State.setPts_mem_ranging (die t : Nat) : (s.setPts die t).mem.ranging = s.mem.ranging := by unfold State.setPts; split <;> rfl
@[simp] theorem State.setPts_mem_aged (die t : Nat) : (s.setPts die t).mem.aged = s.mem.aged := by unfold State.setPts; split <;> rfl
@[simp] theorem State.setPts_mem_poisoned (die t : Nat) : (s.setPts die t).mem.poisoned = s.mem.poisoned := by unfold State.setPts; split <;> rfl
@[simp] theorem State.setPts_mem_s2m (die t : Nat) : (s.setPts die t).mem.s2m = s.mem.s2m := by unfold State.setPts; split <;> rfl
@[simp] theorem State.setPts_iso (die t : Nat) : (s.setPts die t).iso = s.iso := by unfold State.setPts; split <;> rfl
@[simp] theorem State.setPts_alm (die t : Nat) : (s.setPts die t).alm = s.alm := by unfold State.setPts; split <;> rfl
@[simp] theorem State.setPts_eng (die t : Nat) : (s.setPts die t).eng = s.eng := by unfold State.setPts; split <;> rfl
@[simp] theorem State.setPts_mx (die t : Nat) : (s.setPts die t).mx = s.mx := by unfold State.setPts; split <;> rfl
@[simp] theorem State.setPts_grid (die t : Nat) : (s.setPts die t).grid = s.grid := by unfold State.setPts; split <;> rfl
@[simp] theorem State.setPts_saved (die t : Nat) : (s.setPts die t).saved = s.saved := by unfold State.setPts; split <;> rfl
@[simp] theorem State.setPts_links (die t : Nat) : (s.setPts die t).links = s.links := by unfold State.setPts; split <;> rfl
@[simp] theorem State.setPts_boot (die t : Nat) : (s.setPts die t).boot = s.boot := by unfold State.setPts; split <;> rfl
@[simp] theorem State.setPts_irqs (die t : Nat) : (s.setPts die t).irqs = s.irqs := by unfold State.setPts; split <;> rfl

@[simp] theorem State.joinAll_now (core ctx : Nat) : (s.joinAll core ctx).now = s.now := by simp [State.joinAll, State.catchUp]
@[simp] theorem State.joinAll_calAhead (core ctx : Nat) : (s.joinAll core ctx).calAhead = s.calAhead := by simp [State.joinAll, State.catchUp]
@[simp] theorem State.joinAll_ckAhead (core ctx : Nat) : (s.joinAll core ctx).ckAhead = s.ckAhead := by simp [State.joinAll, State.catchUp]
@[simp] theorem State.joinAll_nonce (core ctx : Nat) : (s.joinAll core ctx).nonce = s.nonce := by simp [State.joinAll, State.catchUp]
@[simp] theorem State.joinAll_turn (core ctx : Nat) : (s.joinAll core ctx).turn = s.turn := by simp [State.joinAll, State.catchUp]
@[simp] theorem State.joinAll_agenda (core ctx : Nat) : (s.joinAll core ctx).agenda = s.agenda := by simp [State.joinAll, State.catchUp]
@[simp] theorem State.joinAll_focus (core ctx : Nat) : (s.joinAll core ctx).focus = s.focus := by simp [State.joinAll, State.catchUp]
@[simp] theorem State.joinAll_fe (core ctx : Nat) : (s.joinAll core ctx).fe = s.fe := by simp [State.joinAll, State.catchUp]
@[simp] theorem State.joinAll_mem_bytes (core ctx : Nat) : (s.joinAll core ctx).mem.bytes = s.mem.bytes := by simp [State.joinAll, State.catchUp]
@[simp] theorem State.joinAll_mem_undef (core ctx : Nat) : (s.joinAll core ctx).mem.undef = s.mem.undef := by simp [State.joinAll, State.catchUp]
@[simp] theorem State.joinAll_mem_veil (core ctx : Nat) : (s.joinAll core ctx).mem.veil = s.mem.veil := by simp [State.joinAll, State.catchUp]
@[simp] theorem State.joinAll_mem_consts (core ctx : Nat) : (s.joinAll core ctx).mem.consts = s.mem.consts := by simp [State.joinAll, State.catchUp]
@[simp] theorem State.joinAll_mem_die (core ctx : Nat) : (s.joinAll core ctx).mem.die = s.mem.die := by simp [State.joinAll, State.catchUp]
@[simp] theorem State.joinAll_mem_home (core ctx : Nat) : (s.joinAll core ctx).mem.home = s.mem.home := by simp [State.joinAll, State.catchUp]
@[simp] theorem State.joinAll_mem_reqs (core ctx : Nat) : (s.joinAll core ctx).mem.reqs = s.mem.reqs := by simp [State.joinAll, State.catchUp]
@[simp] theorem State.joinAll_mem_tables (core ctx : Nat) : (s.joinAll core ctx).mem.tables = s.mem.tables := by simp [State.joinAll, State.catchUp]
@[simp] theorem State.joinAll_mem_ranges (core ctx : Nat) : (s.joinAll core ctx).mem.ranges = s.mem.ranges := by simp [State.joinAll, State.catchUp]
@[simp] theorem State.joinAll_mem_windows (core ctx : Nat) : (s.joinAll core ctx).mem.windows = s.mem.windows := by simp [State.joinAll, State.catchUp]
@[simp] theorem State.joinAll_mem_ranging (core ctx : Nat) : (s.joinAll core ctx).mem.ranging = s.mem.ranging := by simp [State.joinAll, State.catchUp]
@[simp] theorem State.joinAll_mem_aged (core ctx : Nat) : (s.joinAll core ctx).mem.aged = s.mem.aged := by simp [State.joinAll, State.catchUp]
@[simp] theorem State.joinAll_mem_poisoned (core ctx : Nat) : (s.joinAll core ctx).mem.poisoned = s.mem.poisoned := by simp [State.joinAll, State.catchUp]
@[simp] theorem State.joinAll_mem_s2m (core ctx : Nat) : (s.joinAll core ctx).mem.s2m = s.mem.s2m := by simp [State.joinAll, State.catchUp]
@[simp] theorem State.joinAll_iso (core ctx : Nat) : (s.joinAll core ctx).iso = s.iso := by simp [State.joinAll, State.catchUp]
@[simp] theorem State.joinAll_alm (core ctx : Nat) : (s.joinAll core ctx).alm = s.alm := by simp [State.joinAll, State.catchUp]
@[simp] theorem State.joinAll_eng (core ctx : Nat) : (s.joinAll core ctx).eng = s.eng := by simp [State.joinAll, State.catchUp]
@[simp] theorem State.joinAll_mx (core ctx : Nat) : (s.joinAll core ctx).mx = s.mx := by simp [State.joinAll, State.catchUp]
@[simp] theorem State.joinAll_grid (core ctx : Nat) : (s.joinAll core ctx).grid = s.grid := by simp [State.joinAll, State.catchUp]
@[simp] theorem State.joinAll_saved (core ctx : Nat) : (s.joinAll core ctx).saved = s.saved := by simp [State.joinAll, State.catchUp]
@[simp] theorem State.joinAll_links (core ctx : Nat) : (s.joinAll core ctx).links = s.links := by simp [State.joinAll, State.catchUp]
@[simp] theorem State.joinAll_boot (core ctx : Nat) : (s.joinAll core ctx).boot = s.boot := by simp [State.joinAll, State.catchUp]
@[simp] theorem State.joinAll_irqs (core ctx : Nat) : (s.joinAll core ctx).irqs = s.irqs := by simp [State.joinAll, State.catchUp]

@[simp] theorem State.keepXlat_now (x : Xlat) : (s.keepXlat x).now = s.now := by unfold State.keepXlat; split <;> rfl
@[simp] theorem State.keepXlat_calAhead (x : Xlat) : (s.keepXlat x).calAhead = s.calAhead := by unfold State.keepXlat; split <;> rfl
@[simp] theorem State.keepXlat_ckAhead (x : Xlat) : (s.keepXlat x).ckAhead = s.ckAhead := by unfold State.keepXlat; split <;> rfl
@[simp] theorem State.keepXlat_nonce (x : Xlat) : (s.keepXlat x).nonce = s.nonce := by unfold State.keepXlat; split <;> rfl
@[simp] theorem State.keepXlat_turn (x : Xlat) : (s.keepXlat x).turn = s.turn := by unfold State.keepXlat; split <;> rfl
@[simp] theorem State.keepXlat_agenda (x : Xlat) : (s.keepXlat x).agenda = s.agenda := by unfold State.keepXlat; split <;> rfl
@[simp] theorem State.keepXlat_focus (x : Xlat) : (s.keepXlat x).focus = s.focus := by unfold State.keepXlat; split <;> rfl
@[simp] theorem State.keepXlat_fe (x : Xlat) : (s.keepXlat x).fe = s.fe := by unfold State.keepXlat; split <;> rfl
@[simp] theorem State.keepXlat_mem (x : Xlat) : (s.keepXlat x).mem = s.mem := by unfold State.keepXlat; split <;> rfl
@[simp] theorem State.keepXlat_iso_ctxs (x : Xlat) : (s.keepXlat x).iso.ctxs = s.iso.ctxs := by unfold State.keepXlat; split <;> rfl
@[simp] theorem State.keepXlat_iso_tenants (x : Xlat) : (s.keepXlat x).iso.tenants = s.iso.tenants := by unfold State.keepXlat; split <;> rfl
@[simp] theorem State.keepXlat_iso_ctxtab (x : Xlat) : (s.keepXlat x).iso.ctxtab = s.iso.ctxtab := by unfold State.keepXlat; split <;> rfl
@[simp] theorem State.keepXlat_iso_tentab (x : Xlat) : (s.keepXlat x).iso.tentab = s.iso.tentab := by unfold State.keepXlat; split <;> rfl
@[simp] theorem State.keepXlat_iso_qtab (x : Xlat) : (s.keepXlat x).iso.qtab = s.iso.qtab := by unfold State.keepXlat; split <;> rfl
@[simp] theorem State.keepXlat_iso_cmdst (x : Xlat) : (s.keepXlat x).iso.cmdst = s.iso.cmdst := by unfold State.keepXlat; split <;> rfl
@[simp] theorem State.keepXlat_iso_invs (x : Xlat) : (s.keepXlat x).iso.invs = s.iso.invs := by unfold State.keepXlat; split <;> rfl
@[simp] theorem State.keepXlat_iso_rings (x : Xlat) : (s.keepXlat x).iso.rings = s.iso.rings := by unfold State.keepXlat; split <;> rfl
@[simp] theorem State.keepXlat_iso_perf (x : Xlat) : (s.keepXlat x).iso.perf = s.iso.perf := by unfold State.keepXlat; split <;> rfl
@[simp] theorem State.keepXlat_alm (x : Xlat) : (s.keepXlat x).alm = s.alm := by unfold State.keepXlat; split <;> rfl
@[simp] theorem State.keepXlat_eng (x : Xlat) : (s.keepXlat x).eng = s.eng := by unfold State.keepXlat; split <;> rfl
@[simp] theorem State.keepXlat_mx (x : Xlat) : (s.keepXlat x).mx = s.mx := by unfold State.keepXlat; split <;> rfl
@[simp] theorem State.keepXlat_grid (x : Xlat) : (s.keepXlat x).grid = s.grid := by unfold State.keepXlat; split <;> rfl
@[simp] theorem State.keepXlat_saved (x : Xlat) : (s.keepXlat x).saved = s.saved := by unfold State.keepXlat; split <;> rfl
@[simp] theorem State.keepXlat_links (x : Xlat) : (s.keepXlat x).links = s.links := by unfold State.keepXlat; split <;> rfl
@[simp] theorem State.keepXlat_boot (x : Xlat) : (s.keepXlat x).boot = s.boot := by unfold State.keepXlat; split <;> rfl
@[simp] theorem State.keepXlat_irqs (x : Xlat) : (s.keepXlat x).irqs = s.irqs := by unfold State.keepXlat; split <;> rfl

end Sys2Proof.Machine
end

