-- ==== Sys2Proof/Laws/Operations.lean ====
section
/-!
SUPPORT. Laws/Operations.lean: one lemma for each shared operation over registers, operands, waits and traps, saying what it can do, for proofs to
cite instead of unfolding it.
-/
namespace Sys2Proof.Machine

-- Warps by name ------------------------------------------------------------------------------------------------------------------------------

theorem find?_mapFirst {α : Type} (p q : α → Bool) (f : α → α) (l : List α) (hp : ∀ x, p x = true → q (f x) = q x) (hd : ∀ x, p x = true → q x = false) :
    (mapFirst p f l).find? q = l.find? q := by
  induction l with
  | nil => rfl
  | cons x t ih =>
    simp only [mapFirst]
    split
    · rename_i h
      simp [hp x h, hd x h]
    · simp only [List.find?_cons]
      split
      · rfl
      · exact ih

theorem find?_mapFirst_same {α : Type} (p : α → Bool) (f : α → α) (l : List α) (hp : ∀ x, p x = true → p (f x) = true) :
    (mapFirst p f l).find? p = (l.find? p).map f := by
  induction l with
  | nil => rfl
  | cons x t ih =>
    simp only [mapFirst]
    split
    · rename_i h
      simp [h, hp x h]
    · rename_i h
      simp only [List.find?_cons, h]
      exact ih

/-- The warp that has been put back is found again where one stood. -/
theorem State.warp?_setWarp_same {s : State} {w w0 : Warp} (h : s.warp? w.core w.slot = some w0) : (s.setWarp w).warp? w.core w.slot = some w := by
  unfold State.warp? State.setWarp at *
  simp only
  rw [find?_mapFirst_same _ _ _ (by intro x _; simp), h]
  rfl

/-- Another warp is as it was. -/
theorem State.warp?_setWarp_other (s : State) (w : Warp) {core slot : Nat} (h : (core, slot) ≠ (w.core, w.slot)) :
    (s.setWarp w).warp? core slot = s.warp? core slot := by
  unfold State.warp? State.setWarp
  refine find?_mapFirst _ _ _ _ (fun x hx => ?_) (fun x hx => ?_)
  · simp only [Bool.and_eq_true, beq_iff_eq] at hx; simp [hx.1, hx.2]
  · simp only [Bool.and_eq_true, beq_iff_eq] at hx
    rw [← Bool.not_eq_true]
    intro hc
    simp only [Bool.and_eq_true, beq_iff_eq] at hc
    exact h (by rw [← hc.1, ← hc.2, hx.1, hx.2])

/-- A warp that is found stands where it is asked for. -/
theorem State.warp?_place {s : State} {core slot : Nat} {w : Warp} (h : s.warp? core slot = some w) : w.core = core ∧ w.slot = slot := by
  have := List.find?_some h
  simpa using this

-- Masks and registers ------------------------------------------------------------------------------------------------------------------------

theorem mem_lanesOf (m : LaneMask) (l : Nat) : l ∈ lanesOf m ↔ l < 32 ∧ m.getLsbD l = true := by simp [lanesOf]

theorem foldl_or_bit (ls : List Nat) (m : LaneMask) (l : Nat) (hl : l < 32) :
    (ls.foldl (fun m l => m ||| ((1#32) <<< l)) m).getLsbD l = (m.getLsbD l || decide (l ∈ ls)) := by
  induction ls generalizing m with
  | nil => simp
  | cons x t ih =>
    rw [List.foldl_cons, ih]
    simp only [BitVec.getLsbD_or, BitVec.getLsbD_shiftLeft, List.mem_cons]
    by_cases h : l = x
    · subst h; simp [hl]
    · by_cases h2 : l < x
      · simp [h, h2]
      · simp [h, h2, hl, show ¬ (l - x = 0) by omega]

/-- A lane is in the mask of a list exactly if the list has it. -/
theorem getLsbD_maskOf (ls : List Nat) (l : Nat) (hl : l < 32) : (maskOf ls).getLsbD l = decide (l ∈ ls) := by
  unfold maskOf
  rw [foldl_or_bit _ _ _ hl]; show (BitVec.getLsbD 0#32 l || _) = _; rw [BitVec.getLsbD_zero, Bool.false_or]

theorem smGet_foldl_lanes (ls : List Nat) (rs : SMap 32) (r : Nat) (v : Nat → Word) (a : Nat) (hl : ∀ x ∈ ls, x < 32) (hn : ls.Nodup) :
    smGet (ls.foldl (fun rs l => smSet rs (32 * r + l) (v l)) rs) a
      = if a / 32 = r ∧ a % 32 ∈ ls then v (a % 32) else smGet rs a := by
  induction ls generalizing rs with
  | nil => simp
  | cons x t ih =>
    have hx := hl x (by simp)
    rw [List.nodup_cons] at hn
    rw [List.foldl_cons, ih _ (fun y hy => hl y (by simp [hy])) hn.2, smGet_set]
    by_cases hc : a / 32 = r ∧ a % 32 ∈ t
    · rw [if_pos hc, if_pos ⟨hc.1, by simp [hc.2]⟩]
    · rw [if_neg hc]
      by_cases ha : a = 32 * r + x
      · rw [if_pos ha, if_pos ⟨by omega, by rw [show a % 32 = x by omega]; simp⟩, show a % 32 = x by omega]
      · rw [if_neg ha, if_neg]
        rintro ⟨h1, h2⟩
        rw [List.mem_cons] at h2
        rcases h2 with h2 | h2
        · omega
        · exact hc ⟨h1, h2⟩

/-- A register write changes its register in the lanes of its mask, and nothing else. -/
theorem Warp.reg_setReg (w : Warp) (m : LaneMask) (r : Nat) (v : Nat → Word) (l r' : Nat) (hl : l < 32) :
    (w.setReg m r v).reg l r' = if r' = r ∧ m.getLsbD l = true then v l else w.reg l r' := by
  unfold Warp.reg Warp.setReg
  show smGet ((lanesOf m).foldl _ w.regs) _ = _
  rw [smGet_foldl_lanes _ _ _ _ _ (fun x hx => ((mem_lanesOf m x).1 hx).1) (List.Pairwise.filter _ List.nodup_range)]
  rw [show (32 * r' + l) / 32 = r' by omega, show (32 * r' + l) % 32 = l by omega]
  simp only [mem_lanesOf, hl, true_and]

/-- A pair write changes its two registers in the lanes of its mask, low word in the even one, and nothing else. -/
theorem Warp.reg_setPair (w : Warp) (m : LaneMask) (r : Nat) (v : Nat → DWord) (l r' : Nat) (hl : l < 32) :
    (w.setPair m r v).reg l r'
      = if r' = r + 1 ∧ m.getLsbD l = true then (v l).extractLsb' 32 32
        else if r' = r ∧ m.getLsbD l = true then (v l).extractLsb' 0 32 else w.reg l r' := by
  unfold Warp.setPair
  rw [Warp.reg_setReg _ _ _ _ _ _ hl, Warp.reg_setReg _ _ _ _ _ _ hl]

/-- A predicate write changes its predicate in the lanes of its mask; pt stays true. -/
theorem Warp.pred_setPred (w : Warp) (m : LaneMask) (p : Nat) (v : Nat → Bool) (l p' : Nat) (hl : l < 32) :
    (w.setPred m p v).pred l p' = if p' = p ∧ p ≠ 7 ∧ m.getLsbD l = true then v l else w.pred l p' := by
  unfold Warp.pred Warp.setPred
  by_cases hp : p = 7
  · subst hp; simp
  · rw [if_neg hp]
    simp only [smGet_set]
    by_cases hq : p' = p
    · subst hq
      have h7 : (p' == 7) = false := by simpa using hp
      simp only [h7, Bool.false_or, if_true, BitVec.getLsbD_or, BitVec.getLsbD_and, BitVec.getLsbD_not, hl, decide_true, Bool.true_and,
        getLsbD_maskOf _ _ hl, List.mem_filter, mem_lanesOf, true_and]
      by_cases hm : m.getLsbD l = true
      · simp [hm, hp]
      · simp [hm]
    · simp [hq]

/-- The registers of a warp are in canonical form after a write if they were before. -/
theorem Warp.regs_setReg_wf {w : Warp} (h : smWf w.regs = true) (m : LaneMask) (r : Nat) (v : Nat → Word) : smWf (w.setReg m r v).regs = true :=
  smWf_foldl _ _ (fun _ _ hm => smWf_set hm _ _) h

-- Active() and the drivers -------------------------------------------------------------------------------------------------------------------

/-- A lane is in Active() exactly if it is in the bundle and its guard holds (03 R54). -/
theorem mem_activeLanes (f : Focus) (w : Warp) (g : Guard) (l : Nat) (hl : l < 32) :
    (activeLanes f w g).getLsbD l = (f.lanes.getLsbD l && guardHolds w g l) := by
  unfold activeLanes
  rw [getLsbD_maskOf _ _ hl]
  simp [List.mem_filter, mem_lanesOf, hl]

/-- With a bundle in focus whose warp is there, a form acts on them. -/
theorem withFocus_at {s : State} {f : Focus} {w : Warp} (h : s.At f w) (k : Focus → Warp → State) : withFocus s k = k f w := by
  unfold withFocus
  rw [h.1]
  simp only [h.2]

/-- With no bundle in focus nothing happens. -/
theorem withFocus_none {s : State} (h : s.focus = none) (k : Focus → Warp → State) : withFocus s k = s := by
  unfold withFocus; rw [h]

/-- With no lane in Active() nothing happens (03 R54). -/
theorem withSources_idle {s : State} {f : Focus} {w : Warp} {o : Operands} (h : s.At f w) (ha : activeLanes f w o.guard = 0)
    (k : Focus → Warp → LaneMask → State → State) : withSources o k s = s := by
  unfold withSources
  rw [withFocus_at h]
  simp [ha]

/-- An element without failing words faults nothing (09 R250). -/
theorem State.portFault_none (s : State) {f : Focus} {errs : List LaneErr} (h : errs.isEmpty = true) : s.portFault f errs = s := by
  cases errs <;> simp_all [State.portFault]

/-- Where an instruction has something to work on, its meaning is applied to that (03 R53, R54). -/
theorem withSources_work {s : State} {o : Operands} {k : Work} (h : s.work o = some k) (g : Focus → Warp → LaneMask → State → State) :
    withSources o g s = g k.f k.w k.act k.s := by
  unfold State.work at h
  split at h
  · cases h
  · rename_i f hf
    split at h
    · cases h
    · rename_i w hw
      unfold withSources
      rw [withFocus_at ⟨hf, hw⟩]
      simp only at h ⊢
      split at h
      · cases h
      · rename_i ha
        rw [if_neg ha]
        split at h
        · rename_i hq
          rw [if_pos hq]
          split at h
          · rename_i f1 w1 hp
            rw [hp]
            split at h
            · rename_i he
              cases h
              exact State.portFault_none _ he
            · cases h
          · cases h
        · rename_i hq
          rw [if_neg hq]
          cases h
          rfl

theorem lane32_work {s : State} {o : Operands} {k : Work} (h : s.work o = some k) (v : State → Focus → Warp → Nat → Word) :
    lane32 o v s = k.put32 o (v k.s k.f k.w) := withSources_work h _

theorem lane64_work {s : State} {o : Operands} {k : Work} (h : s.work o = some k) (v : State → Focus → Warp → Nat → DWord) :
    lane64 o v s = k.put64 o (v k.s k.f k.w) := withSources_work h _

theorem laneP_work {s : State} {o : Operands} {k : Work} (h : s.work o = some k) (v : State → Focus → Warp → Nat → Bool) :
    laneP o v s = k.putP o (v k.s k.f k.w) := withSources_work h _

-- Waiting, and traps -------------------------------------------------------------------------------------------------------------------------

/-- A bundle that has to wait stays at its instruction; no byte, register or unit of the module changes. -/
theorem State.retry_units (s : State) (f : Focus) (w : Warp) (x : Wait) :
    (s.retry f w x).mem = s.mem ∧ (s.retry f w x).iso = s.iso ∧ (s.retry f w x).alm = s.alm ∧ (s.retry f w x).eng = s.eng ∧
      (s.retry f w x).mx = s.mx ∧ (s.retry f w x).links = s.links ∧ (s.retry f w x).fe.wgs = s.fe.wgs ∧ (s.retry f w x).fe.llops = s.fe.llops := by
  unfold State.retry
  split <;> exact ⟨rfl, rfl, rfl, rfl, rfl, rfl, rfl, rfl⟩

/-- Lanes held after their instruction: no byte and no unit of the module changes. -/
theorem State.hold_units (s : State) (f : Focus) (w : Warp) (m : LaneMask) (x : Nat → Wait) :
    (s.hold f w m x).mem = s.mem ∧ (s.hold f w m x).iso = s.iso ∧ (s.hold f w m x).alm = s.alm ∧ (s.hold f w m x).eng = s.eng ∧
      (s.hold f w m x).mx = s.mx ∧ (s.hold f w m x).links = s.links ∧ (s.hold f w m x).fe.wgs = s.fe.wgs ∧
      (s.hold f w m x).fe.llops = s.fe.llops := by
  unfold State.hold
  split <;> exact ⟨rfl, rfl, rfl, rfl, rfl, rfl, rfl, rfl⟩

/-- A form of group 0xD in supervisor mode has its effect (16 R378). -/
theorem privileged_sup {f : Focus} {w : Warp} (h : w.supIn f = true) (act : LaneMask) (s k : State) : privileged f w act s k = k := by
  unfold privileged; rw [h]; rfl

/-- In user mode it raises PRIVILEGE (16 R378). -/
theorem privileged_user {f : Focus} {w : Warp} (h : w.supIn f = false) (act : LaneMask) (s k : State) :
    privileged f w act s k = s.trapHere f w act { kind := kPrivilege } := by
  unfold privileged; rw [h]; rfl

/-- Outside the grid an exception at the focused instruction is taken by every thread of the bundle (16 R378); a port's element goes back (03 R53). -/
theorem State.trapHere_front {s : State} {f : Focus} (h : f.grid = false) (w : Warp) (act : LaneMask) (x : Exc) :
    s.trapHere f w act x = s.takeTrap (w.unpop f) f.lanes act f.pc f.hdr f.lmid x := by
  unfold State.trapHere; rw [h]; rfl

/-- An instruction that begins as long-latency (03 R62): its flag rises, it stands outstanding, and nothing else changes. -/
theorem State.beginLL_spec (s : State) (f : Focus) (w : Warp) (op : LLOp) :
    (s.beginLL f w op).fe.llops = op :: s.fe.llops ∧ (s.beginLL f w op).fe.wgs = s.fe.wgs ∧
      (s.beginLL f w op).fe.warps = (s.setWarp (w.addFlag op.flag)).fe.warps ∧ (s.beginLL f w op).mem = s.mem ∧
      (s.beginLL f w op).nonce = s.nonce ∧ (s.beginLL f w op).agenda = s.agenda := ⟨rfl, rfl, rfl, rfl, rfl, rfl⟩

/-- A number and a free value are drawn with nothing else changed. -/
theorem State.fresh_spec (s : State) : s.fresh = (s.nonce, { s with nonce := s.nonce + 1 }) := rfl
theorem State.freeWord_spec (s : State) : s.freeWord = (Config.freeWord s.nonce, { s with nonce := s.nonce + 1 }) := rfl

/-- Every step owed stands in the agenda, after those of the same time. -/
theorem mem_insertMove (m x : Move) (l : List Move) : x ∈ insertMove m l ↔ x = m ∨ x ∈ l := by
  induction l with
  | nil => simp [insertMove]
  | cons y t ih =>
    simp only [insertMove]
    split
    · simp only [List.mem_cons, ih]
      constructor
      · rintro (h | h | h) <;> simp [h]
      · rintro (h | h | h) <;> simp [h]
    · simp

/-- No move waits where nothing holds accesses up, and none of a home, a link or the host ever does. -/
theorem State.heldBy_calm {s : State} (h : s.holdsNow = []) (i : Instr) : s.heldBy i = none := by simp [State.heldBy, h]
theorem State.heldBy_still {i : Instr} (h : makesAccesses i = false) (s : State) : s.heldBy i = none := by simp [State.heldBy, h]

/-- A step of the module: after a failed boot it stops, and otherwise it is an instruction or event, taken or made to wait, or the module settles. -/
theorem step_run {s : State} (h : s.boot.bar0 = 0) {i : Instr} {s1 : State} (hm : s.nextMove = .run i s1) (hh : s1.heldBy i = none) :
    step s = exec i s1 := by
  unfold step; rw [if_neg (by simp [h]), hm]; simp only [hh]

theorem step_held {s : State} (h : s.boot.bar0 = 0) {i : Instr} {s1 : State} (hm : s.nextMove = .run i s1) {x : Hold} (hh : s1.heldBy i = some x) :
    step s = .next (s.heldMove s1 i x) := by
  unfold step; rw [if_neg (by simp [h]), hm]; simp only [hh]

theorem step_settle {s : State} (h : s.boot.bar0 = 0) {s1 : State} (hm : s.nextMove = .settle s1) : step s = .next s1 := by
  unfold step; rw [if_neg (by simp [h]), hm]

theorem step_failed {s : State} (h : s.boot.bar0 ≠ 0) : step s = .fault (.bootFailed s.boot.bar0) := by
  unfold step; rw [if_pos h]

end Sys2Proof.Machine
end

