-- ==== Sys2Proof/Laws/PerInstr.lean ====
section
/-!
SUPPORT. Laws/PerInstr.lean: the family Encoding, one lemma per constructor: the opcode and function that the encoder gives an instruction are those
at which the opcode map makes that instruction again, from the same operands and with the same form.
-/
namespace Sys2Proof.Laws.Encoding

/-- What the encoder's opcode and the decoder's opcode map have to agree on for one instruction (03 R67). -/
def Statement (i : Instr) : Prop :=
  ∀ op fn o, i.opcode = some (op, fn) → i.operands = some o →
    op < 256 ∧ fn < 16 ∧ ∃ mk, mkInstr op fn = some mk ∧ mk o = i ∧ (mk zeroOperands).form = i.form ∧ ∀ o', (mk o').isMov = i.isMov

/-- The statement for an instruction whose opcode, operands and map entry are at hand. -/
theorem of_entry {i : Instr} {op fn : Nat} {o : Operands} (mk : Operands → Instr) (h1 : i.opcode = some (op, fn)) (h2 : i.operands = some o)
    (h3 : op < 256) (h4 : fn < 16) (h5 : mkInstr op fn = some mk) (h6 : mk o = i) (h7 : (mk zeroOperands).form = i.form)
    (h8 : ∀ o', (mk o').isMov = i.isMov) : Statement i := by
  intro op' fn' o' a b
  rw [h1] at a; rw [h2] at b
  cases a; cases b
  exact ⟨h3, h4, mk, h5, h6, h7, h8⟩

/-- The statement for an event, or for a row that shares another row's word. -/
theorem of_none {i : Instr} (h : i.opcode = none) : Statement i := by
  intro op fn o a
  rw [h] at a
  cases a

theorem iadd (o : Operands) : Statement (.iadd o) := of_entry .iadd rfl rfl (by decide) (by decide) rfl rfl rfl fun _ => rfl
theorem isub (o : Operands) : Statement (.isub o) := of_entry .isub rfl rfl (by decide) (by decide) rfl rfl rfl fun _ => rfl
theorem iadd3 (o : Operands) : Statement (.iadd3 o) := of_entry .iadd3 rfl rfl (by decide) (by decide) rfl rfl rfl fun _ => rfl
theorem imul (o : Operands) : Statement (.imul o) := of_entry .imul rfl rfl (by decide) (by decide) rfl rfl rfl fun _ => rfl
theorem imulhi (o : Operands) : Statement (.imulhi o) := of_entry .imulhi rfl rfl (by decide) (by decide) rfl rfl rfl fun _ => rfl
theorem imad (o : Operands) : Statement (.imad o) := of_entry .imad rfl rfl (by decide) (by decide) rfl rfl rfl fun _ => rfl
theorem iabs (o : Operands) : Statement (.iabs o) := of_entry .iabs rfl rfl (by decide) (by decide) rfl rfl rfl fun _ => rfl
theorem ineg (o : Operands) : Statement (.ineg o) := of_entry .ineg rfl rfl (by decide) (by decide) rfl rfl rfl fun _ => rfl
theorem imin (o : Operands) : Statement (.imin o) := of_entry .imin rfl rfl (by decide) (by decide) rfl rfl rfl fun _ => rfl
theorem imax (o : Operands) : Statement (.imax o) := of_entry .imax rfl rfl (by decide) (by decide) rfl rfl rfl fun _ => rfl
theorem iaddc (o : Operands) : Statement (.iaddc o) := of_entry .iaddc rfl rfl (by decide) (by decide) rfl rfl rfl fun _ => rfl
theorem isubb (o : Operands) : Statement (.isubb o) := of_entry .isubb rfl rfl (by decide) (by decide) rfl rfl rfl fun _ => rfl
theorem isad (o : Operands) : Statement (.isad o) := of_entry .isad rfl rfl (by decide) (by decide) rfl rfl rfl fun _ => rfl
theorem lea (o : Operands) : Statement (.lea o) := of_entry .lea rfl rfl (by decide) (by decide) rfl rfl rfl fun _ => rfl
theorem leaHi (o : Operands) : Statement (.leaHi o) := of_entry .leaHi rfl rfl (by decide) (by decide) rfl rfl rfl fun _ => rfl
theorem andB (o : Operands) : Statement (.andB o) := of_entry .andB rfl rfl (by decide) (by decide) rfl rfl rfl fun _ => rfl
theorem orB (o : Operands) : Statement (.orB o) := of_entry .orB rfl rfl (by decide) (by decide) rfl rfl rfl fun _ => rfl
theorem xorB (o : Operands) : Statement (.xorB o) := of_entry .xorB rfl rfl (by decide) (by decide) rfl rfl rfl fun _ => rfl
theorem notB (o : Operands) : Statement (.notB o) := of_entry .notB rfl rfl (by decide) (by decide) rfl rfl rfl fun _ => rfl
theorem tern (o : Operands) : Statement (.tern o) := of_entry .tern rfl rfl (by decide) (by decide) rfl rfl rfl fun _ => rfl
theorem shl (o : Operands) : Statement (.shl o) := of_entry .shl rfl rfl (by decide) (by decide) rfl rfl rfl fun _ => rfl
theorem shr (o : Operands) : Statement (.shr o) := of_entry .shr rfl rfl (by decide) (by decide) rfl rfl rfl fun _ => rfl
theorem sar (o : Operands) : Statement (.sar o) := of_entry .sar rfl rfl (by decide) (by decide) rfl rfl rfl fun _ => rfl
theorem rotl (o : Operands) : Statement (.rotl o) := of_entry .rotl rfl rfl (by decide) (by decide) rfl rfl rfl fun _ => rfl
theorem fshl (o : Operands) : Statement (.fshl o) := of_entry .fshl rfl rfl (by decide) (by decide) rfl rfl rfl fun _ => rfl
theorem bfe (o : Operands) : Statement (.bfe o) := of_entry .bfe rfl rfl (by decide) (by decide) rfl rfl rfl fun _ => rfl
theorem bfi (o : Operands) : Statement (.bfi o) := of_entry .bfi rfl rfl (by decide) (by decide) rfl rfl rfl fun _ => rfl
theorem popc (o : Operands) : Statement (.popc o) := of_entry .popc rfl rfl (by decide) (by decide) rfl rfl rfl fun _ => rfl
theorem clz (o : Operands) : Statement (.clz o) := of_entry .clz rfl rfl (by decide) (by decide) rfl rfl rfl fun _ => rfl
theorem ctz (o : Operands) : Statement (.ctz o) := of_entry .ctz rfl rfl (by decide) (by decide) rfl rfl rfl fun _ => rfl
theorem brev (o : Operands) : Statement (.brev o) := of_entry .brev rfl rfl (by decide) (by decide) rfl rfl rfl fun _ => rfl
theorem bperm (o : Operands) : Statement (.bperm o) := of_entry .bperm rfl rfl (by decide) (by decide) rfl rfl rfl fun _ => rfl
theorem icmp (op : CmpOp) (o : Operands) : Statement (.icmp op o) := by
  cases op <;> exact of_entry (.icmp _) rfl rfl (by decide) (by decide) rfl rfl rfl fun _ => rfl
theorem sel (o : Operands) : Statement (.sel o) := of_entry .sel rfl rfl (by decide) (by decide) rfl rfl rfl fun _ => rfl
theorem mov (o : Operands) : Statement (.mov o) := of_entry .mov rfl rfl (by decide) (by decide) rfl rfl rfl fun _ => rfl
theorem movi (o : Operands) : Statement (.movi o) := of_entry .movi rfl rfl (by decide) (by decide) rfl rfl rfl fun _ => rfl
theorem movk (o : Operands) : Statement (.movk o) := of_entry .movk rfl rfl (by decide) (by decide) rfl rfl rfl fun _ => rfl
theorem psetp (op : PsetOp) (o : Operands) : Statement (.psetp op o) := by
  cases op <;> exact of_entry (.psetp _) rfl rfl (by decide) (by decide) rfl rfl rfl fun _ => rfl
theorem p2v (o : Operands) : Statement (.p2v o) := of_entry .p2v rfl rfl (by decide) (by decide) rfl rfl rfl fun _ => rfl
theorem v2p (o : Operands) : Statement (.v2p o) := of_entry .v2p rfl rfl (by decide) (by decide) rfl rfl rfl fun _ => rfl
theorem srd (o : Operands) : Statement (.srd o) := of_entry .srd rfl rfl (by decide) (by decide) rfl rfl rfl fun _ => rfl
theorem cvti (o : Operands) : Statement (.cvti o) := of_entry .cvti rfl rfl (by decide) (by decide) rfl rfl rfl fun _ => rfl
theorem pack (o : Operands) : Statement (.pack o) := of_entry .pack rfl rfl (by decide) (by decide) rfl rfl rfl fun _ => rfl
theorem unpack (o : Operands) : Statement (.unpack o) := of_entry .unpack rfl rfl (by decide) (by decide) rfl rfl rfl fun _ => rfl
theorem fadd (o : Operands) : Statement (.fadd o) := of_entry .fadd rfl rfl (by decide) (by decide) rfl rfl rfl fun _ => rfl
theorem fsub (o : Operands) : Statement (.fsub o) := of_entry .fsub rfl rfl (by decide) (by decide) rfl rfl rfl fun _ => rfl
theorem fmul (o : Operands) : Statement (.fmul o) := of_entry .fmul rfl rfl (by decide) (by decide) rfl rfl rfl fun _ => rfl
theorem ffma (o : Operands) : Statement (.ffma o) := of_entry .ffma rfl rfl (by decide) (by decide) rfl rfl rfl fun _ => rfl
theorem fmin (o : Operands) : Statement (.fmin o) := of_entry .fmin rfl rfl (by decide) (by decide) rfl rfl rfl fun _ => rfl
theorem fmax (o : Operands) : Statement (.fmax o) := of_entry .fmax rfl rfl (by decide) (by decide) rfl rfl rfl fun _ => rfl
theorem fcmp (op : FcmpOp) (o : Operands) : Statement (.fcmp op o) := by
  cases op <;> exact of_entry (.fcmp _) rfl rfl (by decide) (by decide) rfl rfl rfl fun _ => rfl
theorem fclass (o : Operands) : Statement (.fclass o) := of_entry .fclass rfl rfl (by decide) (by decide) rfl rfl rfl fun _ => rfl
theorem hadd2 (o : Operands) : Statement (.hadd2 o) := of_entry .hadd2 rfl rfl (by decide) (by decide) rfl rfl rfl fun _ => rfl
theorem hmul2 (o : Operands) : Statement (.hmul2 o) := of_entry .hmul2 rfl rfl (by decide) (by decide) rfl rfl rfl fun _ => rfl
theorem hfma2 (o : Operands) : Statement (.hfma2 o) := of_entry .hfma2 rfl rfl (by decide) (by decide) rfl rfl rfl fun _ => rfl
theorem hmin2 (o : Operands) : Statement (.hmin2 o) := of_entry .hmin2 rfl rfl (by decide) (by decide) rfl rfl rfl fun _ => rfl
theorem hmax2 (o : Operands) : Statement (.hmax2 o) := of_entry .hmax2 rfl rfl (by decide) (by decide) rfl rfl rfl fun _ => rfl
theorem fdot2 (o : Operands) : Statement (.fdot2 o) := of_entry .fdot2 rfl rfl (by decide) (by decide) rfl rfl rfl fun _ => rfl
theorem frcp (o : Operands) : Statement (.frcp o) := of_entry .frcp rfl rfl (by decide) (by decide) rfl rfl rfl fun _ => rfl
theorem frsq (o : Operands) : Statement (.frsq o) := of_entry .frsq rfl rfl (by decide) (by decide) rfl rfl rfl fun _ => rfl
theorem fsqrt (o : Operands) : Statement (.fsqrt o) := of_entry .fsqrt rfl rfl (by decide) (by decide) rfl rfl rfl fun _ => rfl
theorem fexp2 (o : Operands) : Statement (.fexp2 o) := of_entry .fexp2 rfl rfl (by decide) (by decide) rfl rfl rfl fun _ => rfl
theorem flog2 (o : Operands) : Statement (.flog2 o) := of_entry .flog2 rfl rfl (by decide) (by decide) rfl rfl rfl fun _ => rfl
theorem fsin (o : Operands) : Statement (.fsin o) := of_entry .fsin rfl rfl (by decide) (by decide) rfl rfl rfl fun _ => rfl
theorem fcos (o : Operands) : Statement (.fcos o) := of_entry .fcos rfl rfl (by decide) (by decide) rfl rfl rfl fun _ => rfl
theorem ftanh (o : Operands) : Statement (.ftanh o) := of_entry .ftanh rfl rfl (by decide) (by decide) rfl rfl rfl fun _ => rfl
theorem cvt (o : Operands) : Statement (.cvt o) := of_entry .cvt rfl rfl (by decide) (by decide) rfl rfl rfl fun _ => rfl
theorem cvtBlkTo (o : Operands) : Statement (.cvtBlkTo o) := of_entry .cvtBlkTo rfl rfl (by decide) (by decide) rfl rfl rfl fun _ => rfl
theorem cvtBlkFrom (o : Operands) : Statement (.cvtBlkFrom o) := of_entry .cvtBlkFrom rfl rfl (by decide) (by decide) rfl rfl rfl fun _ => rfl
theorem xlane (op : XlaneOp) (o : Operands) : Statement (.xlane op o) := by
  cases op <;> exact of_entry (.xlane _) rfl rfl (by decide) (by decide) rfl rfl rfl fun _ => rfl
theorem vote (op : VoteOp) (o : Operands) : Statement (.vote op o) := by
  cases op <;> exact of_entry (.vote _) rfl rfl (by decide) (by decide) rfl rfl rfl fun _ => rfl
theorem voteBallot (o : Operands) : Statement (.voteBallot o) := of_entry .voteBallot rfl rfl (by decide) (by decide) rfl rfl rfl fun _ => rfl
theorem matchLanes (op : MatchOp) (o : Operands) : Statement (.matchLanes op o) := by
  cases op <;> exact of_entry (.matchLanes _) rfl rfl (by decide) (by decide) rfl rfl rfl fun _ => rfl
theorem redux (op : ReduxOp) (o : Operands) : Statement (.redux op o) := by
  cases op <;> exact of_entry (.redux _) rfl rfl (by decide) (by decide) rfl rfl rfl fun _ => rfl
theorem fredux (op : FreduxOp) (o : Operands) : Statement (.fredux op o) := by
  cases op <;> exact of_entry (.fredux _) rfl rfl (by decide) (by decide) rfl rfl rfl fun _ => rfl
theorem scan (op : ScanOp) (o : Operands) : Statement (.scan op o) := by
  cases op <;> exact of_entry (.scan _) rfl rfl (by decide) (by decide) rfl rfl rfl fun _ => rfl
theorem ld (n : GroupN) (o : Operands) : Statement (.ld n o) := by
  cases n <;> exact of_entry (.ld _) rfl rfl (by decide) (by decide) rfl rfl rfl fun _ => rfl
theorem st (n : GroupN) (o : Operands) : Statement (.st n o) := by
  cases n <;> exact of_entry (.st _) rfl rfl (by decide) (by decide) rfl rfl rfl fun _ => rfl
theorem lds (n : GroupN) (o : Operands) : Statement (.lds n o) := by
  cases n <;> exact of_entry (.lds _) rfl rfl (by decide) (by decide) rfl rfl rfl fun _ => rfl
theorem sts (n : GroupN) (o : Operands) : Statement (.sts n o) := by
  cases n <;> exact of_entry (.sts _) rfl rfl (by decide) (by decide) rfl rfl rfl fun _ => rfl
theorem ldp (n : GroupN) (o : Operands) : Statement (.ldp n o) := by
  cases n <;> exact of_entry (.ldp _) rfl rfl (by decide) (by decide) rfl rfl rfl fun _ => rfl
theorem stp (n : GroupN) (o : Operands) : Statement (.stp n o) := by
  cases n <;> exact of_entry (.stp _) rfl rfl (by decide) (by decide) rfl rfl rfl fun _ => rfl
theorem ldc (o : Operands) : Statement (.ldc o) := of_entry .ldc rfl rfl (by decide) (by decide) rfl rfl rfl fun _ => rfl
theorem prefetch (lv : CacheLevel) (o : Operands) : Statement (.prefetch lv o) := by
  cases lv <;> exact of_entry (.prefetch _) rfl rfl (by decide) (by decide) rfl rfl rfl fun _ => rfl
theorem atom (op : AtomOp) (o : Operands) : Statement (.atom op o) := by
  cases op <;> exact of_entry (.atom _) rfl rfl (by decide) (by decide) rfl rfl rfl fun _ => rfl
theorem atomCas (o : Operands) : Statement (.atomCas o) := of_entry .atomCas rfl rfl (by decide) (by decide) rfl rfl rfl fun _ => rfl
theorem atomFadd (o : Operands) : Statement (.atomFadd o) := of_entry .atomFadd rfl rfl (by decide) (by decide) rfl rfl rfl fun _ => rfl
theorem red (op : RedOp) (o : Operands) : Statement (.red op o) := by
  cases op <;> exact of_entry (.red _) rfl rfl (by decide) (by decide) rfl rfl rfl fun _ => rfl
theorem redFadd (o : Operands) : Statement (.redFadd o) := of_entry .redFadd rfl rfl (by decide) (by decide) rfl rfl rfl fun _ => rfl
theorem ldv (o : Operands) : Statement (.ldv o) := of_entry .ldv rfl rfl (by decide) (by decide) rfl rfl rfl fun _ => rfl
theorem stv (o : Operands) : Statement (.stv o) := of_entry .stv rfl rfl (by decide) (by decide) rfl rfl rfl fun _ => rfl
theorem reclaim (o : Operands) : Statement (.reclaim o) := of_entry .reclaim rfl rfl (by decide) (by decide) rfl rfl rfl fun _ => rfl
theorem fence (o : Operands) : Statement (.fence o) := of_entry .fence rfl rfl (by decide) (by decide) rfl rfl rfl fun _ => rfl
theorem lockLine (o : Operands) : Statement (.lockLine o) := of_entry .lockLine rfl rfl (by decide) (by decide) rfl rfl rfl fun _ => rfl
theorem unlockLine (o : Operands) : Statement (.unlockLine o) := of_entry .unlockLine rfl rfl (by decide) (by decide) rfl rfl rfl fun _ => rfl
theorem cflush (op : FlushOp) (o : Operands) : Statement (.cflush op o) := by
  cases op <;> exact of_entry (.cflush _) rfl rfl (by decide) (by decide) rfl rfl rfl fun _ => rfl
theorem waddr (op : WaddrOp) (o : Operands) : Statement (.waddr op o) := by
  cases op <;> exact of_entry (.waddr _) rfl rfl (by decide) (by decide) rfl rfl rfl fun _ => rfl
theorem btCopy (o : Operands) : Statement (.btCopy o) := of_entry .btCopy rfl rfl (by decide) (by decide) rfl rfl rfl fun _ => rfl
theorem btGather (o : Operands) : Statement (.btGather o) := of_entry .btGather rfl rfl (by decide) (by decide) rfl rfl rfl fun _ => rfl
theorem btScatter (o : Operands) : Statement (.btScatter o) := of_entry .btScatter rfl rfl (by decide) (by decide) rfl rfl rfl fun _ => rfl
theorem btWait (o : Operands) : Statement (.btWait o) := of_entry .btWait rfl rfl (by decide) (by decide) rfl rfl rfl fun _ => rfl
theorem btTest (o : Operands) : Statement (.btTest o) := of_entry .btTest rfl rfl (by decide) (by decide) rfl rfl rfl fun _ => rfl
theorem strmBind (o : Operands) : Statement (.strmBind o) := of_entry .strmBind rfl rfl (by decide) (by decide) rfl rfl rfl fun _ => rfl
theorem winCfg (o : Operands) : Statement (.winCfg o) := of_entry .winCfg rfl rfl (by decide) (by decide) rfl rfl rfl fun _ => rfl
theorem lay (o : Operands) : Statement (.lay o) := of_entry .lay rfl rfl (by decide) (by decide) rfl rfl rfl fun _ => rfl
theorem engCancel (k : CancelKind) (o : Operands) : Statement (.engCancel k o) := by
  cases k <;> exact of_entry (.engCancel _) rfl rfl (by decide) (by decide) rfl rfl rfl fun _ => rfl
theorem mxPost (o : Operands) : Statement (.mxPost o) := of_entry .mxPost rfl rfl (by decide) (by decide) rfl rfl rfl fun _ => rfl
theorem mxWait (o : Operands) : Statement (.mxWait o) := of_entry .mxWait rfl rfl (by decide) (by decide) rfl rfl rfl fun _ => rfl
theorem mxPoll (o : Operands) : Statement (.mxPoll o) := of_entry .mxPoll rfl rfl (by decide) (by decide) rfl rfl rfl fun _ => rfl
theorem mxBload (o : Operands) : Statement (.mxBload o) := of_entry .mxBload rfl rfl (by decide) (by decide) rfl rfl rfl fun _ => rfl
theorem mxBfree (o : Operands) : Statement (.mxBfree o) := of_entry .mxBfree rfl rfl (by decide) (by decide) rfl rfl rfl fun _ => rfl
theorem mxAccrd (o : Operands) : Statement (.mxAccrd o) := of_entry .mxAccrd rfl rfl (by decide) (by decide) rfl rfl rfl fun _ => rfl
theorem bra (o : Operands) : Statement (.bra o) := of_entry .bra rfl rfl (by decide) (by decide) rfl rfl rfl fun _ => rfl
theorem brx (o : Operands) : Statement (.brx o) := of_entry .brx rfl rfl (by decide) (by decide) rfl rfl rfl fun _ => rfl
theorem jcall (o : Operands) : Statement (.jcall o) := of_entry .jcall rfl rfl (by decide) (by decide) rfl rfl rfl fun _ => rfl
theorem jcallInd (o : Operands) : Statement (.jcallInd o) := of_entry .jcallInd rfl rfl (by decide) (by decide) rfl rfl rfl fun _ => rfl
theorem ret (o : Operands) : Statement (.ret o) := of_entry .ret rfl rfl (by decide) (by decide) rfl rfl rfl fun _ => rfl
theorem exit (o : Operands) : Statement (.exit o) := of_entry .exit rfl rfl (by decide) (by decide) rfl rfl rfl fun _ => rfl
theorem loop (o : Operands) : Statement (.loop o) := of_entry .loop rfl rfl (by decide) (by decide) rfl rfl rfl fun _ => rfl
theorem yield (o : Operands) : Statement (.yield o) := of_entry .yield rfl rfl (by decide) (by decide) rfl rfl rfl fun _ => rfl
theorem nop (o : Operands) : Statement (.nop o) := of_entry .nop rfl rfl (by decide) (by decide) rfl rfl rfl fun _ => rfl
theorem trap (o : Operands) : Statement (.trap o) := of_entry .trap rfl rfl (by decide) (by decide) rfl rfl rfl fun _ => rfl
theorem capOff (o : Operands) : Statement (.capOff o) := of_entry .capOff rfl rfl (by decide) (by decide) rfl rfl rfl fun _ => rfl
theorem capOn (o : Operands) : Statement (.capOn o) := of_entry .capOn rfl rfl (by decide) (by decide) rfl rfl rfl fun _ => rfl
theorem brk (o : Operands) : Statement (.brk o) := of_entry .brk rfl rfl (by decide) (by decide) rfl rfl rfl fun _ => rfl
theorem barInit (o : Operands) : Statement (.barInit o) := of_entry .barInit rfl rfl (by decide) (by decide) rfl rfl rfl fun _ => rfl
theorem barArrive (o : Operands) : Statement (.barArrive o) := of_entry .barArrive rfl rfl (by decide) (by decide) rfl rfl rfl fun _ => rfl
theorem barWait (o : Operands) : Statement (.barWait o) := of_entry .barWait rfl rfl (by decide) (by decide) rfl rfl rfl fun _ => rfl
theorem barSync (o : Operands) : Statement (.barSync o) := of_entry .barSync rfl rfl (by decide) (by decide) rfl rfl rfl fun _ => rfl
theorem castle (o : Operands) : Statement (.castle o) := of_entry .castle rfl rfl (by decide) (by decide) rfl rfl rfl fun _ => rfl
theorem tagOpen (o : Operands) : Statement (.tagOpen o) := of_entry .tagOpen rfl rfl (by decide) (by decide) rfl rfl rfl fun _ => rfl
theorem tagClose (o : Operands) : Statement (.tagClose o) := of_entry .tagClose rfl rfl (by decide) (by decide) rfl rfl rfl fun _ => rfl
theorem sleep (o : Operands) : Statement (.sleep o) := of_entry .sleep rfl rfl (by decide) (by decide) rfl rfl rfl fun _ => rfl
theorem flagWait (o : Operands) : Statement (.flagWait o) := of_entry .flagWait rfl rfl (by decide) (by decide) rfl rfl rfl fun _ => rfl
theorem dlaunch (o : Operands) : Statement (.dlaunch o) := of_entry .dlaunch rfl rfl (by decide) (by decide) rfl rfl rfl fun _ => rfl
theorem dwait (o : Operands) : Statement (.dwait o) := of_entry .dwait rfl rfl (by decide) (by decide) rfl rfl rfl fun _ => rfl
theorem qpost (o : Operands) : Statement (.qpost o) := of_entry .qpost rfl rfl (by decide) (by decide) rfl rfl rfl fun _ => rfl
theorem qkick (o : Operands) : Statement (.qkick o) := of_entry .qkick rfl rfl (by decide) (by decide) rfl rfl rfl fun _ => rfl
theorem clock (k : ClockKind) (o : Operands) : Statement (.clock k o) := by
  cases k <;> exact of_entry (.clock _) rfl rfl (by decide) (by decide) rfl rfl rfl fun _ => rfl
theorem perfrd (o : Operands) : Statement (.perfrd o) := of_entry .perfrd rfl rfl (by decide) (by decide) rfl rfl rfl fun _ => rfl
theorem csrr (o : Operands) : Statement (.csrr o) := of_entry .csrr rfl rfl (by decide) (by decide) rfl rfl rfl fun _ => rfl
theorem csrw (o : Operands) : Statement (.csrw o) := of_entry .csrw rfl rfl (by decide) (by decide) rfl rfl rfl fun _ => rfl
theorem tlbinvPage (o : Operands) : Statement (.tlbinvPage o) := of_entry .tlbinvPage rfl rfl (by decide) (by decide) rfl rfl rfl fun _ => rfl
theorem tlbinvRange (o : Operands) : Statement (.tlbinvRange o) := of_entry .tlbinvRange rfl rfl (by decide) (by decide) rfl rfl rfl fun _ => rfl
theorem tlbinvCtx (o : Operands) : Statement (.tlbinvCtx o) := of_entry .tlbinvCtx rfl rfl (by decide) (by decide) rfl rfl rfl fun _ => rfl
theorem tlbinvAll (o : Operands) : Statement (.tlbinvAll o) := of_entry .tlbinvAll rfl rfl (by decide) (by decide) rfl rfl rfl fun _ => rfl
theorem tlbsync (o : Operands) : Statement (.tlbsync o) := of_entry .tlbsync rfl rfl (by decide) (by decide) rfl rfl rfl fun _ => rfl
theorem eret (o : Operands) : Statement (.eret o) := of_entry .eret rfl rfl (by decide) (by decide) rfl rfl rfl fun _ => rfl
theorem faultDone (o : Operands) : Statement (.faultDone o) := of_entry .faultDone rfl rfl (by decide) (by decide) rfl rfl rfl fun _ => rfl
theorem ptabLoad (o : Operands) : Statement (.ptabLoad o) := of_entry .ptabLoad rfl rfl (by decide) (by decide) rfl rfl rfl fun _ => rfl
theorem prangeSet (o : Operands) : Statement (.prangeSet o) := of_entry .prangeSet rfl rfl (by decide) (by decide) rfl rfl rfl fun _ => rfl
theorem prangeClear (o : Operands) : Statement (.prangeClear o) := of_none rfl
theorem linkCtlRd (o : Operands) : Statement (.linkCtlRd o) := of_entry .linkCtlRd rfl rfl (by decide) (by decide) rfl rfl rfl fun _ => rfl
theorem linkCtlRate (o : Operands) : Statement (.linkCtlRate o) := of_entry .linkCtlRate rfl rfl (by decide) (by decide) rfl rfl rfl fun _ => rfl
theorem linkCtlRetire (o : Operands) : Statement (.linkCtlRetire o) := of_entry .linkCtlRetire rfl rfl (by decide) (by decide) rfl rfl rfl fun _ => rfl
theorem linkCtlClr (o : Operands) : Statement (.linkCtlClr o) := of_entry .linkCtlClr rfl rfl (by decide) (by decide) rfl rfl rfl fun _ => rfl
theorem ctxSave (o : Operands) : Statement (.ctxSave o) := of_entry .ctxSave rfl rfl (by decide) (by decide) rfl rfl rfl fun _ => rfl
theorem ctxResume (o : Operands) : Statement (.ctxResume o) := of_none rfl
theorem gred (op : GredOp) (o : Operands) : Statement (.gred op o) := by
  cases op <;> exact of_entry (.gred _) rfl rfl (by decide) (by decide) rfl rfl rfl fun _ => rfl
theorem gmrg (o : Operands) : Statement (.gmrg o) := of_entry .gmrg rfl rfl (by decide) (by decide) rfl rfl rfl fun _ => rfl
theorem gdly (o : Operands) : Statement (.gdly o) := of_entry .gdly rfl rfl (by decide) (by decide) rfl rfl rfl fun _ => rfl
theorem gjoin (o : Operands) : Statement (.gjoin o) := of_entry .gjoin rfl rfl (by decide) (by decide) rfl rfl rfl fun _ => rfl
theorem udiv (o : Operands) : Statement (.udiv o) := of_entry .udiv rfl rfl (by decide) (by decide) rfl rfl rfl fun _ => rfl
theorem urem (o : Operands) : Statement (.urem o) := of_entry .urem rfl rfl (by decide) (by decide) rfl rfl rfl fun _ => rfl
theorem loadContext (index : Nat) : Statement (.loadContext index) := of_none rfl
theorem loadTenant (index : Nat) : Statement (.loadTenant index) := of_none rfl
theorem stopContext (index : Nat) : Statement (.stopContext index) := of_none rfl
theorem flushPlacementCache (index : Nat) : Statement (.flushPlacementCache index) := of_none rfl
theorem clauseIssue (core : Nat) : Statement (.clauseIssue core) := of_none rfl
theorem bundlerRegroup (core : Nat) : Statement (.bundlerRegroup core) := of_none rfl
theorem longLatencyComplete (id : Nat) : Statement (.longLatencyComplete id) := of_none rfl
theorem errorResponseDelivery (id : Nat) : Statement (.errorResponseDelivery id) := of_none rfl
theorem sleepExpiry (core slot lane : Nat) : Statement (.sleepExpiry core slot lane) := of_none rfl
theorem waddrDeadline (core slot lane : Nat) : Statement (.waddrDeadline core slot lane) := of_none rfl
theorem kickRegisterWrite (fn : Option Nat) (offset : Nat) (value : DWord) : Statement (.kickRegisterWrite fn offset value) := of_none rfl
theorem queueIdleUnmap (q : Nat) : Statement (.queueIdleUnmap q) := of_none rfl
theorem dispatchRound (die : Nat) : Statement (.dispatchRound die) := of_none rfl
theorem graphNodeFire (g node : Nat) : Statement (.graphNodeFire g node) := of_none rfl
theorem graphNodeEnd (g node : Nat) : Statement (.graphNodeEnd g node) := of_none rfl
theorem hostringRecordCopy (g node : Nat) : Statement (.hostringRecordCopy g node) := of_none rfl
theorem hostringCtimeExpiry (g node : Nat) : Statement (.hostringCtimeExpiry g node) := of_none rfl
theorem leakyBucketRefill (core port : Nat) : Statement (.leakyBucketRefill core port) := of_none rfl
theorem powerRateChange (core port rate : Nat) : Statement (.powerRateChange core port rate) := of_none rfl
theorem placementRecordReady (wg : Nat) (head : DWord) (rec : List Byte) : Statement (.placementRecordReady wg head rec) := of_none rfl
theorem placerDecline (wg : Nat) (head : DWord) : Statement (.placerDecline wg head) := of_none rfl
theorem configurationArm (wg : Nat) (head : DWord) : Statement (.configurationArm wg head) := of_none rfl
theorem handlerFire (core cfg cell hidx iter : Nat) : Statement (.handlerFire core cfg cell hidx iter) := of_none rfl
theorem tokenTransfer (core chan : Nat) : Statement (.tokenTransfer core chan) := of_none rfl
theorem iterationCommit (core iter : Nat) : Statement (.iterationCommit core iter) := of_none rfl
theorem iterationRetire (core iter : Nat) : Statement (.iterationRetire core iter) := of_none rfl
theorem warpDrain (core slot : Nat) : Statement (.warpDrain core slot) := of_none rfl
theorem gridStall (core cfg : Nat) : Statement (.gridStall core cfg) := of_none rfl
theorem read (id : Nat) : Statement (.read id) := of_none rfl
theorem write (id : Nat) : Statement (.write id) := of_none rfl
theorem rmw (id : Nat) : Statement (.rmw id) := of_none rfl
theorem evictClean (die line : Nat) : Statement (.evictClean die line) := of_none rfl
theorem evictDirty (die line : Nat) : Statement (.evictDirty die line) := of_none rfl
theorem ackIn (line : Nat) : Statement (.ackIn line) := of_none rfl
theorem dataIn (line : Nat) : Statement (.dataIn line) := of_none rfl
theorem timeout (line : Nat) : Statement (.timeout line) := of_none rfl
theorem leaseEnd (line : Nat) : Statement (.leaseEnd line) := of_none rfl
theorem writeAgain (id : Nat) : Statement (.writeAgain id) := of_none rfl
theorem versionedAccessAtHome (id : Nat) : Statement (.versionedAccessAtHome id) := of_none rfl
theorem ptsAdvance (die : Nat) : Statement (.ptsAdvance die) := of_none rfl
theorem m2sMemRd (pa : Nat) (mark : HostMark) : Statement (.m2sMemRd pa mark) := of_none rfl
theorem m2sMemWr (pa : Nat) (data : BitVec 512) : Statement (.m2sMemWr pa data) := of_none rfl
theorem m2sBiRsp (pa : Nat) (shared : Bool) : Statement (.m2sBiRsp pa shared) := of_none rfl
theorem hostSnoop (line : Nat) (inval : Bool) : Statement (.hostSnoop line inval) := of_none rfl
theorem wakeLate (id : Nat) : Statement (.wakeLate id) := of_none rfl
theorem dieLost (die : Nat) : Statement (.dieLost die) := of_none rfl
theorem btChunkComplete (op chunk : Nat) : Statement (.btChunkComplete op chunk) := of_none rfl
theorem engineFault (op : Nat) : Statement (.engineFault op) := of_none rfl
theorem heldFaultRetry (op : Nat) : Statement (.heldFaultRetry op) := of_none rfl
theorem streamStart (port : Nat) : Statement (.streamStart port) := of_none rfl
theorem streamElementDelivery (port : Nat) : Statement (.streamElementDelivery port) := of_none rfl
theorem windowRowEmit (cluster : Nat) : Statement (.windowRowEmit cluster) := of_none rfl
theorem mxGrant (cluster : Nat) : Statement (.mxGrant cluster) := of_none rfl
theorem mxOperationComplete (cluster : Nat) : Statement (.mxOperationComplete cluster) := of_none rfl
theorem mxReduction (cluster : Nat) : Statement (.mxReduction cluster) := of_none rfl
theorem mxBlockLoadComplete (cluster frame : Nat) : Statement (.mxBlockLoadComplete cluster frame) := of_none rfl
theorem flitReceive (die link seq : Nat) (crcOk : Bool) (lane : Nat) : Statement (.flitReceive die link seq crcOk lane) := of_none rfl
theorem linkRetrainComplete (die link : Nat) : Statement (.linkRetrainComplete die link) := of_none rfl
theorem linkWindowEnd (die link : Nat) : Statement (.linkWindowEnd die link) := of_none rfl
theorem eccCorrected (at_ : Storage) : Statement (.eccCorrected at_) := of_none rfl
theorem eccUncorrectable (at_ : Storage) : Statement (.eccUncorrectable at_) := of_none rfl
theorem scrubRead (line : Nat) : Statement (.scrubRead line) := of_none rfl
theorem moduleReset : Statement .moduleReset := of_none rfl
theorem boot : Statement .boot := of_none rfl
theorem getVersion (req : List Byte) : Statement (.getVersion req) := of_none rfl
theorem getCapabilities (req : List Byte) : Statement (.getCapabilities req) := of_none rfl
theorem negotiateAlgorithms (req : List Byte) : Statement (.negotiateAlgorithms req) := of_none rfl
theorem getDigests (req : List Byte) : Statement (.getDigests req) := of_none rfl
theorem getCertificate (req : List Byte) : Statement (.getCertificate req) := of_none rfl
theorem challenge (req : List Byte) : Statement (.challenge req) := of_none rfl
theorem getMeasurements (req : List Byte) : Statement (.getMeasurements req) := of_none rfl
theorem unsupportedRequest (req : List Byte) : Statement (.unsupportedRequest req) := of_none rfl
theorem engineFaultHeld (op : Nat) : Statement (.engineFaultHeld op) := of_none rfl
theorem memoryPortReply (id : Nat) : Statement (.memoryPortReply id) := of_none rfl
theorem writeAcknowledgement (id : Nat) : Statement (.writeAcknowledgement id) := of_none rfl
theorem invalidationReceived (die line : Nat) : Statement (.invalidationReceived die line) := of_none rfl
theorem linkWakeComplete (die link : Nat) : Statement (.linkWakeComplete die link) := of_none rfl

end Sys2Proof.Laws.Encoding
end

