-- ==== Sys2Proof/Tests/Slice0.lean ====
section
/-!
SUPPORT. Tests/Slice0.lean: words written out from the manual's encodings and what they decode to; ill-formed terms, one for each check; single steps with
values from the manual's rules; and, for every statement with hypotheses, a state and operands that meet them, at the boundaries of its clauses.
-/
namespace Sys2Proof.Tests
open Sys2Proof Sys2Proof.Machine

/-- Operand fields all zero, under the guard pt. -/
def z : Operands := { zeroOperands with guard := { neg := false, p := 7 } }

/-- Every word decodes to the instruction beside it, and is its word. -/
def decodesAll (l : List (Nat × Instr)) : Bool :=
  l.all fun x => decodeTableWord 64 x.1 == some x.2 && encode x.2 == some (BitVec.ofNat 64 x.1)

theorem test_decode_group0_1 : decodesAll [
    (0x0007040608003000, .iadd { z with d := 4, a := 6, b := .reg 8, ty := .s64 }),
    (0x0107040608003000, .isub { z with d := 4, a := 6, b := .reg 8, ty := .s64 }),
    (0x0307040608003000, .imul { z with d := 4, a := 6, b := .reg 8, ty := .s64 }),
    (0x0207030507096000, .iadd3 { z with d := 3, a := 5, c := 9, b := .reg 7, ty := .n32 }),
    (0x0407030507002000, .imulhi { z with d := 3, a := 5, b := .reg 7, ty := .s32 }),
    (0x0507030507092000, .imad { z with d := 3, a := 5, c := 9, b := .reg 7, ty := .s32 }),
    (0x0607040600003000, .iabs { z with d := 4, a := 6, ty := .s64 }),
    (0x0707030500002000, .ineg { z with d := 3, a := 5, ty := .s32 }),
    (0x08070305C8006010, .imin { z with d := 3, a := 5, b := .imm 200, ty := .n32 }),
    (0x0907040602007020, .imax { z with d := 4, a := 6, b := .k 2, ty := .n64 }),
    (0x0A07030507066000, .iaddc { z with d := 3, a := 5, c := 6, b := .reg 7, ty := .n32 }),
    (0x0B07030507076000, .isubb { z with d := 3, a := 5, c := 7, b := .reg 7, ty := .n32 })] = true := by decide

theorem test_decode_group0_2 : decodesAll [
    (0x0C07030507094000, .isad { z with d := 3, a := 5, c := 9, b := .reg 7, ty := .n8 }),
    (0x0D070305071F2000, .lea { z with d := 3, a := 5, c := 31, b := .reg 7, ty := .s32 }),
    (0x0D17030607026000, .leaHi { z with d := 3, a := 6, c := 2, b := .reg 7, ty := .n32 })] = true := by decide

theorem test_decode_group1_1 : decodesAll [
    (0x1007040608007000, .andB { z with d := 4, a := 6, b := .reg 8, ty := .n64 }),
    (0x1017040608007000, .orB { z with d := 4, a := 6, b := .reg 8, ty := .n64 }),
    (0x1027040608007000, .xorB { z with d := 4, a := 6, b := .reg 8, ty := .n64 }),
    (0x1037030500006000, .notB { z with d := 3, a := 5, ty := .n32 }),
    (0x1107030507966000, .tern { z with d := 3, a := 5, c := 150, b := .reg 7, ty := .n32 }),
    (0x1207040607007000, .shl { z with d := 4, a := 6, b := .reg 7, ty := .n64 }),
    (0x1307040607007000, .shr { z with d := 4, a := 6, b := .reg 7, ty := .n64 }),
    (0x1407040607007000, .sar { z with d := 4, a := 6, b := .reg 7, ty := .n64 }),
    (0x1507040607007000, .rotl { z with d := 4, a := 6, b := .reg 7, ty := .n64 }),
    (0x1607030507096000, .fshl { z with d := 3, a := 5, c := 9, b := .reg 7, ty := .n32 }),
    (0x1707030507202000, .bfe { z with d := 3, a := 5, c := 32, b := .reg 7, ty := .s32 }),
    (0x1807030507086000, .bfi { z with d := 3, a := 5, c := 8, b := .reg 7, ty := .n32 })] = true := by decide

theorem test_decode_group1_2 : decodesAll [
    (0x1907030600007000, .popc { z with d := 3, a := 6, ty := .n64 }),
    (0x1A07030500006000, .clz { z with d := 3, a := 5, ty := .n32 }),
    (0x1B07030600007000, .ctz { z with d := 3, a := 6, ty := .n64 }),
    (0x1C07040600007000, .brev { z with d := 4, a := 6, ty := .n64 }),
    (0x1D07030507096000, .bperm { z with d := 3, a := 5, c := 9, b := .reg 7, ty := .n32 })] = true := by decide

theorem test_decode_group2_1 : decodesAll [
    (0x2007060408003000, .icmp .eq { z with d := 6, a := 4, b := .reg 8, ty := .s64 }),
    (0x2017060408003000, .icmp .ne { z with d := 6, a := 4, b := .reg 8, ty := .s64 }),
    (0x2027060408003000, .icmp .lt { z with d := 6, a := 4, b := .reg 8, ty := .s64 }),
    (0x2037060408003000, .icmp .le { z with d := 6, a := 4, b := .reg 8, ty := .s64 }),
    (0x2047060408003000, .icmp .gt { z with d := 6, a := 4, b := .reg 8, ty := .s64 }),
    (0x2057060408003000, .icmp .ge { z with d := 6, a := 4, b := .reg 8, ty := .s64 }),
    (0x2107040608057000, .sel { z with d := 4, a := 6, c := 5, b := .reg 8, ty := .n64 }),
    (0x2207070200006002, .mov { z with d := 7, a := 2, ty := .n32, qa := true }),
    (0x230704007F036010, .movi { z with d := 4, c := 3, b := .imm 127, ty := .n32 }),
    (0x2407040009006020, .movk { z with d := 4, b := .k 9, ty := .n32 }),
    (0x2507020001000000, .psetp .and { z with d := 2, b := .reg 1 }),
    (0x2517020001000000, .psetp .or { z with d := 2, b := .reg 1 })] = true := by decide

theorem test_decode_group2_2 : decodesAll [
    (0x2527020001000000, .psetp .xor { z with d := 2, b := .reg 1 }),
    (0x2537020001000000, .psetp .andn { z with d := 2, b := .reg 1 }),
    (0x2607060000000000, .p2v { z with d := 6 }),
    (0x270700060F000010, .v2p { z with a := 6, b := .imm 15 }),
    (0x2807042200007000, .srd { z with d := 4, a := 34, ty := .n64 }),
    (0x2907030600034000, .cvti { z with d := 3, a := 6, c := 3, ty := .n8 }),
    (0x2A07030507005000, .pack { z with d := 3, a := 5, b := .reg 7, ty := .n16 }),
    (0x2B07040500001000, .unpack { z with d := 4, a := 5, ty := .s16 })] = true := by decide

theorem test_decode_group3_1 : decodesAll [
    (0x300703050700A004, .fadd { z with d := 3, a := 5, b := .reg 7, ty := .f32, mod := 1 }),
    (0x310703050700A008, .fsub { z with d := 3, a := 5, b := .reg 7, ty := .f32, mod := 2 }),
    (0x320703050700A00C, .fmul { z with d := 3, a := 5, b := .reg 7, ty := .f32, mod := 3 }),
    (0x330703050709A000, .ffma { z with d := 3, a := 5, c := 9, b := .reg 7, ty := .f32 }),
    (0x340703050700A000, .fmin { z with d := 3, a := 5, b := .reg 7, ty := .f32 }),
    (0x350703050C00A010, .fmax { z with d := 3, a := 5, b := .imm 12, ty := .f32 }),
    (0x360701050700A000, .fcmp .eq { z with d := 1, a := 5, b := .reg 7, ty := .f32 }),
    (0x361701050700A000, .fcmp .ne { z with d := 1, a := 5, b := .reg 7, ty := .f32 }),
    (0x362701050700A000, .fcmp .lt { z with d := 1, a := 5, b := .reg 7, ty := .f32 }),
    (0x363701050700A000, .fcmp .le { z with d := 1, a := 5, b := .reg 7, ty := .f32 }),
    (0x364701050700A000, .fcmp .gt { z with d := 1, a := 5, b := .reg 7, ty := .f32 }),
    (0x365701050700A000, .fcmp .ge { z with d := 1, a := 5, b := .reg 7, ty := .f32 })] = true := by decide

theorem test_decode_group3_2 : decodesAll [
    (0x366701050700A000, .fcmp .unord { z with d := 1, a := 5, b := .reg 7, ty := .f32 }),
    (0x367701050700A000, .fcmp .ord { z with d := 1, a := 5, b := .reg 7, ty := .f32 }),
    (0x370701058100A010, .fclass { z with d := 1, a := 5, b := .imm 129, ty := .f32 }),
    (0x3807030507008000, .hadd2 { z with d := 3, a := 5, b := .reg 7, ty := .f16 }),
    (0x3907030507009008, .hmul2 { z with d := 3, a := 5, b := .reg 7, ty := .bf16, mod := 2 }),
    (0x3A07030507098000, .hfma2 { z with d := 3, a := 5, c := 9, b := .reg 7, ty := .f16 }),
    (0x3B07030507009000, .hmin2 { z with d := 3, a := 5, b := .reg 7, ty := .bf16 }),
    (0x3C07030507008000, .hmax2 { z with d := 3, a := 5, b := .reg 7, ty := .f16 }),
    (0x3D0703050709900C, .fdot2 { z with d := 3, a := 5, c := 9, b := .reg 7, ty := .bf16, mod := 3 })] = true := by decide

theorem test_decode_groups4and5_1 : decodesAll [
    (0x400703050000A000, .frcp { z with d := 3, a := 5, ty := .f32 }),
    (0x410703050000A001, .frsq { z with d := 3, a := 5, ty := .f32, fsel := true }),
    (0x420703050000A000, .fsqrt { z with d := 3, a := 5, ty := .f32 }),
    (0x430703050000A001, .fexp2 { z with d := 3, a := 5, ty := .f32, fsel := true }),
    (0x440703050000A000, .flog2 { z with d := 3, a := 5, ty := .f32 }),
    (0x450703050000A001, .fsin { z with d := 3, a := 5, ty := .f32, fsel := true }),
    (0x460703050000A000, .fcos { z with d := 3, a := 5, ty := .f32 }),
    (0x470703050000A001, .ftanh { z with d := 3, a := 5, ty := .f32, fsel := true }),
    (0x48070506000AB000, .cvt { z with d := 5, a := 6, c := 10, ty := .e4m3 }),
    (0x48070506000FA600, .cvt { z with d := 5, a := 6, c := 15, ty := .f32, fs := 3 }),
    (0x490708060009F400, .cvtBlkTo { z with d := 8, a := 6, c := 9, ty := .slot, fs := 2 }),
    (0x491708060009FE00, .cvtBlkFrom { z with d := 8, a := 6, c := 9, ty := .slot, fs := 7 })] = true := by decide

theorem test_decode_groups4and5_2 : decodesAll [
    (0x5007010201056010, .xlane .sel { z with d := 1, a := 2, c := 5, b := .imm 1, ty := .n32 }),
    (0x5017010201056010, .xlane .rot { z with d := 1, a := 2, c := 5, b := .imm 1, ty := .n32 }),
    (0x5027010201056010, .xlane .xor { z with d := 1, a := 2, c := 5, b := .imm 1, ty := .n32 }),
    (0x5037010201056010, .xlane .mir { z with d := 1, a := 2, c := 5, b := .imm 1, ty := .n32 }),
    (0x5107010200000000, .vote .all { z with d := 1, a := 2 }),
    (0x5117010200000000, .vote .any { z with d := 1, a := 2 }),
    (0x5127010200000000, .vote .eq { z with d := 1, a := 2 }),
    (0x5137090200000000, .voteBallot { z with d := 9, a := 2 }),
    (0x5207030600007000, .matchLanes .any { z with d := 3, a := 6, ty := .n64 }),
    (0x5217030600007000, .matchLanes .all { z with d := 3, a := 6, ty := .n64 }),
    (0x5307030500002000, .redux .add { z with d := 3, a := 5, ty := .s32 }),
    (0x5317030500002000, .redux .min { z with d := 3, a := 5, ty := .s32 })] = true := by decide

theorem test_decode_groups4and5_3 : decodesAll [
    (0x5327030500002000, .redux .max { z with d := 3, a := 5, ty := .s32 }),
    (0x5337030500002000, .redux .and { z with d := 3, a := 5, ty := .s32 }),
    (0x5347030500002000, .redux .or { z with d := 3, a := 5, ty := .s32 }),
    (0x5357030500002000, .redux .xor { z with d := 3, a := 5, ty := .s32 }),
    (0x540703050000A000, .fredux .add { z with d := 3, a := 5, ty := .f32 }),
    (0x541703050000A000, .fredux .min { z with d := 3, a := 5, ty := .f32 }),
    (0x542703050000A000, .fredux .max { z with d := 3, a := 5, ty := .f32 }),
    (0x550703050000A000, .scan .add { z with d := 3, a := 5, ty := .f32 }),
    (0x551703050000A000, .scan .xadd { z with d := 3, a := 5, ty := .f32 }),
    (0x552703050000A000, .scan .min { z with d := 3, a := 5, ty := .f32 }),
    (0x553703050000A000, .scan .max { z with d := 3, a := 5, ty := .f32 })] = true := by decide

theorem test_decode_group6_1 : decodesAll [
    (0x6007080210006115, .ld .one { z with d := 8, a := 2, b := .imm 16, ty := .n32, sc := .dev, mod := 1, fsel := true }),
    (0x6107080403005148, .st .one { z with d := 8, a := 4, b := .reg 3, ty := .n16, sc := .sys, mod := 2 }),
    (0x62070803020010A0, .lds .one { z with d := 8, a := 3, b := .k 2, ty := .s16, sc := .cl }),
    (0x6307080305004040, .sts .one { z with d := 8, a := 3, b := .reg 5, ty := .n8, sc := .wg }),
    (0x6407080305006000, .ldp .one { z with d := 8, a := 3, b := .reg 5, ty := .n32 }),
    (0x6507080305006000, .stp .one { z with d := 8, a := 3, b := .reg 5, ty := .n32 }),
    (0x6017080210006115, .ld .two { z with d := 8, a := 2, b := .imm 16, ty := .n32, sc := .dev, mod := 1, fsel := true }),
    (0x6117080403005148, .st .two { z with d := 8, a := 4, b := .reg 3, ty := .n16, sc := .sys, mod := 2 }),
    (0x62170803020010A0, .lds .two { z with d := 8, a := 3, b := .k 2, ty := .s16, sc := .cl }),
    (0x6317080305004040, .sts .two { z with d := 8, a := 3, b := .reg 5, ty := .n8, sc := .wg }),
    (0x6417080305006000, .ldp .two { z with d := 8, a := 3, b := .reg 5, ty := .n32 }),
    (0x6517080305006000, .stp .two { z with d := 8, a := 3, b := .reg 5, ty := .n32 })] = true := by decide

theorem test_decode_group6_2 : decodesAll [
    (0x6027080210006115, .ld .four { z with d := 8, a := 2, b := .imm 16, ty := .n32, sc := .dev, mod := 1, fsel := true }),
    (0x6127080403005148, .st .four { z with d := 8, a := 4, b := .reg 3, ty := .n16, sc := .sys, mod := 2 }),
    (0x62270803020010A0, .lds .four { z with d := 8, a := 3, b := .k 2, ty := .s16, sc := .cl }),
    (0x6327080305004040, .sts .four { z with d := 8, a := 3, b := .reg 5, ty := .n8, sc := .wg }),
    (0x6427080305006000, .ldp .four { z with d := 8, a := 3, b := .reg 5, ty := .n32 }),
    (0x6527080305006000, .stp .four { z with d := 8, a := 3, b := .reg 5, ty := .n32 }),
    (0x6607080201007010, .ldc { z with d := 8, a := 2, b := .imm 1, ty := .n64 }),
    (0x6707000201000010, .prefetch .l1 { z with a := 2, b := .imm 1 }),
    (0x6717000201000010, .prefetch .llc { z with a := 2, b := .imm 1 })] = true := by decide

theorem test_decode_group7_1 : decodesAll [
    (0x7007060204007101, .atom .add { z with d := 6, a := 2, b := .reg 4, ty := .n64, sc := .dev, fsel := true }),
    (0x7017060204007101, .atom .min { z with d := 6, a := 2, b := .reg 4, ty := .n64, sc := .dev, fsel := true }),
    (0x7027060204007101, .atom .max { z with d := 6, a := 2, b := .reg 4, ty := .n64, sc := .dev, fsel := true }),
    (0x7037060204007101, .atom .and { z with d := 6, a := 2, b := .reg 4, ty := .n64, sc := .dev, fsel := true }),
    (0x7047060204007101, .atom .or { z with d := 6, a := 2, b := .reg 4, ty := .n64, sc := .dev, fsel := true }),
    (0x7057060204007101, .atom .xor { z with d := 6, a := 2, b := .reg 4, ty := .n64, sc := .dev, fsel := true }),
    (0x7067060204007101, .atom .exch { z with d := 6, a := 2, b := .reg 4, ty := .n64, sc := .dev, fsel := true }),
    (0x71070602050760C0, .atomCas { z with d := 6, a := 2, c := 7, b := .reg 5, ty := .n32, sc := .die }),
    (0x720706020500908C, .atomFadd { z with d := 6, a := 2, b := .reg 5, ty := .bf16, sc := .cl, mod := 3 }),
    (0x7307000205002040, .red .add { z with a := 2, b := .reg 5, ty := .s32, sc := .wg }),
    (0x7317000205002040, .red .min { z with a := 2, b := .reg 5, ty := .s32, sc := .wg }),
    (0x7327000205002040, .red .max { z with a := 2, b := .reg 5, ty := .s32, sc := .wg })] = true := by decide

theorem test_decode_group7_2 : decodesAll [
    (0x7337000205002040, .red .and { z with a := 2, b := .reg 5, ty := .s32, sc := .wg }),
    (0x7347000205002040, .red .or { z with a := 2, b := .reg 5, ty := .s32, sc := .wg }),
    (0x7357000205002040, .red .xor { z with a := 2, b := .reg 5, ty := .s32, sc := .wg }),
    (0x737700020500A100, .redFadd { z with a := 2, b := .reg 5, ty := .f32, sc := .dev }),
    (0x7407080205097100, .ldv { z with d := 8, a := 2, c := 9, b := .reg 5, ty := .n64, sc := .dev }),
    (0x7507080205097100, .stv { z with d := 8, a := 2, c := 9, b := .reg 5, ty := .n64, sc := .dev }),
    (0x7607090205000100, .reclaim { z with d := 9, a := 2, b := .reg 5, sc := .dev }),
    (0x770700000000010C, .fence { z with sc := .dev, mod := 3 }),
    (0x7807020400000000, .lockLine { z with d := 2, a := 4 }),
    (0x7907000400000000, .unlockLine { z with a := 4 }),
    (0x7A070004000000C0, .cflush .wb { z with a := 4, sc := .die }),
    (0x7A170004000000C0, .cflush .inv { z with a := 4, sc := .die })] = true := by decide

theorem test_decode_group7_3 : decodesAll [
    (0x7B07010305076000, .waddr .eq { z with d := 1, a := 3, c := 7, b := .reg 5, ty := .n32 }),
    (0x7B17010305076000, .waddr .ne { z with d := 1, a := 3, c := 7, b := .reg 5, ty := .n32 })] = true := by decide

theorem test_decode_groups8and9_1 : decodesAll [
    (0x8007030500000100, .btCopy { z with d := 3, a := 5, sc := .dev }),
    (0x8107030500000040, .btGather { z with d := 3, a := 5, sc := .wg }),
    (0x8207030500000140, .btScatter { z with d := 3, a := 5, sc := .sys }),
    (0x8307000507000000, .btWait { z with a := 5, b := .reg 7 }),
    (0x8407010507000000, .btTest { z with d := 1, a := 5, b := .reg 7 }),
    (0x8507130500000000, .strmBind { z with d := 19, a := 5 }),
    (0x8607000500000000, .winCfg { z with a := 5 }),
    (0x8707030608000100, .lay { z with d := 3, a := 6, b := .reg 8, sc := .dev }),
    (0x8807000500000000, .engCancel .bt { z with a := 5 }),
    (0x8817000500000000, .engCancel .lay { z with a := 5 }),
    (0x8827000500000000, .engCancel .strm { z with a := 5 }),
    (0x9007030500000000, .mxPost { z with d := 3, a := 5 })] = true := by decide

theorem test_decode_groups8and9_2 : decodesAll [
    (0x9107000500000000, .mxWait { z with a := 5 }),
    (0x9207010500000000, .mxPoll { z with d := 1, a := 5 }),
    (0x9307030500000000, .mxBload { z with d := 3, a := 5 }),
    (0x9407000500000000, .mxBfree { z with a := 5 }),
    (0x9507030507000400, .mxAccrd { z with d := 3, a := 5, b := .reg 7, fs := 2 })] = true := by decide

theorem test_decode_groupsAandB_1 : decodesAll [
    (0xA0070000F8000010, .bra { z with b := .imm 248 }),
    (0xA107000400000000, .brx { z with a := 4 }),
    (0xA207040006000000, .jcall { z with d := 4, b := .reg 6 }),
    (0xA217040600000000, .jcallInd { z with d := 4, a := 6 }),
    (0xA307000400000000, .ret { z with a := 4 }),
    (0xA407000000000000, .exit z),
    (0xA5070300F8006010, .loop { z with d := 3, b := .imm 248, ty := .n32 }),
    (0xA607000000000000, .yield z),
    (0xA707000000000000, .nop z),
    (0xA807000041000010, .trap { z with b := .imm 65 }),
    (0xA907000000000000, .capOff z),
    (0xAA07000000000000, .capOn z)] = true := by decide

theorem test_decode_groupsAandB_2 : decodesAll [
    (0xAB07000000000000, .brk z),
    (0xB0070F0040000010, .barInit { z with d := 15, b := .imm 64 }),
    (0xB107010000000000, .barArrive { z with d := 1 }),
    (0xB207010000000000, .barWait { z with d := 1 }),
    (0xB307010000000000, .barSync { z with d := 1 }),
    (0xB4070000041E0004, .castle { z with c := 30, b := .reg 4, mod := 1 }),
    (0xB507030000030000, .tagOpen { z with d := 3, c := 3 }),
    (0xB607000300020000, .tagClose { z with a := 3, c := 2 }),
    (0xB707000005000000, .sleep { z with b := .reg 5 }),
    (0xB8070000810F0010, .flagWait { z with c := 15, b := .imm 129 })] = true := by decide

theorem test_decode_groupsCandD_1 : decodesAll [
    (0xC007030400000000, .dlaunch { z with d := 3, a := 4 }),
    (0xC107000300000000, .dwait { z with a := 3 }),
    (0xC207070205000020, .qpost { z with d := 7, a := 2, b := .k 5 }),
    (0xC307000305000000, .qkick { z with a := 3, b := .reg 5 }),
    (0xC407040000000000, .clock .cal { z with d := 4 }),
    (0xC417040000000000, .clock .ck { z with d := 4 }),
    (0xC507040010000010, .perfrd { z with d := 4, b := .imm 16 }),
    (0xD007040002007010, .csrr { z with d := 4, b := .imm 2, ty := .n64 }),
    (0xD107000207007020, .csrw { z with a := 2, b := .k 7, ty := .n64 }),
    (0xD207000406000000, .tlbinvPage { z with a := 4, b := .reg 6 }),
    (0xD217000406000000, .tlbinvRange { z with a := 4, b := .reg 6 }),
    (0xD227000400000000, .tlbinvCtx { z with a := 4 })] = true := by decide

theorem test_decode_groupsCandD_2 : decodesAll [
    (0xD237000400000000, .tlbinvAll { z with a := 4 }),
    (0xD307030000000000, .tlbsync { z with d := 3 }),
    (0xD407000000000000, .eret z),
    (0xD507000300000000, .faultDone { z with a := 3 }),
    (0xD607030406000000, .ptabLoad { z with d := 3, a := 4, b := .reg 6 }),
    (0xD707030400000000, .prangeSet { z with d := 3, a := 4 }),
    (0xD807050004060010, .linkCtlRd { z with d := 5, c := 6, b := .imm 4 }),
    (0xD817050003040020, .linkCtlRate { z with d := 5, c := 4, b := .k 3 }),
    (0xD827050006000000, .linkCtlRetire { z with d := 5, b := .reg 6 }),
    (0xD837050000010010, .linkCtlClr { z with d := 5, c := 1, b := .imm 0 }),
    (0xD907030400000000, .ctxSave { z with d := 3, a := 4 })] = true := by decide

theorem test_decode_groupE : decodesAll [
    (0xE00703050709A000, .gred .addF32 { z with d := 3, a := 5, c := 9, b := .reg 7, ty := .f32 }),
    (0xE017030507096000, .gred .addN32 { z with d := 3, a := 5, c := 9, b := .reg 7, ty := .n32 }),
    (0xE02703050709A000, .gred .minF32 { z with d := 3, a := 5, c := 9, b := .reg 7, ty := .f32 }),
    (0xE03703050709A000, .gred .maxF32 { z with d := 3, a := 5, c := 9, b := .reg 7, ty := .f32 }),
    (0xE107030507000000, .gmrg { z with d := 3, a := 5, b := .reg 7 }),
    (0xE207030500FF0000, .gdly { z with d := 3, a := 5, c := 255 }),
    (0xE307030507090000, .gjoin { z with d := 3, a := 5, c := 9, b := .reg 7 }),
    (0xE807020105006020, .udiv { z with d := 2, a := 1, b := .k 5, ty := .n32 }),
    (0xE817020105006000, .urem { z with d := 2, a := 1, b := .reg 5, ty := .n32 })] = true := by decide

-- Ill-formed terms, one for each check of 03 R50 to R58 and R77 -----------------------------------------------------------------------------

theorem test_wellformed_samples : ([.iadd { z with d := 2, a := 4, b := .imm 1, ty := .s64 }, .mov { z with d := 7, a := 7, ty := .n32, qa := true },
    .cvtBlkTo { z with d := 8, a := 6, c := 9, ty := .slot, fs := 2 }, .nop z] : List Instr).all WellFormed = true := by decide
theorem test_illformed_type : WellFormed (.iadd { z with ty := .f32 }) = false := by decide
theorem test_illformed_no_type : WellFormed (.nop { z with ty := .n32 }) = false := by decide
theorem test_illformed_unused_field : WellFormed (.nop { z with d := 1 }) = false := by decide
theorem test_illformed_odd_pair : WellFormed (.iadd { z with d := 3, ty := .s64 }) = false := by decide
theorem test_illformed_group : WellFormed (.ld .four { z with d := 6, a := 2, b := .imm 0, ty := .n32 }) = false := by decide
theorem test_illformed_predicate : WellFormed (.icmp .eq { z with d := 8, ty := .n32 }) = false := by decide
theorem test_illformed_range : WellFormed (.lea { z with c := 32, ty := .s32 }) = false := by decide
theorem test_illformed_special : WellFormed (.srd { z with a := 0x18, ty := .n32 }) = false := by decide
theorem test_illformed_kreg : WellFormed (.iadd { z with b := .k 64, ty := .n32 }) = false := by decide
theorem test_illformed_odd_kpair : WellFormed (.iadd { z with b := .k 3, ty := .n64 }) = false := by decide
theorem test_illformed_const_native : WellFormed (.iadd { z with b := .const 0, ty := .n32 }) = false := by decide
theorem test_illformed_imm_only : WellFormed (.fclass { z with b := .reg 2, ty := .f32 }) = false := by decide
theorem test_illformed_no_imm : WellFormed (.movk { z with b := .imm 2, ty := .n32 }) = false := by decide
theorem test_illformed_port : WellFormed (.mov { z with a := 8, ty := .n32, qa := true }) = false := by decide
theorem test_illformed_port_pair : WellFormed (.mov { z with a := 2, ty := .n64, qa := true }) = false := by decide
theorem test_illformed_slot : WellFormed (.iadd { z with ty := .n32, fs := 1 }) = false := by decide
theorem test_illformed_scope : WellFormed (.btCopy { z with sc := .thr }) = false := by decide
theorem test_illformed_mod : WellFormed (.fmin { z with ty := .f32, mod := 1 }) = false := by decide
theorem test_illformed_flag : WellFormed (.iadd { z with ty := .n32, fsel := true }) = false := by decide
theorem test_illformed_cvt_slots : WellFormed (.cvt { z with c := 0xF, ty := .slot }) = false := by decide
theorem test_illformed_v2p_bit7 : WellFormed (.v2p { z with b := .imm 0x80 }) = false := by decide

-- One step on a small state -----------------------------------------------------------------------------------------------------------------

/-- A bundle at 0x1008, the first instruction of a clause of two at 0x1000 whose flags are f1 and f2. -/
def fcs (lanes : LaneMask) : Focus := { core := 0, slot := 0, lanes := lanes, pc := 0x1008, hdr := 0x1000, cnt := 2, fx := 1, fy := 2 }
/-- A warp with these registers, register r of lane l at 32 r + l. -/
def wrp (regs : SMap 32) : Warp := { loadedWarp with regs := regs }
/-- A launch with three constants. -/
def lnc : Launch := { loadedLaunch with k := [(0, 7), (1, 8), (5, 0x1000)] }
/-- Context 0 with the page at 0x10000 in reach of core 0. -/
def page0 : TlbEntry := { core := 0, ctx := 0, va := 0x10000, size := 4096, pa := 0x40000, r := true, w := true, x := true, sup := false }
/-- One warp whose lanes `lanes` are at an instruction. -/
def one (lanes : LaneMask) (w : Warp) : State :=
  { State.reset with
    agenda := [], focus := some (fcs lanes), boot := { State.reset.boot with released := true }, alm := { launches := [lnc] },
    fe := { warps := [w], wgs := [loadedWg] }, iso := { tlb := [page0] } }
/-- Register r of lane l, and predicate p of lane l, after an instruction. -/
def regAfter (i : Instr) (s : State) (l r : Nat) : Option Word :=
  match exec i s with
  | .next t => (t.warp? 0 0).map fun w => w.reg l r
  | _ => none
def predAfter (i : Instr) (s : State) (l p : Nat) : Option Bool :=
  match exec i s with
  | .next t => (t.warp? 0 0).map fun w => w.pred l p
  | _ => none
/-- The one lane 0 with v2, v3, v4 and v5. -/
def four (x y u v : Word) : State := one 1 (wrp ((([(64, x), (96, y), (128, u), (160, v)] : SMap 32)).filter fun p => p.2 != 0))

-- 05 R107, R108: sums wrap; the high half of a signed product; the carry out of a full sum.
theorem test_iadd_wraps : regAfter (.iadd { z with d := 6, a := 2, b := .reg 3, ty := .n32 }) (four 0xFFFFFFFF 2 0 0) 0 6 = some 1 := by decide
theorem test_iadd_pair_carries : regAfter (.iadd { z with d := 6, a := 2, b := .imm 1, ty := .n64 }) (four 0xFFFFFFFF 5 0 0) 0 7 = some 6 := by decide
theorem test_isub_other_lane : regAfter (.isub { z with d := 2, a := 2, b := .imm 1, ty := .s32 }) (four 5 0 0 0) 1 2 = some 0 := by decide
theorem test_imulhi_signed : regAfter (.imulhi { z with d := 6, a := 2, b := .reg 3, ty := .s32 }) (four 0xFFFFFFFF 5 0 0) 0 6 = some 0xFFFFFFFF := by decide
theorem test_iabs_least : regAfter (.iabs { z with d := 6, a := 2, ty := .s32 }) (four 0x80000000 0 0 0) 0 6 = some 0x80000000 := by decide
theorem test_imin_imm_unsigned : regAfter (.imin { z with d := 6, a := 2, b := .imm 255, ty := .n32 }) (four 300 0 0 0) 0 6 = some 255 := by decide
theorem test_iaddc_carry_out : predAfter (.iaddc { z with d := 6, a := 2, b := .reg 3, c := 1, ty := .n32 }) (four 0xFFFFFFFF 1 0 0) 0 1 = some true := by decide
theorem test_isubb_pt_borrows : regAfter (.isubb { z with d := 6, a := 2, b := .reg 3, c := 7, ty := .n32 }) (four 5 3 0 0) 0 6 = some 1 := by decide
-- 05 R109's own example: i = -1, base 0x1_0000_0000.
theorem test_lea_example : regAfter (.lea { z with d := 6, a := 4, b := .reg 5, c := 2, ty := .s32 }) (four 0 0 0xFFFFFFFF 0) 0 6 = some 0xFFFFFFFC := by decide
theorem test_leaHi_example : regAfter (.leaHi { z with d := 7, a := 4, b := .reg 2, c := 2, ty := .s32 }) (four 1 0 0xFFFFFFFF 0) 0 7 = some 0 := by decide
-- 05 R112 to R116: a count of the full width; the funnel's high word; a field past bit 31; a sign byte.
theorem test_shl_full : regAfter (.shl { z with d := 6, a := 2, b := .imm 32, ty := .n32 }) (four 0xFFFFFFFF 0 0 0) 0 6 = some 0 := by decide
theorem test_sar_full : regAfter (.sar { z with d := 6, a := 2, b := .imm 255, ty := .n32 }) (four 0x80000000 0 0 0) 0 6 = some 0xFFFFFFFF := by decide
theorem test_rotl : regAfter (.rotl { z with d := 6, a := 2, b := .imm 36, ty := .n32 }) (four 0x80000001 0 0 0) 0 6 = some 0x18 := by decide
theorem test_fshl : regAfter (.fshl { z with d := 6, a := 2, b := .imm 8, c := 3, ty := .n32 }) (four 0xAB000000 0x12345678 0 0) 0 6 = some 0x345678AB := by decide
theorem test_bfe_signed_top : regAfter (.bfe { z with d := 6, a := 2, b := .imm 28, c := 8, ty := .s32 }) (four 0x80000000 0 0 0) 0 6 = some 0xFFFFFFF8 := by decide
theorem test_bfi_above : regAfter (.bfi { z with d := 3, a := 2, b := .imm 32, c := 8, ty := .n32 }) (four 0xFF 0x55 0 0) 0 3 = some 0x55 := by decide
theorem test_clz_zero : regAfter (.clz { z with d := 6, a := 2, ty := .n64 }) (four 0 0 0 0) 0 6 = some 64 := by decide
theorem test_tern_xor : regAfter (.tern { z with d := 4, a := 2, b := .reg 3, c := 0x96, ty := .n32 }) (four 12 10 9 0) 0 4 = some 15 := by decide
theorem test_bperm_sign : regAfter (.bperm { z with d := 6, a := 2, b := .reg 3, c := 4, ty := .n32 }) (four 0x00000080 0x000087F0 0x99 0) 0 6
    = some 0xFF000080 := by decide
-- 05 R117 to R127.
theorem test_icmp_signed : predAfter (.icmp .lt { z with d := 1, a := 2, b := .imm 0, ty := .s32 }) (four 0xFFFFFFFF 0 0 0) 0 1 = some true := by decide
theorem test_movi_byte : regAfter (.movi { z with d := 2, b := .imm 0x7F, c := 3, ty := .n32 }) (four 0x11223344 0 0 0) 0 2 = some 0x7F223344 := by decide
theorem test_movk_lane : regAfter (.movk { z with d := 6, b := .reg 2, ty := .n32 }) (four 0x45 0 0 0) 0 6 = some 0x1000 := by decide
theorem test_v2p_mask : predAfter (.v2p { z with a := 2, b := .imm 0x02 }) (four 0xF 0 0 0) 0 2 = some false := by decide
theorem test_cvti_clamps : regAfter (.cvti { z with d := 6, a := 2, c := 2, ty := .n8, mod := 1 }) (four 0xFFFFFFFF 0 0 0) 0 6 = some 0 := by decide
theorem test_pack : regAfter (.pack { z with d := 6, a := 2, b := .reg 3, ty := .n16 }) (four 0x11112222 0x33334444 0 0) 0 6 = some 0x44442222 := by decide
-- 05 R128 to R131: 1 + 2^-24 is a tie and goes to even, 1.5 * 2 = 3; a NaN loses to a number; -0 is below +0.
theorem test_fadd_tie : regAfter (.fadd { z with d := 6, a := 2, b := .reg 3, ty := .f32 }) (four 0x3F800000 0x33800000 0 0) 0 6 = some 0x3F800000 := by decide
theorem test_ffma : regAfter (.ffma { z with d := 6, a := 2, b := .reg 3, c := 4, ty := .f32 }) (four 0x3FC00000 0x40000000 0x3F800000 0) 0 6
    = some 0x40800000 := by decide
theorem test_fmin_nan : regAfter (.fmin { z with d := 6, a := 2, b := .reg 3, ty := .f32 }) (four 0x7FC00001 0x40000000 0 0) 0 6 = some 0x40000000 := by decide
theorem test_fmax_zeros : regAfter (.fmax { z with d := 6, a := 2, b := .reg 3, ty := .f32 }) (four 0x80000000 0 0 0) 0 6 = some 0 := by decide
theorem test_fcmp_nan_ne : predAfter (.fcmp .ne { z with d := 1, a := 2, b := .reg 2, ty := .f32 }) (four 0x7FC00000 0 0 0) 0 1 = some true := by decide
theorem test_hadd2_halves : regAfter (.hadd2 { z with d := 6, a := 2, b := .reg 3, ty := .f16 }) (four 0x3C004000 0x3C003C00 0 0) 0 6 = some 0x40004200 := by decide
-- 05 R136: 3.7 to an integer by truncation.
theorem test_cvt_to_int : regAfter (.cvt { z with d := 6, a := 2, c := 0xA, ty := .s32, mod := 1 }) (four 0x406CCCCD 0 0 0) 0 6 = some 3 := by decide
-- 04 R97's worked example: DX6, gap 3, .rn.
theorem test_dx6_example :
    let v (x : Nat) : FVal := fmt32.decode x
    (dxEncode (Slot.ofBits (2 + 16 * 3)) 4 0
      ([v 0x40C00000, v 0xBED00000, v 0x3DCCCCCD, v 0x3F800000, v 0x3F733333, v 0xBC23D70A] ++ List.replicate 26 (FVal.num false 0 0)))
      = ([0x2C, 0x16, 0x02, 0x22, 0x0F, 0x10] ++ List.replicate 26 0, 0x7E, 0x81) := by decide
-- 04 R98's worked example: FP16 elements 3.0, 1.25 * 2^-13, 1.5 * 2^-14 and 2^-15, aligned at 3.0's exponent.
theorem test_align_example : (alignBlock 10 [fmt16.decode 0x4200, fmt16.decode 0x0900, fmt16.decode 0x0600, fmt16.decode 0x0200])
    = [.num false 24576 (-13), .num false 1 (-13), .num false 1 (-13), .num false 0 (-13)] := by decide
-- 04 R103's worked example: block 1 sums to +inf, block 3 holds a NaN, block 4 sums to -inf.
theorem test_token_example : accBlocks none 0 0 [[.num false 1 0], [.inf false], [.num false 1 0], [.num false 1 0], [.inf true], [.num false 1 0]]
    [[.num false 1 0], [.num false 1 0], [.num false 1 0], [.nan], [.num false 1 0], [.num false 1 0]] = 0x7FE00003 := by decide
-- 14 R340, R342, R344: lane 1 reads lane 0; a ballot of two lanes; an integer sum.
theorem test_xlane_xor : regAfter (.xlane .xor { z with d := 6, a := 2, b := .imm 1, c := 5, ty := .n32 }) (one 3 (wrp [(64, 9), (65, 4)])) 1 6 = some 9 := by decide
theorem test_ballot : regAfter (.voteBallot { z with d := 6, a := 7 }) (one 0x11 (wrp [])) 4 6 = some 0x11 := by decide
theorem test_redux_add : regAfter (.redux .add { z with d := 6, a := 2, ty := .n32 }) (one 3 (wrp [(64, 9), (65, 4)])) 0 6 = some 13 := by decide
theorem test_scan_exclusive : regAfter (.scan .xadd { z with d := 6, a := 2, ty := .n32 }) (one 3 (wrp [(64, 9), (65, 4)])) 1 6 = some 9 := by decide
-- 15 R372: division by zero gives all ones.
theorem test_udiv_zero : regAfter (.udiv { z with d := 6, a := 2, b := .imm 0, ty := .n32 }) (four 5 0 0 0) 0 6 = some 0xFFFFFFFF := by decide

-- Witnesses: for each statement a state and operands that meet its hypotheses, at the boundaries of its clauses ---------------------------------

/-- What an instruction works on passes a test. -/
def wk (s : State) (o : Operands) (p : Work → Bool) : Bool := (s.work o).any p
def wkLL (s : State) (o : Operands) (p : Work → Bool) : Bool := (s.workLL o).any p
/-- The same state with the threads in user mode. -/
def usr (w : Warp) : Warp := { w with threads := w.threads.map fun t => { t with sup := false } }
/-- A context in force with a handler at 0x2000. -/
def cxt (id : Nat) (tvec : DWord) : Ctx :=
  { id := id, en := true, ten := 0, lockq := 4, ptroot := 0, tvec := tvec, xarea := 0, xsize := 0, rootrcb := 0, pcsel := [] }
def withCtx (s : State) (c : Ctx) : State := { s with iso := { s.iso with ctxs := [c] } }
/-- The launch of another context. -/
def inCtx (s : State) (n : Nat) : State := { s with alm := { s.alm with launches := s.alm.launches.map fun l => { l with ctx := n } } }
/-- The built-in tables loaded, with a range of one slot over the pages from 0x40000. -/
def ranged (s : State) (slot : Nat) (vwin hdm : Bool) : State :=
  { s with mem := { s.mem with
      tables := builtinTables, ranges := [{ base := 0x40000, lim := 0x50000, slot := slot, near := false, vwin := vwin, hdm := hdm }] } }
def okP {α β : Type} (e : Except α β) (p : β → Bool) : Bool := match e with
  | .ok x => p x
  | .error _ => false

theorem witness_encodes : (encode (.iadd { z with d := 2, b := .imm 255, ty := .s64 })).any (fun w =>
    WellFormedAs (tableAt w).handler (tableAt w).rkl (.iadd { z with d := 2, b := .imm 255, ty := .s64 })) = true := by decide
theorem witness_check_order :
    (wordOp 0xFF00000000000000 = 0xFF) ∧ (0xE9 ≤ wordOp 0xE900000000000000) ∧ (wordOp 0xE000000000000000 = 0xE0) ∧
    (mkInstr 0x00 1).isNone = true ∧ ((mkInstr 0x00 0).bind fun mk => (mk zeroOperands).form).any (fun f => !f.typeOk .f32 && f.typeOk .n64) = true ∧
    wordOp 0xD007000000007000 = 0xD0 ∧ wordOp 0xD907000000000000 = 0xD9 ∧ (wordOperands 0x000700000000D000).isNone = true ∧
    (wordOperands 0xA707010000000000).any (fun o => ((mkInstr 0xA7 0).bind fun mk => (mk zeroOperands).form).any fun f => !f.fieldsOk false false false o)
      = true := by decide
theorem witness_headers :
    let hd : Header := { wait := 0, fx := 11, fy := 15, cnt := 7, yld := true, lmid := 255 }
    ((0x1000#64).toNat % 64 + 8 * (hd.cnt.toNat + 1) ≤ 64 ∧ hd.cnt ≠ 0) ∧ (0x1004#64).toNat % 8 ≠ 0 ∧ 64 < (0x1008#64).toNat % 64 + 8 * 8 ∧
    12 ≤ ((0xFF000C0200000000#64).extractLsb' 40 4).toNat ∧ (0xFF00000200000001#64).extractLsb' 0 24 ≠ 0#24 := by decide

/-- A state that issues one word next, from supervisor or user mode, with more words behind it. -/
def issuing (w : DWord) (more : List DWord) (user : Bool) (budget : Nat) : State :=
  let s := State.reset.withFetchWord 64 w.toNat
  { s with fe := { s.fe with
      warps := s.fe.warps.map fun x => { (if user then usr x else x) with budget := budget },
      issues := s.fe.issues.map fun i => { i with words := w :: more } } }
def issuingOk (s : State) (test : Issue → Warp → Bool) : Bool :=
  s.boot.bar0 == 0 && s.boot.released && s.agenda.isEmpty && (s.busyCores.filter fun c => decide (s.turn ≤ c)).head? == some 0 &&
    match s.fe.issues.find? fun x => x.core == 0, s.warp? 0 0 with
    | some i, some w => i.core == 0 && i.slot == 0 && test i w
    | _, _ => false
def decodesTo (user : Bool) (w : DWord) (p : Except EncTrap Instr → Bool) : Bool := p (decodeWord { user := user } w)
theorem witness_step_runs :
    issuingOk (issuing 0x0007020408006000 [] true 16) (fun i w => i.words[i.idx]? == some 0x0007020408006000 && !(w.thread (ctzV i.lanes)).sup &&
      decodesTo true 0x0007020408006000 fun r => okP r fun x =>
        !x.isTransfer && !budgetRefused w.budget x && ((issuing 0x0007020408006000 [] true 16).regHazard i x).isEmpty) = true ∧
    issuingOk (issuing 0xA0070000F8000010 [] false 256) (fun i _ => i.idx + 1 == i.words.length && decodesTo false 0xA0070000F8000010 fun r => okP r
      Instr.isTransfer) = true := by decide
theorem witness_placed_word : decodesTo false 0x00070204FE006010 (fun r => okP r fun x => !budgetRefused 256 x) = true := by decide
theorem witness_bad_words :
    let isErr (e : EncTrap) (r : Except EncTrap Instr) : Bool := match r with
      | .error x => x == e
      | .ok _ => false
    let at_ (w : DWord) (user : Bool) (e : EncTrap) : Bool := issuingOk (issuing w [] user 16) fun i _ => i.words[i.idx]? == some w && decodesTo user w (isErr e)
    at_ 0x000702040800A000 false .illegalOpcode = true ∧ at_ 0xA707010000000000 false .reservedField = true ∧
    at_ 0xFF00000200000000 true .illegalClause = true ∧ at_ 0xD407000000000000 true .privilege = true ∧
    issuingOk (issuing 0xA0070000F8000010 [0xA707000000000000] false 16) (fun i _ => decide (i.idx + 1 < i.words.length)) = true ∧
    issuingOk (issuing 0x0007100408006000 [] false 16) (fun _ w => decodesTo false 0x0007100408006000 fun r => okP r fun x =>
      !x.isTransfer && budgetRefused w.budget x) = true := by decide
theorem witness_trap_entry :
    let s := withCtx (one 0xF (usr (wrp []))) (cxt 0 0x2000)
    let w := usr (wrp [])
    s.warp? w.core w.slot = some w ∧ s.ctx? (s.ctxOf w) = some (cxt 0 0x2000) ∧ (∀ l, l < 32 → (w.thread l).sup = false) ∧ w.threads.length = 32 := by
  decide
theorem witness_killing_traps :
    let s := withCtx (one 0xF (wrp [])) (cxt 0 0)
    (s.wg? (wrp []).wg).isSome = true ∧ ((wrp []).thread 0).sup = true ∧ (∀ l, l < 32 → ((usr (wrp [])).thread l).sup = false) ∧
    (s.ctx? (s.ctxOf (usr (wrp [])))).map Ctx.tvec = some 0 := by decide

/-- A warp whose threads hold these trap CSRs. -/
def trapped (c : TrapCsrs) : Warp := { wrp [] with threads := List.replicate 32 { sup := true, pc := 0x1010, csr := c } }
theorem witness_eret :
    let t (epc : DWord) : State := one 1 (trapped { epc := epc, eclh := 0x1000 })
    let n (epc : DWord) : Bool := wk (t epc) z fun k => k.w.supIn k.f && k.act == 1 && k.s.eclhCount k.f.core (k.s.ctxOf k.w) (k.w.thread 0) == 0
    n 0x1000 = true ∧ n 0x1008 = true ∧ n 0x0FF8 = true := by decide
theorem witness_eret_no_grid_fault (c : TrapCsrs) (l : Nat) : ((trapped c).thread l).gridFault = none := by
  simp only [trapped, Warp.thread, List.getElem?_replicate]
  split <;> rfl

/-- The value of B in lane 0, from v3. -/
def ofB : Operands := { z with d := 6, a := 4, b := .reg 3, ty := .n32 }
theorem witness_csr_reads :
    ((List.range 8 ++ [8, 0x0F, 0x10, 0x11, 0x12, 0x13, 0xFF, 0x100, 0x101, 0x102, 0x103, 0x104, 0x105, 0x106, 0x107, 0x108, 0x10E, 0x109, 0x10F, 0x110]).all
      fun n => wk (four 0 (BitVec.ofNat 32 n) 0 0) ofB fun k => k.w.supIn k.f && k.n ofB (ctzV k.act) == n && k.s.ctxOf k.w == 0) = true ∧
    wk (inCtx (four 0 0x100 0 0) 5) ofB (fun k => k.w.supIn k.f && k.n ofB 0 == 0x100 && k.s.ctxOf k.w == 5) = true := by decide
theorem witness_csr_writes :
    ([0, 1, 2, 3, 4, 5, 6, 7, 0x10, 0x12, 0x100, 0x103].all fun n => wk (four 0 (BitVec.ofNat 32 n) 0x10000 0) ofB fun k =>
      k.w.supIn k.f && lanesOf k.act == [0] && k.n ofB 0 == n && k.s.warp? k.f.core k.f.slot == some k.w && (k.a ofB 0).toNat == 0x10000) = true ∧
    wk { four 0 0x103 0x0501 0 with saved := { draining := [(5, 9, 0)] } } ofB (fun k => k.w.supIn k.f && k.n ofB 0 == 0x103 &&
      (k.aw ofB 0).toNat % 256 == 1 && k.s.isDraining ((k.aw ofB 0).toNat / 256 % 256)) = true ∧
    wk (inCtx (four 0 0x103 0 0) 5) ofB (fun k => k.s.ctxOf k.w == 5) = true ∧ (0x10000 : Nat) / 2 ^ 16 ≠ 0 ∧ (5 : Nat) % 256 > 4 ∧
    (four 0 0x103 0x00FF05 0).isDraining (0xFF05 / 256 % 256) = false := by decide
theorem witness_command_lanes :
    let t := four 0 0 0 0
    let saving : State := { t with saved := { draining := [(5, 9, 0)] } }
    let cmd (x : DWord) (s : State) : Bool × State := commandLanes 0 0 (fun _ => x) [0] s
    ((wrp []).thread 0).laneDone = none ∧ t.iso.ctxtab.toNat % 4096 = 0 ∧ (8 : DWord).toNat % 4096 ≠ 0 ∧ t.isDraining 5 = false ∧ saving.isDraining 5 = true ∧
    t.iso.invs = [] ∧ (t.beginLoad 5 0 0 2).mem.reqs = [] ∧ ((cmd 0x0504 t).1 = true ∧ ((cmd 0x0504 t).2.warp? 0 0).isSome = true) ∧
    ((cmd 0x0501 saving).1 = false ∧ ((cmd 0x0501 saving).2.warp? 0 0).isSome = true) := by decide +kernel
theorem witness_privileged : wk (one 1 (usr (wrp []))) z (fun k => !k.w.supIn k.f) = true ∧ wkLL (one 1 (usr (wrp []))) z (fun k => !k.w.supIn k.f) = true := by
  decide
theorem witness_guarded_out :
    let s := one 0xF (wrp [])
    (activeLanes (fcs 0xF) (wrp []) ⟨true, 7⟩ == 0 && s.focus == some (fcs 0xF) && s.warp? 0 0 == some (wrp [])) = true := by decide

/-- A warp whose port q2 is in this state. -/
def ported (p : Port) : Warp := { wrp [] with ports := (wrp []).ports.set 2 p }
def q2 : Operands := { z with d := 6, a := 2, ty := .n32, qa := true }
theorem witness_ports :
    ([({ bound := true } : Port), { queued := 1 }, {}, { bound := true, ended := true }].all fun p =>
      (one 3 (ported p)).warp? 0 0 == some (ported p) && activeLanes (fcs 3) (ported p) q2.guard != 0 &&
      (ported p).ports[(q2.a.extractLsb' 0 3).toNat]? == some p && p.queue == [] && ((ported p).heldElem (fcs 3) 2).isNone) = true ∧
    wk (one 3 (ported { bound := true, queue := [{ words := List.replicate 32 5 }] })) q2 (fun k => k.a q2 1 == 5) = true := by decide
theorem witness_register_forms :
    let o : Operands := { z with d := 31, a := 4, b := .imm 255, c := 31, ty := .s32, mod := 3 }
    wk (one 0x80000001 (wrp [])) o (fun k => k.act == 0x80000001) = true ∧ (Instr.iadd o).operands = some o ∧
    (Instr.iadd o).writes = some ([31], []) ∧ o.ty.signed = true ∧ o.ty ≠ .n8 := by decide
theorem witness_pairs_and_constants :
    wk (four 1 2 3 4) { z with d := 254, a := 2, b := .k 4, ty := .n64 } (fun k => k.aw { z with d := 254, a := 2, b := .k 4, ty := .n64 } 0
      == 0x0000000200000001) = true ∧
    wk (four 1 2 3 4) { z with b := .k 63, ty := .n8 } (fun _ => true) = true ∧ wk (four 1 2 3 4) { z with b := .reg 2 } (fun _ => true) = true := by decide
theorem witness_special_reads : wk (four 0 0 0 0) { z with d := 6, a := 0x22, ty := .n64 } (fun k =>
    (k.s.wg? k.w.wg).any fun g => (k.s.launch? g.launch).isSome) = true := by decide
theorem witness_conversions :
    let o (c : Field) (t : Ty) : Operands := { z with d := 6, a := 2, c := c, ty := t }
    ([((o 3 .n8).srcTy), (o 0xA .f32).srcTy, (o 0xF .s16).srcTy].all Option.isSome) = true ∧ (o 0xF .s16).srcTy = some .slot ∧
    wk { four 0 0 0 0 with alm := { launches := [{ lnc with slots := [Slot.ofBits 4, Slot.ofBits 2, Slot.ofBits 0] }] } } (o 0 .slot) (fun k =>
      ((k.s.slotOf k.w 0).format?.bind SlotFmt.published).isSome && ((k.s.slotOf k.w 1).format?.bind SlotFmt.dxWidth) == some 4 &&
      ((k.s.slotOf k.w 2).format?.bind SlotFmt.published).isNone) = true := by decide
theorem witness_special_functions : wkLL (four 1 0 0 0) { z with d := 6, a := 2, ty := .f32 } (fun _ => true) = true ∧
    fmt32.decode 0x7FC00001 = .nan ∧ fmt32.decode 0x80000001 = .num true 1 (-149) ∧ (2 ^ 21 : Nat) ≤ (0x00200000#32).toNat ∧
    (0x43000000#32).toNat < (0x43000001#32).toNat := by decide

/-- Lane 0 with the address 0x10000 in v2:v3, and a state in which it reaches the page. -/
def at10000 : State := four 0x10000 0 7 0
def resolves (s : State) (k : Work) (o : Operands) (need : Need) (as : List Acc) (n : Nat) : Bool :=
  okP ((k.fenced o).resolve k.f.core (s.ctxOf k.w) (k.w.supIn k.f) need as) fun x => x.1.length == n
theorem witness_loads :
    let o (b : BOp) (sc : Scope) (mod : BitVec 2) : Operands := { z with d := 8, a := 2, b := b, ty := .n32, sc := sc, mod := mod }
    let g (o : Operands) (n : GroupN) : Bool := wkLL at10000 o fun k => k.quiet && k.va o 0 % 4 == 0 && decide (k.va o 0 < 2 ^ 56) &&
      resolves k.s k o .read (k.loads o n.count (k.va o)) 1
    g (o (.imm 252) .thr 0) .one = true ∧ g (o (.imm 16) .dev 1) .four = true ∧ g (o (.imm 124) .sys 3) .one = true := by decide
/-- A versioned window that is open over the line at 0x40000. -/
def windowed (s : State) : State :=
  let t := ranged s 3 true false
  { t with mem := { t.mem with windows := [{ base := 0x40000, ms := t.homeOf 0x40000 }] } }
/-- Lane 0 with the address 0x10000, whose core's fabric cache holds the line with these bytes dirty and these locks. -/
def cached (dirty : LineMask) (locks : List (Nat × Nat)) : State := { at10000 with mem := { at10000.mem with
  fab := [{ core := 0, ctx := 0, vline := 0x10000, pline := 0x40000, valid := BitVec.allOnes 128, dirty := dirty, locks := locks }] } }
/-- The copies that answer a load: one in the core's fabric cache and one of its die, which no window refuses; neither; and a line in a window. -/
theorem witness_load_hits :
    let o (sc : Scope) : Operands := { z with d := 8, a := 2, b := .imm 0, ty := .n32, sc := sc }
    let t : State := { at10000 with mem := { at10000.mem with die := [{ die := 0, line := 0x40000, rts := 10 }] } }
    let line (o : Operands) (k : Work) (f : Piece → Bool) : Bool :=
      okP ((k.fenced o).resolve k.f.core (k.s.ctxOf k.w) (k.w.supIn k.f) .read (k.loads o 1 (k.va o))) fun x => x.1.length == 1 && x.1.all fun p =>
        f p && k.s.copyOk (k.s.ctxOf k.w) p.line true false && !k.s.poisonHit p.line p.mask
    wkLL (cached 0 []) (o .wg) (fun k => k.quiet && line (o .wg) k fun p => (k.s.windowAt p.line).isNone &&
      ((k.fenced (o .wg)).fab? 0 0 p.vline).any fun l => l.pline == p.line && l.valid &&& p.mask == p.mask) = true ∧
    (let path : State := { t with mem := { t.mem with
       consts := [{ cluster := 0, ctx := 0, vline := 0x10000, pline := 0x40000, data := 5, valid := BitVec.allOnes 128 }] } }
     wkLL path (o .thr) (fun k => k.quiet && line (o .thr) k fun p => (k.s.const? 0 0 p.vline).any fun l => l.pline == p.line && l.valid &&& p.mask == p.mask) = true ∧
     wkLL t (o .thr) (fun k => k.quiet && line (o .thr) k fun p => (k.s.const? 0 0 p.vline).isNone) = true) ∧
    ([Scope.thr, .cl].all fun sc => wkLL t (o sc) fun k => k.quiet && line (o sc) k fun p => ((k.fenced (o sc)).fab? 0 0 p.vline).isNone &&
      (k.s.windowAt p.line).isNone && ((k.fenced (o sc)).dieCopy 0 p.line).isSome) = true ∧
    wkLL at10000 (o .thr) (fun k => k.quiet && line (o .thr) k fun p => ((k.fenced (o .thr)).dieCopy 0 p.line).isNone) = true ∧
    wkLL (windowed t) (o .sys) (fun k => k.quiet && line (o .sys) k fun p => (k.s.windowAt p.line).isSome) = true := by decide
theorem witness_private :
    let s : State := { four 0 0 0 0 with
      alm := { launches := [{ lnc with privb := 0x10000, privs := 1 }] },
      fe := { warps := [wrp []], wgs := [loadedWg] } }
    let o : Operands := { z with d := 8, a := 2, b := .imm 12, ty := .n32 }
    wkLL s o (fun k => k.quiet && k.area == 16 && k.pva o 0 == 0x1000C && resolves k.s k o .read (k.loads o 1 (k.pva o)) 1 &&
      resolves k.s k o .write (k.stores o 1 (k.pva o)) 1) = true := by decide
theorem witness_stage :
    let o (sc : Scope) : Operands := { z with d := 8, a := 2, b := .imm 4, ty := .n64, sc := sc }
    ([Scope.wg, .cl].all fun sc => wkLL (four 0x3FFF4 0 0 0) (o sc) fun k => k.quiet && (k.s.wg? k.w.wg).any fun g =>
      okP (k.s.stageAddr g (k.a (o sc) 0) (srcOffset k.s k.f k.w (o sc) 0) (elemSize (o sc)) (elemSize (o sc)) (Scope.wide sc)) fun x =>
        x == (0, 0x3FFF8)) = true := by decide
theorem witness_stores :
    let o (sc : Scope) : Operands := { z with d := 8, a := 2, b := .imm 255, ty := .n8, sc := sc }
    let stores (k : Work) (sc : Scope) (p : Piece → Bool) : Bool :=
      okP ((k.fenced (o sc)).resolve k.f.core (k.s.ctxOf k.w) (k.w.supIn k.f) .write (k.stores (o sc) 1 (k.va (o sc)))) fun x => x.1.length == 1 && x.1.all p
    ([Scope.thr, .wg, .cl, .sys].all fun sc =>
      wk at10000 (o sc) (fun k => k.quiet && stores k sc fun p => (k.s.windowAt p.line).isNone) &&
      wk (windowed at10000) (o sc) fun k => k.quiet && stores k sc fun p => (k.s.windowAt p.line).isSome) = true := by decide
theorem witness_atomics :
    let o : Operands := { z with d := 8, a := 2, b := .reg 4, c := 6, ty := .n32, sc := .dev }
    let a : Acc := { lane := 0, off := 0, size := 4, va := 0x10000, reg := 8, b := 7 }
    ([Instr.atom .add o, .atomCas o, .red .min o].all fun i => i.rmwKind.any fun x => x.1 == o) = true ∧
    wkLL at10000 o (fun k => k.quiet && decide ((srcA64 k.w o 0).toNat % rmwSize o = 0) &&
      [Need.both, .write].all fun need => resolves k.s k o need [a] 1) = true ∧
    ([(Need.both, true), (.write, false)].all fun x => wkLL (cached 0 []) { o with sc := .wg } fun k => k.quiet &&
      okP ((k.fenced { o with sc := .wg }).resolve k.f.core 0 true x.1 [a]) fun y => y.1.length == 1 && y.1.all fun p =>
        ((k.s.fab? 0 0 p.vline).any fun l => l.pline == p.line && l.valid &&& p.mask == p.mask) && k.s.copyOk 0 p.line x.2 true && !k.s.poisonHit p.line p.mask && (k.s.windowAt p.line).isNone &&
        !k.s.writeOnce p.line) = true ∧
    wkLL (four 0x100 0x80000000 7 0) { o with sc := .cl } (fun k => (srcA64 k.w o 0).toNat / 2 ^ 32 == 2 ^ 31 && (k.s.wg? k.w.wg).any fun g =>
      okP (k.s.stageAddr g ((srcA64 k.w o 0).setWidth 32) 0 4 4 true) fun x => x == (0, 0x100)) = true := by decide
/-- A request of core 0 for the line at 0x40000, as the model's counter has numbered it. -/
def rq (kind : ReqKind) : Req := { id := 0, kind := kind, core := 0, slot := 0, ctx := 0, line := 0x40000, vline := 0x10000, mask := 0xF, data := 5 }
def asking (r : Req) (slot : Nat) (vwin : Bool) : State :=
  let s := ranged (one 1 (wrp [])) slot vwin false
  { s with nonce := 1, mem := { s.mem with reqs := [r] } }
/-- A request of each kind that reaches its home, a read-modify-write at the die and one that takes the line to its core. -/
theorem witness_reaches :
    ([rq .read, rq .write, { rq (.rmw (.cas false)) with scope := .die }, { rq (.rmw (.cas false)) with later := 3 }].all fun r =>
      let s := asking r 0 false
      s.req? 0 == some r && decide (0 < s.nonce) && !r.performed && !s.mustWait r && (s.wakingFor r).isNone && (s.reqError r).isNone && !s.rangingAt r.line &&
        (s.windowAt r.line).isNone && (s.homeLine r.line).bi == [] && r.flush == none && s.mem.home == [] && decide (0 < Config.sliceLines) &&
        (s.dieLine? 0 r.line).isNone && !isHostPa r.line && !s.hdmAt r.line && s.slotAt r.line == 0 && s.tableFor r.line == leaseTable &&
        (s.homeLine r.line).st == 0 && !s.pressed r.core 0 && (s.homeLine r.line).backMask == 0 && (s.homeLine r.line).line == r.line && r.line % 128 == 0 && r.mask != 0) = true := by
  decide +kernel
def owing (op : LLOp) (s : State) : State := { s with fe := { s.fe with llops := [op] } }
def ll0 : LLOp := { id := 7, core := 0, slot := 0, wg := 0, lanes := 1, flag := some 1, dests := [6], writes := [{ lane := 0, reg := 6, val := 9 }] }
theorem witness_responses :
    let s := owing ll0 (asking { rq .read with llop := some 7, error := some 0x0E41, accs := [{ lane := 0, off := 0, size := 4, va := 0x10000, reg := 6 }] } 0 false)
    (s.llop? 7 = some ll0 ∧ ll0.queue = none ∧ ll0.pending = 0 ∧ ll0.errors = [] ∧ s.warp? 0 0 = some (wrp []) ∧ (wrp []).wg = ll0.wg) ∧
    (asking { rq .write with performed := true } 0 false).req? 0 = some { rq .write with performed := true } ∧
    ((s.req? 0).map Req.kind = some .read ∧ (s.req? 0).map Req.llop = some (some 7)) ∧
    (let w : Req := { rq .write with from_ := .writeback, error := some 0x0E41, writers := [{ slot := 0, lanes := 3, iaddr := 8 }] }
     (asking w 0 false).req? 0 = some w ∧ w.llop = none ∧ (asking w 0 false).warp? 0 0 = some (wrp [])) ∧
    (let w : Req := { rq .write with error := some 0x0E41 }
     (asking w 0 false).req? 0 = some w ∧ w.llop = none ∧ w.from_ = .thread ∧ (asking w 0 false).warp? w.core w.slot = some (wrp [])) ∧
    (let u := asking (rq .write) 4 false
     u.req? 0 = some (rq .write) ∧ u.tableFor 0x40000 = woTable ∧ (u.homeLine 0x40000).st = 0 ∧ u.homeLost 0x40000 = false ∧ u.writeOnce 0x40000 = true) := by
  decide +kernel
theorem witness_no_tenant (pa : Nat) : (asking (rq .write) 4 false).whoTenant (rq .write).who pa = none ∧ (rq .write).from_ ≠ .agent := by
  refine ⟨?_, by decide⟩
  have none_ : (asking (rq .write) 4 false).tenant? = fun _ => none := rfl
  have zero : (rq .write).who.ctx = 0 := rfl
  rw [State.whoTenant, if_pos zero, none_]
  simp
theorem witness_ordering :
    wk (owing { ll0 with pending := 1 } (one 1 (wrp []))) z (fun k => !k.f.grid && !(k.s.readsOut k.f).isEmpty) = true ∧
    ([({ z with sc := .wg } : Operands), { z with mod := 1, sc := .sys }, { z with mod := 3, sc := .cl }].all fun o =>
      wk (cached 0 [(0, 1)]) o fun k => !k.f.grid && k.quiet && decide (k.s.lineClock < 2 ^ 48)) = true := by decide
theorem witness_prefetch :
    let o : Operands := { z with a := 2, b := .imm 0 }
    let t (s : State) (p : Work → Bool) : Bool := wk s o fun k => lanesOf k.act == [0] && p k
    let here (s : State) (whole : Bool) (window : Bool) : Bool := t s fun k => decide (k.va o 0 < 2 ^ 56) &&
      okP (k.s.translate k.f.core (k.s.ctxOf k.w) (k.w.supIn k.f) .read (k.va o 0)) fun x => (k.s.windowAt (lineOf x.pa)).isSome == window &&
        ((k.s.fab? k.f.core 0 (lineOf (k.va o 0))).any fun y => y.valid == BitVec.allOnes 128) == whole
    here at10000 false false = true ∧ here (cached 0 []) true false = true ∧ here (windowed at10000) false true = true ∧
    t (four 0 0x01000000 0 0) (fun k => decide (2 ^ 56 ≤ k.va o 0)) = true ∧
    t (withCtx (four 0x20000 0 0 0) (cxt 0 0)) (fun k => !okP (k.s.translate 0 0 true .read (k.va o 0)) fun _ => true) = true := by decide +kernel
/-- That line, and eleven locked lines of its set: those of other contexts at its address. -/
def lockedSet : State := { (cached 0 []) with mem := { (cached 0 []).mem with
  fab := (cached 0 []).mem.fab ++ (List.range 11).map fun n => { core := 0, ctx := n + 1, vline := 0x10000, pline := 0x80000 + 128 * n, locks := [(1, n)] } } }
theorem witness_full_set : 11 ≤ ((lockedSet.sameSet 0 0x10000).filter fun y => y.locks != []).length := by
  simp [State.sameSet, lockedSet, cached, at10000, four, one, List.range, List.range.loop]
/-- What lock.line comes to for each lane: its lines resident, not resident, served uncached, and a lane that has its result. -/
theorem witness_lock_each :
    let o : Operands := { z with d := 1, a := 2 }
    let a : Acc := { lane := 0, off := 0, size := 1, va := 0x10000 }
    let t (s : State) (p : State → Warp → Piece → State × Warp × Option Piece → Bool) : Bool := wk s o fun k =>
      okP (k.s.resolve k.f.core 0 true .read [a]) fun x => x.1.all fun q => (x.1.find? fun y => y.vline == lineOf 0x10000) == some q &&
        p x.2 k.w q (x.2.lockEach k.f k.w x.1 [(0, 0x10000)])
    t (cached 0 []) (fun s w q r => !s.uncached q.line && (w.thread 0).laneDone.isNone && ((s.fab? 0 0 q.vline).any fun x => x.pline == q.line) && r.2.2.isNone) = true ∧
    t at10000 (fun s _ q r => !s.uncached q.line && r.2.2 == some q) = true ∧ t (windowed at10000) (fun s _ q r => s.uncached q.line && r.2.2.isNone) = true ∧
    (({ laneDone := some 0 } : Thread).laneDone ≠ none) := by decide +kernel
theorem witness_line_lock :
    let o : Operands := { z with d := 1, a := 2 }
    let a : Acc := { lane := 0, off := 0, size := 1, va := 0x10000 }
    let t (s : State) (held : Bool) : Bool := wk s o fun k => !k.f.grid && lanesOf k.act == [0] && decide ((srcA64 k.w o 0).toNat < 2 ^ 56) &&
      okP (k.s.resolve k.f.core 0 true .read [a]) fun x => x.1.length == 1 && x.1.all fun p => (k.s.fab? 0 0 p.vline).isSome == held
    t (cached 0 []) true = true ∧ t at10000 false = true ∧ t (withCtx (cached 0 []) (cxt 0 0)) true = true ∧
    (lockedSet.fab? 0 0 0x10000).isSome = true ∧
    ((cached 0 [(0, 1)]).fab? 0 0 0x10000).any (fun x => x.locks.any fun y => y.1 == 0) = true ∧
    ((withCtx (cached 0 []) (cxt 0 0)).ctx? 0).map Ctx.lockq = some 4 := by decide +kernel
theorem witness_cache_flush :
    let a : Acc := { lane := 0, off := 0, size := 1, va := 0x10000 }
    let o (sc : Scope) : Operands := { z with a := 2, sc := sc }
    let t (s : State) (sc : Scope) (p : Work → Piece → Bool) : Bool := wk s (o sc) fun k => decide ((srcA64 k.w (o sc) 0).toNat < 2 ^ 56) &&
      okP (k.s.resolve k.f.core 0 true .read [a]) fun x => x.1.length == 1 && x.1.all (p k)
    let copy (dirty : LineMask) : State := { at10000 with mem := { at10000.mem with die := [{ die := 0, line := 0x40000, dirty := dirty }] } }
    ([Scope.wg, .cl, .dev, .sys].all fun sc => ([(0, []), (3, []), (3, [(0, 1)])] : List (LineMask × List (Nat × Nat))).all fun d =>
      t (cached d.1 d.2) sc fun k p => (k.s.fab? 0 0 p.vline).isSome) = true ∧
    (([0, 1] : List LineMask).all fun d => t (copy d) .dev fun k p => (k.s.fab? 0 0 p.vline).isNone && (k.s.dieLine? 0 p.line).any fun x => x.dirty == d) = true := by
  decide
/-- A warp whose thread 0 waits at a stage word. -/
def thread0 (t : Thread) : Warp := { wrp [(64, 0x100), (96, 5)] with threads := (wrp []).threads.set 0 t }
theorem witness_waddr :
    let o (c : Field) : Operands := { z with d := 1, a := 2, b := .reg 3, c := c, ty := .n32 }
    let s (t : Thread) : State := let x := one 1 (thread0 t)
      { x with fe := { x.fe with matched := [(0, 0, 0)], wgs := [{ loadedWg with stage := [(0x100, 5), (0x101, 0), (0x102, 0), (0x103, 0)] }] } }
    let at_ (x : State) (c : Field) (p : Work → Bool) : Bool := wk x (o c) fun k => !k.f.grid && lanesOf k.act == [0] && (k.s.wg? k.w.wg).any fun g =>
      okP (k.s.stageAddr g (k.a (o c) 0) 0 4 4 false) fun y => y == (0, 0x100) && BitVec.ofNat 32 (k.s.stageRead 0 0x100 4) == k.b (o c) 0 && p k
    at_ (s {}) 2 (fun k => (k.w.thread 0).waddrDeadline.isNone && k.c (o 2) 0 != 0) = true ∧
    at_ (s {}) 9 (fun k => (k.w.thread 0).waddrDeadline.isNone && k.c (o 9) 0 == 0) = true ∧
    ([({ waddrDeadline := some none, waddrDone := some false } : Thread), { waddrDeadline := some (some 9) }].all fun t => at_ (s t) 2 fun k =>
      (k.w.thread 0).waddrDeadline.isSome && ((k.w.thread 0).waddrDone.isSome || k.s.fe.matched.contains (k.f.core, k.f.slot, 0))) = true ∧
    (let t : Thread := { waddrDeadline := some (some 0), wait := .word 1 0x100 false 5 }
     (thread0 t).thread 0 = t ∧ (one 1 (thread0 t)).fe.matched = [] ∧ 0 ≤ (one 1 (thread0 t)).cal (dieOf 0)) ∧
    ({ waddrDeadline := some (some 0), waddrDone := some true } : Thread).waddrDone ≠ none ∧ (one 1 (wrp [])).cal (dieOf 0) < 1 ∧
    (one 1 (wrp [])).warp? 0 5 = none := by decide
theorem witness_versioned_issue :
    let s : State := windowed at10000
    let o : Operands := { z with d := 8, a := 2, b := .imm 1, c := 9, ty := .n64, sc := .dev }
    ([Need.read, .write].all fun need => wkLL s o fun k => k.quiet && decide ((srcA64 k.w o 0).toNat % 8 = 0) &&
      okP (k.s.resolve 0 0 true need [{ lane := 0, off := 0, size := 8, va := 0x10000, reg := 8 }]) fun x => x.1.length == 1) = true := by decide
def versions (kind : ReqKind) (n : Nat) (closed : Bool) : State :=
  let s := owing { ll0 with pending := 1 } (asking { rq kind with accs := [{ lane := 0, off := 0, size := 8, va := 0x10000 }], llop := some 7 } 3 true)
  let old : List (Word × DWord) := [(5, 50), (4, 40), (3, 30), (2, 20)]
  { s with mem := { s.mem with
      windows := [{ base := 0x40000, ms := s.homeOf 0x40000, closed := closed, words := [{ addr := 0x40000, versions := old.take n }] }] } }
/-- Reads of a version that is held, of a newer one and of an older one; stores of the next version and of another, with and without room; reclaims. -/
theorem witness_versioned_home :
    let at_ (s : State) (p : VWindow → Bool) : Bool := (s.req? 0).any fun r => decide (0 < s.nonce) && !r.performed && !s.mustWait r &&
      (s.wakingFor r).isNone && (s.versionedError (Who.core r.ctx 0 r.core) r).isNone && r.accs.length == 1 && r.llop == some 7 && (s.llop? 7).isSome &&
      (s.windowAt 0x40000).any p
    (([.ldv 5, .ldv 6, .ldv 1, .stv 6, .stv 7, .reclaim 1, .reclaim 0] : List ReqKind).all fun kind => [4, 3].all fun n =>
      at_ (versions kind n false) fun w => !w.closed && (w.word 0x40000).versions.length == n && ((w.word 0x40000).versions.headD (0, 0)).1 == 5) = true ∧
    (([.ldv 5, .stv 6, .reclaim 1] : List ReqKind).all fun kind => at_ (versions kind 3 true) VWindow.closed) = true ∧
    (([.ldv 5, .stv 6, .reclaim 1] : List ReqKind).all fun kind =>
      let s : State := { versions kind 3 false with mem := { (versions kind 3 false).mem with windows := [] } }
      (s.req? 0).any fun r => !s.mustWait r && (s.wakingFor r).isNone && (s.versionedError (Who.core r.ctx 0 r.core) r).isNone && (s.llop? 7).isSome &&
        (s.windowAt 0x40000).isNone) = true := by decide +kernel
/-- Die 0 has a copy of the line at 0x40000, or of this line, whose home is as given. -/
def dieCopyOf (slot : Nat) (dirty : LineMask) (h : HomeLine) : State :=
  let s := ranged (one 1 (wrp [])) slot false true
  { s with mem := { s.mem with die := [{ die := 0, line := h.line, data := 9, dirty := dirty }], home := [h] } }
def hl (st : Nat) : HomeLine := { line := 0x40000, st := st }
theorem witness_evictions :
    let hostLine : HomeLine := { line := 2 ^ 48, st := 0 }
    ([(0, 0), (1, 6), (2, 3), (3, 2)].all fun p => [0, 1].all fun dirty =>
      let s := dieCopyOf p.1 dirty (hl p.2)
      s.mem.ranging == [] && ((s.dieLine? 0 0x40000).any fun d => d.dirty == dirty) && !isHostPa 0x40000 && (s.homeLine 0x40000).st == p.2 &&
        s.tableFor 0x40000 == ([leaseTable, invTable, updTable, migTable][p.1]?).getD leaseTable) = true ∧
    (dieCopyOf 4 0 (hl 0)).tableFor 0x40000 = woTable ∧ (dieCopyOf 0 1 (hl 0)).dieLine? 1 0x40000 = none ∧
    isHostPa hostLine.line = true ∧ ((dieCopyOf 0 1 hostLine).dieLine? 0 (2 ^ 48)).isSome = true := by decide +kernel
theorem witness_answers :
    let h : HomeLine := { hl 4 with waiters := [.req 0, .req 1] }
    let s (h : HomeLine) : State := { dieCopyOf 1 0 h with nonce := 2, mem := { (dieCopyOf 1 0 h).mem with reqs := [rq .write, { rq .read with id := 1 }] } }
    ([h, { h with st := 6 }, hl 4, hl 6].all fun h => (s h).mem.ranging == [] && (s h).tableFor 0x40000 == invTable && ((s h).homeLine 0x40000).acks == [] &&
      ((s h).homeLine 0x40000).bi == [] && (s h).homeLine 0x40000 == h && (s h).req? 0 == some (rq .write) &&
      (s h).req? 1 == some { rq .read with id := 1 }) = true ∧
    ((s { h with acks := [3] }).homeLine 0x40000).acks ≠ [] := by decide +kernel
theorem witness_line_timers :
    let s (slot at_ : Nat) : State := dieCopyOf slot 0 { hl 0 with tmo := [(0, at_)] }
    ([(0, leaseTable), (1, invTable), (2, updTable), (3, migTable), (4, woTable)].all fun p => (s p.1 0).tableFor 0x40000 == p.2) = true ∧
    (((s 0 0).homeLine 0x40000).tmo.any fun x => x.1 == 0 && decide (x.2 ≤ (s 0 0).now)) = true ∧
    (((s 0 1).homeLine 0x40000).tmo.any fun x => decide (x.2 ≤ (s 0 1).now)) = false ∧ ((s 0 0).homeLine 0x40000).st = 0 := by decide +kernel
theorem witness_clock : (dieCopyOf 0 1 (hl 0)).ptsOf 3 + 1 < 2 ^ 48 := by decide +kernel
theorem witness_invalidation :
    let s (h : HomeLine) : State := dieCopyOf 1 1 h
    let asleep (x : State) : State := { x with links := { x.links with links := x.links.links.map fun l => { l with waking := true } } }
    let h : HomeLine := { hl 4 with acks := [0] }
    ([h, { h with pushing := true, push := 7, pushMask := 0xF }].all fun h => ((s h).homeLine 0x40000).acks.contains 0 &&
      ((s h).wakingOn (pathTo 0 ((s h).homeOf 0x40000))).isNone && ((s h).dieLine? 0 0x40000).isSome && ((s h).homeLine 0x40000).pushing == h.pushing) = true ∧
    ((asleep (s h)).homeLine 0x40000).acks.contains 0 = true ∧ (asleep (s h)).wakingOn (pathTo 0 ((asleep (s h)).homeOf 0x40000)) ≠ none ∧
    ((s h).homeLine 0x40000).acks.contains 1 = false := by decide +kernel
theorem witness_host_messages :
    let s := dieCopyOf 0 0 (hl 0)
    let t := dieCopyOf 0 3 { hl 0 with bi := [0, 1] }
    let u := dieCopyOf 0 3 { hl 0 with bi := [1] }
    (s.hdmAt 0x40040 = true ∧ s.hdmAt 0x50000 = false ∧ s.tableFor (lineOf 0x40040) = leaseTable ∧ s.slotAt (lineOf 0x40040) = 0 ∧
      (s.homeLine 0x40000).st = 0 ∧ (s.homeLine 0x40000).backMask = 0 ∧ (s.homeLine 0x40000).bi = [] ∧ s.homeLost 0x40000 = false ∧
      s.wakingTo 0 0x40000 = none ∧ s.rangingAt 0x40000 = false ∧
      (s.mem.home.filter fun x => s.homeOf x.line == s.homeOf 0x40000 && x.line != 0x40000).length < Config.sliceLines) ∧
    (let lost : State := { s with links := { s.links with lost := [4 + s.homeOf 0x40000] } }
     let asleep : State := { s with links := { s.links with links := s.links.links.map fun l => { l with waking := true } } }
     lost.hdmAt 0x40040 = true ∧ lost.homeLost 0x40000 = true ∧ asleep.hdmAt 0x40040 = true ∧ asleep.homeLost 0x40000 = false ∧
       asleep.wakingTo 0 0x40000 ≠ none) ∧
    (t.hdmAt 0x40040 = true ∧ t.mem.ranging = [] ∧ t.homeLost 0x40000 = false ∧ t.wakingTo 0 0x40000 = none ∧
      u.homeLost 0x40000 = false ∧ u.wakingTo 0 0x40000 = none ∧ (t.homeLine 0x40000).bi.contains (0x40040 % 128 / 64) = true ∧
      (t.homeLine 0x40000).bi.filter (· != 1) ≠ []) ∧
    ((u.homeLine 0x40000).bi.contains 1 = true ∧ (u.homeLine 0x40000).bi.contains 0 = false ∧ (u.homeLine 0x40000).bi.filter (· != 1) = [] ∧
      u.tableFor 0x40000 = leaseTable) ∧
    (([0, 3] : List LineMask).all fun d => ((dieCopyOf 0 d (hl 0)).dieLine? 0 0x40000).any fun x => x.dirty == d) = true ∧
    s.dieLine? 0 0x40080 = none := by decide +kernel
theorem witness_waking_and_loss :
    let w : WakeWait := { id := 3, req := none, line := some 0x40000, die := 4, via := (0, 0), since := 0 }
    let s (now : Nat) : State := { one 1 (wrp []) with now := now, links := { links := resetLinks, waits := [w] } }
    (((s 5).links.waits.find? fun x => x.id == 3) = some w ∧ w.line = some 0x40000 ∧ (s 5).tableFor 0x40000 = leaseTable ∧ ((s 5).homeLine 0x40000).st = 0) ∧
    ((s 5).links.waits.find? fun x => x.id == 4) = none ∧ ((s 5).link? 0 0).isSome = true ∧ (farEnd 0 4).any (fun x => ((s 5).link? x.1 x.2).isSome) = true ∧
    ((s 5).links.lost.contains 4 = false ∧ w.since + 100000 ≤ (s 100000).now ∧ (s 99999).now < w.since + 100000) ∧
    (s 5).links.links.all (fun l => l.retired.length < 1024) = true ∧
    (let l : Link := { die := 0, link := 6, retired := List.range 1024 }
     farDie l.die l.link = 3 ∧ 1024 ≤ l.retired.length) := by decide +kernel
theorem witness_transfers :
    let o : Operands := { z with d := 6, a := 2, b := .imm 0x80 }
    wk (four 0x2000 0 0 0) o (fun k => !k.f.grid && (srcA64 k.w o 0).toNat == 0x2000 && k.d o 0 - 1 != 0) = true ∧
    wk (four 0 0x01000000 0 0) o (fun k => decide (2 ^ 56 ≤ (srcA64 k.w o 0).toNat)) = true ∧ ((0x1000#64) + BitVec.ofInt 64 (8 * (0x80#8).toInt)).toNat < 2 ^ 56 ∧
    wk { four 0 0 0 0 with focus := some { fcs 1 with hdr := 0x1000 } } { z with b := .reg 2, d := 3, a := 4 } (fun k => !k.f.grid) = true ∧
    wk { one 1 (wrp [(64, 0x80000000)]) with focus := some { fcs 1 with hdr := 0x1000 } } { z with d := 6, b := .reg 2 } (fun k =>
      decide (2 ^ 56 ≤ (k.f.hdr + (BitVec.ofNat 32 (k.n { z with b := .reg 2 } 0)).signExtend 64).toNat)) = true := by decide
theorem witness_exit :
    let two : State := { one 0xFFFFFFFF (wrp []) with fe := { warps := [wrp [], { wrp [] with slot := 1, sub := 1 }], wgs := [{ loadedWg with warps := 2 }] } }
    let test (s : State) (left : Bool) : Bool := wk s z fun k => k.quiet && (k.s.failedOp 0 0 0).isNone && (k.s.failedWin 0 0).isNone && (k.s.failedStrm 0 0).isNone &&
      k.s.fe.warps.all (fun w => w.castles.isEmpty) &&
      (((List.range k.w.threads.length).filter fun l => !(k.w.thread l).exited && !k.act.getLsbD l).isEmpty != left)
    test (one 1 (wrp [])) true = true ∧ test two false = true ∧ (two.fe.warps.any fun w => w.wg == 0 && w.slot == 1) = true := by decide
theorem witness_sleep_and_flags :
    wk (four 1 0 0 0) { z with b := .reg 2 } (fun k => !k.f.grid && k.n { z with b := .reg 2 } 0 == 1) = true ∧
    (let w : Warp := thread0 { wait := .sleep 100 }
     (w.thread 0).wait = .sleep 100 ∧ (one 1 w).warp? 0 0 = some w ∧ (one 1 w).now < 100 ∧ 100 ≤ ({ one 1 w with now := 100 } : State).now) ∧
    wk (one 1 { wrp [] with flags := [(11, 1)] }) { z with b := .imm 0, c := 8 } (fun k => k.w.flagCount 11 == 1) = true := by decide

/-- Barrier 15 of the workgroup in this state. -/
def barred (b : Barrier) (lanes : LaneMask) : State :=
  let s := one lanes (wrp [(64, 512), (96, 513)])
  { s with fe := { s.fe with wgs := [{ loadedWg with barriers := (loadedWg.barriers).set 15 b }] } }
theorem witness_barriers :
    ([({ e := 2, a := 1, p := 65535 } : Barrier), {}, { e := 512, a := 511 }].all fun b => wk (barred b 3) { z with d := 15, b := .reg 2 } fun k =>
      !k.f.grid && k.s.acquiring k.f == [] && (k.s.wg? k.w.wg).any fun g => g.barriers.length == 16 && g.bar 15 == b && k.n { z with b := .reg 2 } (ctzV k.act) == 512) = true ∧
    wk (barred {} 1) { z with d := 15, b := .reg 3 } (fun k => k.n { z with b := .reg 3 } (ctzV k.act) == 513) = true ∧
    wk (barred {} 1) { z with d := 15, b := .imm 0 } (fun k => k.n { z with b := .imm 0 } (ctzV k.act) == 0) = true := by decide
theorem witness_barrier_acquires :
    wk (owing { ll0 with acquire := some .wg } (barred { e := 2 } 3)) { z with d := 15, b := .reg 2 } (fun k => !k.f.grid && k.s.acquiring k.f == [7] &&
      (k.s.wg? k.w.wg).any fun g => (g.bar 15).e != 0) = true := by decide
theorem witness_castle :
    let c : CastleReq := { lanes := BitVec.allOnes 32, partners := 1, take := false, amount := 2, pc := 0, clh := 0 }
    let a : Warp := { wrp [(64, 2)] with budget := 16 }
    let b : Warp := { wrp [] with slot := 1, sub := 1, budget := 32, threads := List.replicate 32 { wait := .castle }, castles := [c] }
    let s : State := { one (BitVec.allOnes 32) a with fe := { warps := [a, b], wgs := [{ loadedWg with warps := 2 }] } }
    let o : Operands := { z with b := .imm 2, c := 2, mod := 1 }
    wk s o (fun k => !k.f.grid && k.act == BitVec.allOnes 32 && k.w.castles == [] && k.s.subWarp 0 0 == some k.w && k.s.subWarp 0 1 == some b &&
      k.s.warp? 0 1 == some b && (BitVec.ofNat 32 (k.n o (ctzV k.act))).setWidth 16 == (1#16) <<< 1) = true ∧
    c.take ≠ (o.mod == 1#2) ∧ c.amount = o.c.toNat ∧ 16 ≤ (16 : Int) + 16 ∧ (16 : Int) ≤ 32 - 16 := by decide
/-- A bundle of four lanes at a clause of one instruction at 0x10000, and a bucket one below its cap. -/
def atClause : State :=
  let hdr : DWord := encodeHeader { wait := 0, fx := 15, fy := 15, cnt := 1, yld := false, lmid := 0 }
  let code : SMap 8 := (List.range 8).foldl (fun m i => smSet m (0x40000 + i) (byteOf hdr.toNat i)) [(0x4000E, 0x07), (0x4000F, 0xA7)]
  { one 1 (wrp []) with
    fe := { warps := [{ wrp [] with threads := List.replicate 32 { sup := true, pc := 0x10000 }, bundles := [0xF] }], wgs := [loadedWg],
            buckets := [{ core := 0, port := 3, rate := 4, credit := 63 }] },
    mem := { bytes := code } }
theorem witness_front_end :
    (atClause.fe.issues.any fun i => i.core == 0) = false ∧ ((atClause.fe.buckets.find? fun x => x.core == 0 && x.port == 3).any fun b => decide (atClause.now < b.changed + 2000) &&
      decide (b.changed + 2000 ≤ ({ atClause with now := 2000 } : State).now)) = true ∧
    ((atClause.nextIssuer 0).any fun p => match atClause.headOf p.1 p.2 with
      | .clause i => i.idx == 0 && i.hdr == 0x10000 && (atClause.tryEnter p.1 p.2 i.hdr).isNone && (atClause.raiseGridDue p.1 p.2).isNone
      | _ => false) = true := by decide +kernel
theorem witness_front_end_record : atClause.fe.warps.all (fun w => (atClause.placeRec (atClause.ctxOf w) 0x10000).isNone && w.threads.all (fun t => t.gskip.isNone) &&
    (atClause.launchOf w).any (fun l => l.placed == []) && (w.thread 0).clh.isNone && atClause.warp? w.core w.slot == some w) = true := by decide
/-- The bytes of a number, and stage memory with bytes from offset 0. -/
def le (n v : Nat) : List Byte := (List.range n).map (byteOf v)
def staged (bs : List Byte) (w : Warp) : State :=
  let s := one 1 w
  { s with fe := { s.fe with wgs := [{ loadedWg with stage := (bs.zipIdx).map fun x => (x.2, x.1) }] } }
/-- A lay whose descriptor lies in a range that is being changed: what it reads is held up. -/
def heldState : State :=
  let x : Instr := .lay { z with d := 6, a := 2, b := .reg 4, sc := .wg }
  let s := issuing ((encode x).getD 0) [] true 256
  { s with
    fe := { s.fe with warps := s.fe.warps.map (fun w => { w with regs := [(64, 0x10000)] }), issues := s.fe.issues.map fun i => { i with lanes := 1 } }, iso := { s.iso with tlb := [page0], ctxs := [cxt 0 0x2000] },
    mem := { ranging := [{ at_ := 0x40000, bs := le 8 0x40000 ++ le 8 0x50000 ++ le 16 1, llop := 0, lane := 0, reg := 0, started := true }] } }
theorem witness_held :
    issuingOk heldState (fun i w => i.words[i.idx]?.any fun word => decodesTo true word fun r => okP r fun x =>
      !x.isTransfer && !budgetRefused w.budget x && (heldState.regHazard i x).isEmpty && (heldState.arrive i heldState.now).heldBy x == some .range) = true := by
  decide +kernel
/-- A copy of 600 bytes within stage memory, from 0x400 to 0x800. -/
def copyDesc (rows : Nat) : List Byte := le 8 0x400 ++ le 8 0x800 ++ le 4 3 ++ le 4 600 ++ le 4 rows ++ le 36 0
/-- Every transfer handle bound. -/
def handled (s : State) : State := { s with fe := { s.fe with wgs := s.fe.wgs.map fun g => { g with handles := List.replicate 32 { op := some 1 } } } }
/-- 64 layout commands with the engines of die 0. -/
def laying (s : State) : State := { s with
  eng := { s.eng with ops := (List.range 64).map fun n => { id := 100 + n, owner := .handle 1 0, core := 0, ctx := 0, form := .lay 0, sc := .wg, total := 1 } } }
theorem witness_transfer_issue :
    let st (f : State → State) (sc : Scope) (d : List Byte) (bound : Bool) : Bool := wkLL (f (staged d (wrp []))) { z with d := 6, a := 2, sc := sc } fun k =>
      k.quiet && lanesOf k.act == [0] && k.s.fe.llops == [] && (k.s.wg? k.w.wg).any fun g =>
        okP (k.s.stageAddr g (k.a { z with a := 2 } 0) 0 64 64 (Scope.wide sc)) fun x => x == (0, 0) && k.s.stageBytes 0 0 64 == d &&
          k.s.btStatus g .copy d (Scope.wide sc) == (if btNrow d = 0 then 0x401 else 0) && (g.handles.findIdx? fun x => x.op.isNone).isNone == bound
    ([Scope.wg, .dev].all fun sc => st id sc (copyDesc 1) false && st id sc (copyDesc 0) false && st handled sc (copyDesc 1) true) = true := by decide +kernel
theorem witness_lay :
    let d : List Byte := le 8 0x10000 ++ le 8 0x10800 ++ le 16 0 ++ le 2 3 ++ le 30 0 ++ le 4 4 ++ le 28 0 ++ le 4 4 ++ le 28 0
    let s : State := { four 0x10000 0 0 0x0800 with mem := { bytes := (d.zipIdx.map fun x => (0x40000 + x.2, x.1)).filter fun x => x.2 != 0 } }
    let t (s : State) (n : Nat) : Bool := wkLL s { z with d := 6, a := 2, b := .reg 4, sc := .wg } fun k => k.quiet && lanesOf k.act == [0] &&
      k.s.fe.llops == [] && okP ((k.s.catchUp 0).vread (Who.front 0 k.f) 0 true .read none 0x10000 128) (fun bs => bs == d) && k.s.laysOf 0 == n
    t s 0 = true ∧ t (laying s) 64 = true ∧
    wkLL (four 0x10020 0 0 0) { z with a := 2 } (fun k => (srcA64 k.w { z with a := 2 } 0).toNat % 64 != 0) = true := by decide +kernel
/-- The operation of handle 0, with two chunks of which `done` are set. -/
def moving (form : EngForm) (done : List Nat) : EngOp :=
  { id := 3, owner := .handle 0 0, core := 0, ctx := 0, form := form, desc := copyDesc 1, sc := .wg, ident := 32, total := 2, done := done }
def withOp (e : EngOp) : State :=
  let s := one 1 (wrp [(64, 32)])
  { s with
    eng := { s.eng with ops := [e] }, fe := { s.fe with wgs := [{ loadedWg with handles := loadedWg.handles.set 0 { gen := 1, op := some 3 } }] } }
theorem witness_transfer_wait :
    let o : Operands := { z with d := 1, a := 2, b := .imm 2 }
    let t (s : State) (o : Operands) (p : Work → Bool) : Bool := wk s o fun k => !k.f.grid && lanesOf k.act == [0] && p k
    let named (e : EngOp) : Bool := t (withOp e) o fun k => k.s.opNamed 0 (k.a o 0) == some e && !(k.a o 0).getLsbD 30 && k.s.op? 3 == some e && k.n o 0 == 2
    named (moving .copy []) = true ∧ named (moving .copy [1]) = true ∧ (moving .copy []).done.contains 1 = false ∧ (moving .copy [1]).done.contains 1 = true ∧
    named { moving .copy [] with failed := some (0x0E41, 0) } = true ∧
    t (one 1 (wrp [])) o (fun k => (k.s.opNamed 0 (k.a o 0)).isNone) = true ∧
    -- Ports: q2 bound by this workgroup and by none; a number that names no port; an ingress port; the window unit.
    (let a (v : Word) (p : Port) (f : Word → State → Bool) : Bool := t (one 1 { ported p with regs := [(64, v)] }) o fun k => k.a o 0 == v && f v k.s
     a 2 { bound := true } (fun v s => !v.getLsbD 5 && !v.getLsbD 4 && !v.getLsbD 3 && s.portOwner (qPort 0 0 2) == some 0) = true ∧
     a 2 {} (fun v s => !v.getLsbD 5 && !v.getLsbD 4 && !v.getLsbD 3 && s.portOwner (qPort 0 0 2) != some 0) = true ∧
     a 8 {} (fun v _ => !v.getLsbD 5 && !v.getLsbD 4 && v.getLsbD 3) = true ∧
     a 16 {} (fun v s => !v.getLsbD 5 && v.getLsbD 4 && s.portOwner (gridPort 0 0) != some 0) = true ∧ a 32 {} (fun v _ => v.getLsbD 5) = true) := by decide
/-- A stream of two elements of stage words. -/
def strmDesc (ext : Nat) : List Byte := le 8 0x400 ++ le 4 1 ++ le 4 4 ++ le 4 ext ++ le 4 1 ++ le 4 1 ++ le 4 1 ++ le 4 128 ++ le 28 0
/-- Windows of 1 by 1 over an image of 2 by 1 words, to the cluster's row buffer. -/
def winDesc : List Byte := le 8 0x10000 ++ le 4 8 ++ le 4 4 ++ le 2 1 ++ le 2 0 ++ le 4 0 ++ le 4 0 ++ le 4 0x800 ++ le 32 0
/-- 16 streams with core 0's dispatcher; a window configuration of its cluster. -/
def streaming (s : State) : State := { s with eng := { s.eng with strms := (List.range 16).map fun n =>
  { id := 100 + n, port := n, core := 0, slot := 1, sub := 0, wg := 1, ctx := 0, ltag := 1, desc := strmDesc 2 } } }
def winUnit : WinUnit := { cluster := 0, id := 6, wg := 0, core := 0, slot := 0, sub := 0, ctx := 0, ltag := 1, cfg := winDesc }
theorem witness_streams_issue :
    let o : Operands := { z with d := 2, a := 2 }
    let st (f : State → State) (d : List Byte) (full live : Bool) (c v : Nat) : Bool := wkLL (f (staged d (wrp []))) o fun k => k.quiet &&
      lanesOf k.act == [0] && k.s.fe.llops == [] && decide (16 ≤ k.s.strmsOf k.f.core) == full && (k.s.liveWin 0).isSome == live &&
      (k.s.failedWin k.f.core k.f.slot).isNone && (k.s.wg? k.w.wg).any fun g =>
        okP (k.s.stageAddr g (k.a o 0) 0 64 64 false) fun x => x == (0, 0) && k.s.strmStatus g d == c && winStatus d == v
    let win (s : State) : State := { s with eng := { s.eng with wins := [winUnit] } }
    let ended (s : State) : State := { s with eng := { s.eng with wins := [{ winUnit with failed := some (0x0E32, 0) }, { winUnit with cluster := 1 }] } }
    st id (strmDesc 2) false false 0 (winStatus (strmDesc 2)) = true ∧ st id (strmDesc 0) false false 0x501 (winStatus (strmDesc 0)) = true ∧
    ([strmDesc 2, strmDesc 0].all fun d => st streaming d true false (if d = strmDesc 2 then 0 else 0x501) (winStatus d)) = true ∧
    ([winDesc, le 64 0].all fun d => wkLL (win (staged d (wrp []))) o fun k => (k.s.liveWin 0).isSome) = true ∧
    wkLL (staged winDesc { wrp [] with slot := 0 }) o (fun k => (k.s.liveWin 0).isNone && (k.s.failedWin k.f.core k.f.slot).isNone) = true ∧
    ([0, 1].all fun n => let s := { win (staged winDesc (wrp [])) with eng := { wins := [{ winUnit with wg := n }] } }
      (s.liveWin 0).any (fun u => u.wg == n) && (s.warp? 0 0).any fun w => w.wg == 0) = true ∧
    (ended (staged winDesc (wrp []))).liveWin 0 = none ∧ winStatus winDesc = 0 ∧ winStatus (le 64 0) ≠ 0 := by decide +kernel
theorem witness_engine_steps :
    let s := withOp (moving .copy [])
    let e := moving .copy []
    (s.op? 3 = some e ∧ (s.wg? 0).isSome = true ∧ e.failed = none ∧ e.met = [] ∧ e.held = [] ∧ 1 < e.total ∧ s.olderThan 0 0 3 = false ∧
      (s.runChunk e 1).1 = none ∧ (s.fe.warps.any fun w => w.wg == 0) = true) ∧
    (let d := moving .copy [0]
     d.done.length + 1 = d.total ∧ d.signal = none ∧ ((withOp d).runChunk d 1).1 = none ∧ d.done.contains 1 = false) ∧
    ((withOp (moving (.plain 0x20000 0x20000 64) [])).runChunk (moving (.plain 0x20000 0x20000 64) []) 0).1.isSome = true ∧
    (btSsp (copyDesc 1) = true ∧ btDsp (copyDesc 1) = true ∧ btRowb (le 8 0x3FE00 ++ le 8 0 ++ le 4 3 ++ le 4 512 ++ le 4 1 ++ le 36 0) = 512 ∧
      0x3FE00 + 512 ≤ 256 * 1024) := by decide
theorem witness_stream_steps :
    let x : Strm := { id := 5, port := 2, core := 0, slot := 0, sub := 0, wg := 0, ctx := 0, ltag := 1, desc := strmDesc 2 }
    let s (y : Strm) (p : Port) : State := { one 1 (ported p) with eng := { strms := [y] }, fe := { warps := [ported p], wgs := [loadedWg] } }
    let find (t : State) : Option Strm := t.eng.strms.find? fun y => y.port == 2 && !y.delivered
    (([({} : Port), { bound := true, ended := true, queued := 1 }].all fun p => (s x p).portAt 2 == some p && find (s x p) == some x) = true) ∧
    (([0, 1] : List Nat).all fun n => let y : Strm := { x with started := true, next := n }
      let t := s y { bound := true }
      t.portAt 2 == some { bound := true } && find t == some y && y.met == none && y.held == none && !t.olderThan 0 0 5 &&
        okP (t.strmElem y) fun el => el.errs.isEmpty) = true ∧ strmCount x.desc = 2 ∧
    (let e : EngOp := { moving .copy [] with met := [(0, 0x0E31, 0x10000)] }
     (withOp e).op? 3 = some e ∧ (withOp e).ctx? 0 = none ∧ heldKind 0x0E31 = true ∧ heldKind 0x0E30 = false ∧ (withOp e).warp? 0 0 = some (wrp [(64, 32)])) ∧
    (let e : EngOp := { moving .copy [] with met := [(0, 0x0E31, 0x10000)], noted := [0x10000] }
     (withCtx (withOp e) (cxt 0 0)).op? 3 = some e ∧ e.noted.contains 0x10000 = true) ∧
    (let e : EngOp := { moving .copy [] with met := [(0, 0x0E30, 0x10000)] }
     (withOp e).op? 3 = some e ∧ e.met.all (fun y => !heldKind y.2.1) = true) ∧
    (let e : EngOp := { moving .copy [] with held := [(0, 0x0E31, 0x10000)] }
     (withOp e).op? 3 = some e ∧ e.total = 0 + 2 ∧ e.done = [] ∧ ((withOp e).runChunk e 0).1 = none) := by decide
theorem witness_window_rows :
    let s (u : WinUnit) : State := { one 1 (wrp []) with eng := { wins := [u] } }
    (([0, 1] : List Nat).all fun ox => let u : WinUnit := { winUnit with ox := ox }
      (s u).liveWin 0 == some u && !u.emitted && u.met == none && u.held == none && !(s u).olderThan 0 0 6 &&
        okP ((s u).winRead u (winPlaces u.cfg 0 ox)) (fun _ => true)) = true ∧ winDest winDesc = false ∧ winOw winDesc = 2 ∧ winOh winDesc = 1 := by decide
/-- A post of one element in one step, of 16-bit operands: A at 0x400, the output at 0x800, the block of handle 0. -/
def mxPb (ctl coop : Nat) : List Byte := le 4 ctl ++ le 4 0 ++ le 4 0xFFF0 ++ le 4 5 ++ le 4 0x400 ++ le 12 0 ++ le 4 0x800 ++ le 12 0 ++ le 4 coop ++ le 12 0
/-- A block of 32 by 1 of 16-bit elements at 0x1000. -/
def mxDesc : Nat := 8 + 32 * 2 ^ 8 + 0x1000 * 2 ^ 32
def mxBlock : MxFrame := { cluster := 0, frame := 0, wg := 0, handle := 0, ctx := 0, desc := mxDesc }
def mxEntry (stage : MxStage) (pb : List Byte) : MxEntry :=
  { id := 3, cluster := 0, core := 0, wg := 0, handle := 0, ctx := 0, launch := 0, ltag := 1, pb := pb, frames := [some 0, none, none, none], stage := stage }
/-- Lane 0 with `a` in v2 and bytes at offset 0 of stage memory; block handle 0 is bound to frame 0. -/
def mxState (bs : List Byte) (a : Word) (m : Mx) : State :=
  let s := staged bs (wrp (if a = 0 then [] else [(64, a)]))
  { s with mx := m, alm := { launches := [{ lnc with slots := [Slot.ofBits 4] }] }, fe := { s.fe with wgs := s.fe.wgs.map fun g =>
      { g with blks := g.blks.set 0 { gen := 1, op := some 0 }, reqs := g.reqs.set 0 { gen := 1, op := some 3 } } } }
def mxTest (s : State) (p : Work → Wg → Bool) : Bool :=
  wkLL s { z with d := 6, a := 2 } fun k => k.quiet && lanesOf k.act == [0] && k.s.fe.llops == [] && (k.s.wg? k.w.wg).any fun g =>
    g.reqs.length == 32 && g.blks.length == 8 && p k g
def mxBusy : Mx := { entries := List.replicate 32 (mxEntry .pending (mxPb 0x80 0)), frames := (List.range 8).map fun n => { mxBlock with frame := n } }
theorem witness_matrix_forms :
    let m : Mx := { frames := [mxBlock] }
    let at_ (s : State) (g : Wg) (n : Nat) : Bool := okP (s.stageAddr g 0 0 0 n true) fun x => x == (0, 0)
    mxTest (mxState (mxPb 0x80 0) 0 m) (fun k g => at_ k.s g 64 && k.s.mxStatus g (k.s.stageBytes 0 0 64) == 0 &&
      (g.reqs.findIdx? fun x => x.op.isNone) == some 1) = true ∧
    mxTest (mxState (mxPb 0x83 0) 0 m) (fun k g => at_ k.s g 64 && k.s.mxStatus g (k.s.stageBytes 0 0 64) == 0x0202) = true ∧
    mxTest (mxState (mxPb 0x80 0) 0 mxBusy) (fun k g => at_ k.s g 64 && k.s.mxStatus g (k.s.stageBytes 0 0 64) == 0 &&
      (k.s.mx.entries.filter fun e => e.cluster == clusterOf k.f.core).length == 32) = true ∧
    mxTest (mxState (le 16 mxDesc) 0 m) (fun k g => at_ k.s g 16 && k.s.mxBlockStatus g (leOf (k.s.stageBytes 0 0 16)) == 0 &&
      ((List.range 8).find? fun n => (k.s.mxFrame 0 n).isNone) == some 1 && (g.blks.findIdx? fun x => x.op.isNone) == some 1) = true ∧
    mxTest (mxState (le 16 (mxDesc + 2 ^ 7)) 0 m) (fun k g => at_ k.s g 16 && k.s.mxBlockStatus g (leOf (k.s.stageBytes 0 0 16)) == 0x0202) = true ∧
    mxTest (mxState (le 16 mxDesc) 0 mxBusy) (fun k g => at_ k.s g 16 && k.s.mxBlockStatus g (leOf (k.s.stageBytes 0 0 16)) == 0 &&
      ((List.range 8).find? fun n => (k.s.mxFrame 0 n).isNone) == none) = true ∧
    mxTest (mxState [] 63 m) (fun k _ => (k.a { z with a := 2 } 0).toNat % 64 != 0) = true := by decide
theorem witness_matrix_waits :
    mxTest (mxState [] 32 mxBusy) (fun k g => k.s.mxPending g (k.a { z with a := 2 } 0) == .matrix 3) = true ∧
    mxTest (mxState [] 64 mxBusy) (fun k g => g.reqNamed (k.a { z with a := 2 } 0) == none && g.blkNamed (k.a { z with a := 2 } 0) == none) = true ∧
    mxTest (mxState [] (8 + 0x40000000) mxBusy) (fun k g => g.blkNamed (k.a { z with a := 2 } 0) == some (0, 0)) = true ∧
    mxTest (mxState (le 4 0x3F800000) 0 {}) (fun k g => ((k.s.slotOf k.w 0).format?.bind SlotFmt.published).isSome &&
      okP (k.s.stageAddr g (k.a { z with a := 2 } 0) 0 4 4 true) (fun x => x == (0, 0)) && k.s.mxPending g (BitVec.ofNat 32 (k.n { z with b := .imm 64 } 0)) == .none &&
      ((k.s.slotOf k.w 1).format?.bind SlotFmt.published).isNone) = true := by decide
theorem witness_matrix_arithmetic :
    (0x7FE00005 : Nat) / 2 ^ 21 = 0x3FF ∧ (0x3F800000 : Nat) / 2 ^ 21 ≠ 0x3FF ∧ fmt32.isNaN 0x7F800001 = true ∧ fmt32.isNaN 0x3F800000 = false ∧
    fmt32.isNaN (fmt32.add .rn 0x7F800000 0xFF800000) = true ∧ fmt32.isNaN (fmt32.add .rn 0x3F800000 0x3F800000) = false ∧
    fmt32.isNaN (fmt32.add .rn 0x3F800000 (fmt32.round .rn false (.num true 1 0))) = false ∧
    topExp 10 (.num false 0x400 (-10)) = some 0 ∧ topExp 10 (.num true 0x401 (-10)) = some 0 ∧ topExp 10 (.num false 0 0) = none := by decide
def mxRun (es : List MxEntry) (b : MxFrame) (ps : List MxPartial) : State := mxState [] 0 { entries := es, frames := [b], partials := ps }
theorem witness_matrix_steps :
    let done : MxFrame := { mxBlock with loaded := true }
    let p (stage : MxStage) : MxEntry := mxEntry stage (mxPb 0x80 0)
    let other : MxEntry := { mxEntry .pending (mxPb 0x80 0) with id := 4, frames := [none, none, none, none] }
    (mxRun [p .pending, other, { other with id := 5, cluster := 1 }] done []).mxChoice 0 = some (p .pending) ∧
    (mxRun [] mxBlock []).mxFrame 0 0 = some mxBlock ∧ ((mxRun [] mxBlock []).wg? 0).any (fun g =>
      !(mxRun [] mxBlock []).mxAway g (bdAddr mxDesc :: [0x80, 0x81, 1, 0x11].flatMap fun n => pbAddr (mxPb 0x80 n) 0x34 :: pbUses (mxPb 0x80 n)) && (mxFmtOf (bdFmt mxDesc) ((mxRun [] mxBlock []).wgSlot g (bdSlot mxDesc))).isSome) = true ∧
    (let s := mxRun [p .running] done []
     let b := mxPb 0x80 0
     pbAwin b = false ∧ pbKs b = 0 ∧ pbSteps b = 1 ∧ pbM b = 1 ∧ pbOconv b = false ∧ (s.fe.warps.any fun w => w.wg == 0) = true ∧
       (s.mx.entries.find? fun x => x.cluster == 0 && x.stage == .running) = some (p .running) ∧
       (s.wg? 0).any (fun g => s.mxPlace g (pbAddr b 0x20) 0 ((4 * pbN b : Nat) : Int) == some (0, 0x800)) = true) ∧
    (let e0 := mxEntry .reducing (mxPb 0x80 1)
     let e1 : MxEntry := { mxEntry .reducing (mxPb 0x80 0x11) with id := 4, cluster := 1 }
     pbKs e0.pb = 1 ∧ pbSpk e0.pb = 0 ∧ (mxRun [e0] done []).mxGiven e0 = [] ∧ pbSpk e1.pb = 1 ∧ (mxRun [e0, e1] done []).mxSplit0 e1 = some e0 ∧
       ((mxRun [e0, e1] done []).mx.entries.filter fun x => x.cluster == 1 && x.stage == .reducing) = [e1] ∧
       (let p : MxPartial := { launch := 0, group := pbGroup e0.pb, msel := pbMsel e0.pb, nsel := pbNsel e0.pb, spk := 1, kbt := pbKbt e0.pb }
        (mxRun [e0] done [p]).mxGiven e0 = [p] ∧ ((mxRun [e0] done [p]).mx.entries.filter fun x => x.cluster == 0 && x.stage == .reducing) = [e0] ∧
          ((mxRun [e0] done [p]).wg? e0.wg).isSome = true ∧ ((mxRun [e0] done [p]).fe.warps.any fun w => w.wg == e0.wg) = true)) := by decide

/-- Bytes from the physical address 0x40000, where 0x10000 lies. -/
def memoryOf (bs : List Byte) : Mem := { bytes := (bs.zipIdx.map fun x => (0x40000 + x.2, x.1)).filter fun x => x.2 != 0 }
/-- Lane 0 with these registers over that memory. -/
def over_ (bs : List Byte) (s : State) : State := { s with mem := memoryOf bs }
def withLaunch (l : Launch) (s : State) : State := { s with alm := { s.alm with launches := [l] } }
/-- A region that allows one child and has `n`. -/
def rcbBytes (n : Nat) : List Byte := le 20 0 ++ le 2 1 ++ le 10 0 ++ le 2 n ++ le 30 0
def launchTest (s : State) (p : Work → Launch → Bool) : Bool :=
  wkLL s { z with d := 6, a := 2 } fun k =>
    let k0 : State := k.s.catchUp (dieOf k.f.core)
    k.quiet && lanesOf k.act == [0] && (k0.launchOf k.w).any fun l =>
      okP (k0.vread (Who.front (k0.ctxOf k.w) k.f) k.f.core (k.w.supIn k.f) .read none (srcA64 k.w { z with a := 2 } 0).toNat 512) (fun bs => bs.length == 512)
        && p { k with s := k0 } l
theorem witness_launch_forms :
    let l1 : Launch := { lnc with rcb := 0x10000 }
    let room (n : Nat) (k : Work) (l : Launch) : Bool := (k.s.regionOf l).any fun
      | (a, r) :: chain => effective 2 Rcb.dlslot ((a, r) :: chain) == 1 && r.duse == n
      | [] => false
    launchTest (withLaunch l1 (over_ (rcbBytes 0) (four 0x10200 0 0 0))) (fun k l => room 0 k l && k.s.freeTag == some 2) = true ∧
    launchTest (withLaunch l1 (over_ (rcbBytes 1) (four 0x10200 0 0 0))) (room 1) = true ∧
    launchTest (withLaunch { lnc with rcb := 0x10001 } (four 0x10200 0 0 0)) (fun k l => (k.s.regionOf l).isNone &&
      ((k.s.regionFault l).warp? k.f.core k.f.slot).isSome) = true ∧
    wkLL (four 0x10201 0 0 0) { z with a := 2 } (fun k => (srcA64 k.w { z with a := 2 } 0).toNat % 64 != 0) = true ∧
    (let named (n : Word) (p : Bool) : Bool := wk (four n 0 0 0) { z with a := 2 } fun k => !k.f.grid && k.s.childDone (k.s.ctxOf k.w) (k.a { z with a := 2 } 0) == p
     named 1 false = true ∧ named 2 true = true) := by decide +kernel
/-- Every tag in use. -/
def tagless : State := over_ (rcbBytes 0) { four 0x10200 0 0 0 with
  alm := { launches := { lnc with rcb := 0x10000 } :: (List.range 8191).map fun n => { lnc with id := n + 1, tag := n + 1 } } }
theorem witness_no_tag : tagless.freeTag = none := by
  simp only [State.freeTag, List.find?_eq_none, Bool.not_eq_true', State.tagsUsed]
  intro t h
  simp only [List.mem_map, List.mem_range] at h
  obtain ⟨n, hn, rfl⟩ := h
  simp only [tagsOf, Bool.not_eq_false, List.contains_eq_mem, decide_eq_true_eq, List.mem_append, List.mem_map]
  refine Or.inl (Or.inl (Or.inl ⟨{ lnc with id := n + 1, tag := n + 1 }, ?_, rfl⟩))
  simp only [tagless, over_, List.mem_cons, List.mem_map, List.mem_range]
  exact Or.inr ⟨n, hn, rfl⟩
theorem witness_no_tag_region : launchTest tagless (fun k l => (k.s.regionOf l).any fun
    | (a, r) :: chain => decide (r.duse < effective 2 Rcb.dlslot ((a, r) :: chain))
    | [] => false) = true := by decide +kernel

/-- A state whose table entry of queue 1 stands at 0x40: enabled, of 16 slots at 0x10000, with these indices. -/
def queued (en rd ki : Nat) (s : State) : State :=
  { s with mem := { bytes := ((le 8 0x10000 ++ le 4 (en + 8) ++ le 4 0 ++ le 4 rd ++ le 4 ki).zipIdx.map fun x => (0x40 + x.2, x.1)).filter fun x => x.2 != 0 } }
theorem witness_queue_forms :
    let o : Operands := { z with d := 6, a := 2, b := .reg 4 }
    let q (s : State) (p : Work → Bool) : Bool := wkLL s o fun k =>
      let k0 : State := k.s.catchUp (dieOf k.f.core)
      k.quiet && lanesOf k.act == [0] && (srcA64 k.w o 0).toNat % 64 == 0 &&
        okP (k0.vread (Who.front (k.s.ctxOf k.w) k.f) k.f.core (k.w.supIn k.f) .read none (srcA64 k.w o 0).toNat 64) fun bs =>
          bs.length == 64 && p { k with s := k0 }
    let s := four 0x10000 0 1 0
    q (queued 1 5 20 s) (fun k => k.s.inShare 0 1 && k.s.qEn 1 && decide ((k.s.qKi 1 + 2 ^ 32 - k.s.qRd 1) % 2 ^ 32 < 2 ^ k.s.qLog 1) && k.s.qField 1 0 8 % 4096 == 0 &&
      (k.s.vwrite (Who.almanac (k.s.qCtx 1) (k.s.qHome 1)) (k.s.qHome 1 * Config.coresPerDie) true (k.s.qField 1 0 8 + 64 * (20 % 16)) (List.replicate 64 0)).1.isNone)
      = true ∧
    q (queued 1 5 21 s) (fun k => k.s.inShare 0 1 && k.s.qEn 1 && decide (2 ^ k.s.qLog 1 ≤ (k.s.qKi 1 + 2 ^ 32 - k.s.qRd 1) % 2 ^ 32)) = true ∧
    q (queued 0 0 0 s) (fun k => k.s.inShare 0 (k.n o 0) && !k.s.qEn (k.n o 0)) = true ∧
    q (four 0x10000 0 4096 0) (fun k => !k.s.inShare 0 (k.n o 0)) = true := by decide +kernel
theorem witness_clocks :
    let o : Operands := { z with d := 6, b := .reg 2 }
    ([0, 1, 2, 3, 4, 7, 15, 16, 63, 64].all fun n => wk (withCtx (four (BitVec.ofNat 32 n) 0 0 0) (cxt 0 0)) o fun k =>
      k.n o 0 == n && (k.s.ctx? (k.s.ctxOf k.w)).any fun c => (c.pcsel[n - 16]?).getD 0 == 0) = true := by decide

/-- Queues 1 and 2 of home 0, mapped and enabled, with one packet each whose barrier bit is clear; queue 2 has priority 3. -/
def roundState (en : Nat) : State :=
  let e (n prio ki : Nat) : List (Nat × Byte) :=
    ((le 8 0x10000 ++ le 4 (1 + 8 + 256 * prio) ++ le 4 0 ++ le 4 0 ++ le 4 ki ++ le 40 0).zipIdx.map fun x => (64 * n + x.2, x.1)).filter fun x => x.2 != 0
  { State.reset with
    alm := { queues := [{ q := 1, mapped := true }, { q := 2, mapped := true }] }, iso := { tlb := [page0], ctxs := [cxt 0 0] }, now := 200000,
    mem := { bytes := e 1 0 (if en = 0 then 0 else 1) ++ e 2 3 (if en = 2 then 1 else 0) } }
theorem witness_rounds :
    (roundState 0).readyItems 0 = [] ∧ (roundState 1).readyItems 0 = [(1, 0)] ∧ ((roundState 2).readyItems 0).filter (fun i => decide (3 ≤ i.2)) = [(2, 3)] ∧
    ((roundState 2).serve 0 2).isSome = true ∧ ((roundState 0).serve 0 1).isNone = true ∧
    (roundState 2).links.lost.contains 0 = false ∧ (roundState 0).queue? 1 = some { q := 1, mapped := true } ∧
    (roundState 0).qEmpty { q := 1, mapped := true } = true ∧ 0 + (roundState 0).qIdle 1 ≤ (roundState 0).now ∧
    (roundState 1).qEmpty { q := 1, mapped := true } = false ∧ (roundState 1).qForeign 1 = false ∧ (roundState 1).qEn 1 = true ∧
    (1 + 2 ^ 32 - (roundState 1).qKi 1) % 2 ^ 32 = 0 ∧ (roundState 1).qEn 4095 = false ∧ (roundState 1).qForeign 4095 = false := by decide +kernel
theorem witness_rounds_settled : (roundState 2).parkReady 0 = roundState 2 ∧ (roundState 2).alm.launches.foldl State.regionGone (roundState 2) = roundState 2 :=
  ⟨rfl, rfl⟩
/-- Queue 1 belongs to context 5 of tenant 1. -/
def shared : State := { State.reset with mem := { bytes := [(0x48, 9), (0x49, 0x50), (0x4A, 0x10)] } }
theorem witness_kicks :
    let up : State := { shared with boot := { shared.boot with released := true } }
    shared.boot.released = false ∧ up.boot.released = true ∧ (up.share 1)[(0 : Nat) / 8]? = some 1 ∧ (up.share 1)[(8 : Nat) / 8]? = none ∧ (4 : Nat) % 8 ≠ 0 ∧
    4 / 8 < (up.share 1).length := by decide +kernel
/-- A graph of two nodes of which the first is this one. -/
def gn (typ : Nat) (st : NodeState) : GNode :=
  { typ := typ, npred := 0, arm := false, succ := 2, st := st, addr := 0x10100,
    fields := le 8 0x10040 ++ le 8 0x10080 ++ le 4 0x00F40008 ++ le 4 0x05010000 ++ le 8 0x10000 ++ le 8 0x10004 ++ le 8 0 }
def graphOf (n : GNode) : Graph :=
  { id := 7, q := 1, idx := 0, tag := 1, ctx := 0, home := 0, maxit := 1, compl := 0, rcb := 0,
    nodes := [n, { gn 0 .idle with count := 1 }, gn 0 .running] }
def graphState (n : GNode) (ridx : Nat) : State := { one 1 (wrp []) with alm := { graphs := [graphOf n] }, mem := memoryOf (le 4 ridx) }
theorem witness_graph_nodes :
    ((List.range 4).all fun t => [NodeState.ready, .running, .idle].all fun st => (graphState (gn t st) 0).gnode? 7 0 == some (graphOf (gn t st), gn t st)) = true ∧
    okP ((graphState (gn 3 .ready) 0).condHolds (graphOf (gn 3 .ready)) (gn 3 .ready)) (fun _ => true) = true ∧
    (gn 0 .running).succ.getLsbD 0 = false ∧ (graphOf (gn 0 .running)).nodes[2]? = some (gn 0 .running) ∧ (gn 0 .running).succ.getLsbD 1 = true ∧
    (let n (r : Nat) : GNode := { gn 2 .running with rpos := BitVec.ofNat 32 r }
     okP ((graphState (n 16) 0).ringPlan (graphOf (n 16)) (n 16)) (fun x => x.isNone) = true ∧
     okP ((graphState (n 15) 0).ringPlan (graphOf (n 15)) (n 15)) (fun x => x.isSome) = true ∧
     (((ringWrites (n 15) (le 8 0) 16 1).foldl (fun (a : Option (Nat × Nat) × State) w => match a.1 with
       | some _ => a
       | none => a.2.vwrite (Who.almanac 0 0) 0 true w.1 w.2) (none, graphState (n 15) 0)).1.isNone) = true ∧
     ¬ bitsAt ((n 15).at_ 0x20 4) 20 8 ≤ (n 15).pend + 1) ∧
    (let n : GNode := { gn 2 .running with timer := some 5, pend := 1 }
     n.timer = some 5 ∧ 5 ≤ ({ graphState n 0 with now := 5 } : State).now ∧ n.pend ≠ 0 ∧ n.vec < 64 ∧ (graphState n 0).now < 5 ∧
       (graphOf n).nodes.any (fun m => m.st == .running) = true) := by decide +kernel
/-- A launch record that can be read; a HOSTRING's accesses that are held, its PEND that can be written and that is held, and its last record. -/
theorem witness_graph_accesses :
    let n : GNode := { gn 2 .running with rpos := 15, timer := some 0, pend := 14 }
    let blind : State := { graphState n 0 with iso := {} }
    let pend (s : State) : Option (Nat × Nat) := (s.vwrite (Who.almanac 0 0) 0 true (n.addr.toNat + 0x3C) (bytesOf 4 0)).1
    ((gn 0 .ready).at_ 0x10 8 % 64 = 0 ∧ okP ((graphState (gn 0 .ready) 0).almRead 0 0 ((gn 0 .ready).at_ 0x10 8) 512) (fun _ => true) = true) ∧
    (match blind.ringPlan (graphOf n) n with
      | .error e => heldKind e.1
      | .ok _ => false) = true ∧ (pend blind).any (fun e => heldKind e.1) = true ∧ (pend (graphState n 0)).isNone = true ∧
    bitsAt (n.at_ 0x20 4) 20 8 ≤ n.pend + 1 := by decide +kernel
/-- The last node of a graph, which completes, and one whose rearm was asked for. -/
theorem witness_last_node :
    let n : GNode := { gn 0 .running with succ := 0 }
    ([false, true].all fun rearm =>
      let x : Graph := { graphOf n with nodes := [n, { gn 0 .idle with count := 1 }, gn 1 .ended], rearm := rearm, maxit := 2 }
      let s : State := { graphState n 0 with alm := { graphs := [x] } }
      s.gnode? 7 0 == some (x, n) && x.failed.isNone && x.killed.isNone && (x.nodes.drop 1).all (fun m => m.st != .running && m.st != .ready) &&
        x.nodes.all (fun m => m.typ != 2) && decide (x.iter < x.maxit)) = true := by decide

/-- Lane 0 with the address `va` in v2 and 5 in v5, a page of 64 KiB at 0x10000, and these bytes of memory. -/
def wide_ (va : Word) (bs : SMap 8) : State :=
  { four va 0 0 5 with iso := { tlb := [{ page0 with size := 65536 }] }, mem := { bytes := bs } }
theorem wide_reads_line (va : Word) (bs : SMap 8) (w : Who) (h : w.ctx = 0) (line : Nat) (mask : LineMask) : (wide_ va bs).agentReadError w line mask = none := by
  have entry : (wide_ va bs).entryAt line evRead = smGet leaseTable.entries evRead := rfl
  have quiet : ¬ 9 ∈ entActs (smGet leaseTable.entries evRead) := by decide
  have read : (wide_ va bs).readError w line mask = none := by
    simp [State.readError, State.homeLost, State.windowAllows, windowPass, State.poisonHit, wide_, four, one, State.reset, h]
  have veil : (wide_ va bs).veiled w.die line false = false := rfl
  simp [State.agentReadError, veil, read, State.tableError, entry, quiet]
theorem wide_translates (va : Word) (bs : SMap 8) (i : Nat) (h : i < 65536) :
    (wide_ va bs).translate 0 0 true .read (0x10000 + i) = .ok { pa := 0x40000 + i, page := 65536, entry := none } := by
  have h1 : ¬ (2 ^ 56 ≤ 0x10000 + i) := by omega
  have h2 : 0x10000 + i < 0x10000 + 65536 := by omega
  simp only [State.translate, ge_iff_le, h1, if_false, wide_, page0, List.find?_cons, beq_self_eq_true, Bool.true_and, Nat.le_add_right, h2, and_self,
    decide_true]
  simp [permOk]
theorem wide_reads (va : Word) (bs : SMap 8) (w : Who) (h : w.ctx = 0) : ∀ (n i : Nat) (prev : Option Nat), i + n ≤ 65536 →
    (∀ p, prev = some p → p + 1 = 0x40000 + i) →
    (wide_ va bs).vread w 0 true .read prev (0x10000 + i) n = .ok ((List.range n).map fun j => (wide_ va bs).plainByte (0x40000 + i + j))
  | 0, _, _, _, _ => by simp [State.vread]
  | n + 1, i, prev, hn, hp => by
    have next := wide_reads va bs w h n (i + 1) (some (0x40000 + i)) (by omega) (by intro p e; cases e; rfl)
    have list : (List.range (n + 1)).map (fun j => (wide_ va bs).plainByte (0x40000 + i + j)) =
        (wide_ va bs).plainByte (0x40000 + i) :: (List.range n).map fun j => (wide_ va bs).plainByte (0x40000 + (i + 1) + j) := by
      rw [List.range_succ_eq_map, List.map_cons, List.map_map]
      have e : ((fun j => (wide_ va bs).plainByte (0x40000 + i + j)) ∘ Nat.succ) = fun j => (wide_ va bs).plainByte (0x40000 + (i + 1) + j) := by
        funext j
        exact congrArg (wide_ va bs).plainByte (show 0x40000 + i + (j + 1) = 0x40000 + (i + 1) + j by omega)
      rw [e]
      rfl
    have tr := wide_translates va bs i (by omega)
    have go (pa : Except (Nat × Nat) Nat) (e : pa = .ok (0x40000 + i)) : (match pa with
        | .error e => Except.error e
        | .ok pa => match (wide_ va bs).agentReadError w (lineOf pa) (byteMask (pa % 128) 1) with
          | some k => .error (k, 0x10000 + i)
          | none => match (wide_ va bs).vread w 0 true .read (some pa) (0x10000 + i + 1) n with
            | .ok bs_1 => .ok ((wide_ va bs).plainByte pa :: bs_1)
            | .error e => .error e) = .ok ((List.range (n + 1)).map fun j => (wide_ va bs).plainByte (0x40000 + i + j)) := by
      subst e
      simp only [wide_reads_line va bs w h, show 0x10000 + i + 1 = 0x10000 + (i + 1) by omega, next, list]
    rw [State.vread.eq_def]
    refine go _ ?_
    cases prev with
    | none => simp only [h, tr]
    | some p =>
      simp only [h, tr, hp p rfl]
      split <;> rfl
/-- A field of the bytes that a function gives. -/
theorem fieldAt_map (f : Nat → Byte) (m off n : Nat) (h : off + n ≤ m) :
    fieldAt ((List.range m).map f) off n = leOf ((List.range n).map fun j => f (off + j)) := by
  refine congrArg leOf (List.ext_getElem (by simp; omega) fun j h1 _ => ?_)
  simp at h1 ⊢
theorem ptableOf_map (f : Nat → Byte) :
    let at_ (off n : Nat) : Nat := leOf ((List.range n).map fun j => f (off + j))
    ptableOf ((List.range 8320).map f) =
    { nst := at_ 0 1, init := at_ 1 1, leasel := at_ 2 2,
      sdesc := (List.range 64).foldl (fun m i => smSet m i (BitVec.ofNat 8 (at_ (8 + i) 1))) [],
      entries := (List.range 1024).foldl (fun m i => smSet m i (BitVec.ofNat 64 (at_ (0x80 + 8 * i) 8))) [] } := by
  have ext {α β : Type} (g k : β → α → β) : ∀ (l : List α) (b : β), (∀ x ∈ l, ∀ b, g b x = k b x) → l.foldl g b = l.foldl k b := by
    intro l
    induction l with
    | nil => intros; rfl
    | cons x t ih => intro b h; simp only [List.foldl_cons]; rw [h x (by simp), ih _ fun y hy => h y (by simp [hy])]
  simp only [ptableOf, fieldAt_map f 8320 0 1 (by omega), fieldAt_map f 8320 1 1 (by omega), fieldAt_map f 8320 2 2 (by omega)]
  rw [ext _ (fun m i => smSet m i (BitVec.ofNat 8 (leOf ((List.range 1).map fun j => f (8 + i + j))))) (List.range 64) [] fun i h b => by
      rw [fieldAt_map f 8320 (8 + i) 1 (by rw [List.mem_range] at h; omega)],
    ext _ (fun m i => smSet m i (BitVec.ofNat 64 (leOf ((List.range 8).map fun j => f (0x80 + 8 * i + j))))) (List.range 1024) [] fun i h b => by
      rw [fieldAt_map f 8320 (0x80 + 8 * i) 8 (by rw [List.mem_range] at h; omega)]]
theorem wide_byte (va : Word) (bs : SMap 8) (pa : Nat) : (wide_ va bs).plainByte pa = smGet bs pa := by
  simp [State.plainByte, State.windowAt, State.rangeAt, State.byteNow, State.dirtyCopy, State.homeByte, wide_]
/-- A table of one state, whose sixteen events are defined and stay. -/
def tableByte (i : Nat) : Byte := if 0x80 ≤ i && i < 0x100 && i % 8 == 0 then 0x40 else 0
def tableMemory : SMap 8 := (List.range 16).map fun e => (0x40080 + 8 * e, 0x40)
theorem tableByte_above (i : Nat) (h : 0x100 ≤ i) : tableByte i = 0 := by
  have : ¬ i < 0x100 := by omega
  simp [tableByte, this]
theorem smGet_no_key {n : Nat} (m : SMap n) (a : Nat) (h : ∀ p ∈ m, p.1 ≠ a) : smGet m a = 0 := by
  induction m with
  | nil => rfl
  | cons p t ih =>
    obtain ⟨k, v⟩ := p
    rw [smGet, if_neg (h (k, v) (by simp)), ih fun q hq => h q (by simp [hq])]
theorem table_small : ptableOf ((List.range 8320).map tableByte) =
    { nst := 0, init := 0, leasel := 0, sdesc := [], entries := (List.range 16).map fun e => (e, 0x40) } := by
  have fold (k : Nat) (v : Nat → BitVec 64) (a : Nat) : smGet ((List.range k).foldl (fun m i => smSet m i (v i)) []) a = if a < k then v a else 0 := by
    have := smGet_foldl_range ([] : SMap 64) 0 k (fun _ => true) v a
    simpa [smGet] using this
  rw [ptableOf_map]
  have e : (List.range 1024).foldl (fun (m : SMap 64) i => smSet m i (BitVec.ofNat 64 (leOf ((List.range 8).map fun j => tableByte (0x80 + 8 * i + j))))) [] =
      (List.range 16).map fun e => (e, 0x40) := by
    refine smWf_ext (smWf_foldl _ _ (fun m i h => smWf_set h _ _) rfl) (by decide) fun a => ?_
    rw [fold]
    by_cases h : a < 16
    · rw [if_pos (by omega)]
      exact (by decide : ∀ a, a < 16 → BitVec.ofNat 64 (leOf ((List.range 8).map fun j => tableByte (0x80 + 8 * a + j))) =
        smGet ((List.range 16).map fun e => (e, (0x40 : BitVec 64))) a) a h
    · rw [smGet_no_key _ a (by simp; omega)]
      split
      · have (j : Nat) : tableByte (0x80 + 8 * a + j) = 0 := tableByte_above _ (by omega)
        simp only [this]
        decide
      · rfl
  simp only [e]
  congr 1
theorem table_passes : ptableStatus ((List.range 8320).map tableByte) = 0 := by
  simp only [ptableStatus, table_small, fieldAt_map tableByte 8320 4 4 (by omega), fieldAt_map tableByte 8320 0x48 56 (by omega)]
  decide +kernel
theorem table_read (w : Who) (h : w.ctx = 0) : (wide_ 0x10000 tableMemory).vread w 0 true .read none 0x10000 8320 = .ok ((List.range 8320).map tableByte) := by
  have same (j : Nat) : smGet tableMemory (0x40000 + j) = tableByte j := by
    by_cases h : j < 256
    · exact (by decide +kernel : ∀ j, j < 256 → smGet tableMemory (0x40000 + j) = tableByte j) j h
    · rw [tableByte_above j (by omega), smGet_no_key _ _ (by simp [tableMemory]; omega)]
  rw [wide_reads 0x10000 tableMemory w h 8320 0 none (by omega) (by simp)]
  refine congrArg _ (List.map_congr_left fun j hj => ?_)
  rw [wide_byte]
  exact same j
theorem table_fails : ptableStatus ((List.range 8320).map fun j => (wide_ 0x10000 [(0x40004, 1)]).plainByte (0x40000 + 0 + j)) ≠ 0 := by
  have four (f : Nat → Byte) (h : fieldAt ((List.range 8320).map f) 4 4 ≠ 0) : ptableStatus ((List.range 8320).map f) ≠ 0 := by
    simp [ptableStatus, h]
  refine four _ ?_
  rw [fieldAt_map _ 8320 4 4 (by omega)]
  simp only [wide_byte]
  decide
theorem witness_table_load :
    let o : Operands := { z with d := 6, a := 2, b := .reg 5 }
    let b (n : Nat) : Operands := { o with b := .imm (BitVec.ofNat 8 n) }
    wkLL (wide_ 0x10000 tableMemory) o (fun k => k.w.supIn k.f && lanesOf k.act == [0] && k.quiet && !k.s.retuning &&
      (srcA64 k.w o 0).toNat == 0x10000 && k.s.mem.ranges == [] && srcBn k.s k.f k.w o 0 == 5 && srcBn k.s k.f k.w (b 4) 0 == 4 &&
      srcBn k.s k.f k.w (b 15) 0 == 15 && srcBn k.s k.f k.w (b 16) 0 == 16) = true ∧
    wkLL (wide_ 0x10080 []) o (fun k => (srcA64 k.w o 0).toNat % 128 == 0) = true ∧
    wkLL (wide_ 0x10040 []) o (fun k => (srcA64 k.w o 0).toNat % 128 == 64) = true := by decide
/-- Nothing has been performed in these states, so catching up changes nothing. -/
theorem wide_catches_up (va : Word) (bs : SMap 8) : (wide_ va bs).catchUp 0 = wide_ va bs := rfl
theorem table_load_reads (va : Word) (bs : SMap 8) (w : Who) (h : w.ctx = 0) (i : Nat) (hi : i ≤ 128) :
    ∃ b, (wide_ va bs).vread w 0 true .read none (0x10000 + i) 8320 = .ok b := ⟨_, wide_reads va bs w h 8320 i none (by omega) (by simp)⟩

theorem witness_ranges :
    let d (lim opc : Nat) : List Byte := le 8 0x100000 ++ le 8 lim ++ le 16 (1 + 2 ^ 7 * opc)
    let o : Operands := { z with d := 6, a := 2, b := .reg 5 }
    let t (bs : List Byte) (rs : List RangeEntry) (p : Work → Bool) : Bool :=
      let s := over_ bs (four 0x10000 0 0 0)
      wkLL { s with mem := { s.mem with ranges := rs } } o fun k => k.w.supIn k.f && lanesOf k.act == [0] && k.quiet && !k.s.retuning &&
        okP ((k.s.catchUp (dieOf k.f.core)).vread (Who.front (k.s.ctxOf k.w) k.f) k.f.core (k.w.supIn k.f) .read none (srcA64 k.w o 0).toNat 32) (· == bs) &&
          p { k with s := k.s.catchUp (dieOf k.f.core) }
    let e : RangeEntry := (rangeOf (d 0x110000 0)).1
    let v : RangeEntry := { e with vwin := true }
    t (d 0x110000 0) [] (fun k => k.s.rangeStatus 0x10000 (d 0x110000 0) == 0 && k.s.mem.die == [] && k.s.mem.home == []) = true ∧
    ([e, v].all fun r => t (d 0x110000 1) [r] fun k => k.s.rangeStatus 0x10000 (d 0x110000 1) == 0 && (rangeOf (d 0x110000 1)).2 == 1 && k.s.mem.die == [] &&
      k.s.mem.home == [] && (k.s.mem.ranges.find? fun r => r.base == e.base && r.lim == e.lim) == some r) = true ∧
    t (d 0x100000 0) [] (fun k => k.s.rangeStatus 0x10000 (d 0x100000 0) == 0x0712) = true := by decide +kernel
theorem witness_link_forms :
    let o (c : Field) (n : BitVec 8) : Operands := { z with d := 6, b := .imm n, c := c }
    let t (o : Operands) (p : Work → Bool) : Bool := wkLL (one 1 (wrp [])) o fun k =>
      k.w.supIn k.f && lanesOf k.act == [0] && k.quiet && !k.s.retuning && k.s.ctxOf k.w == 0 && p k
    let b (k : Work) (o : Operands) : Nat := (srcBn k.s k.f k.w o 0).toNat
    t (o 7 0) (fun k => (k.s.link? 0 7).isNone) = true ∧
    ([0, 1, 5, 31, 33, 126].all fun n => t (o 6 n) fun k => (k.s.link? 0 6).any (fun x => !x.lost) && b k (o 6 n) == n.toNat) = true ∧
    t (o 6 0) (fun k => (k.s.link? 0 6).any fun x => (k.s.linkCounter 0 x 0).isSome && (k.s.linkCounter 0 x 0xFFF).isNone && decide (0 < linkLanes x.link)) = true ∧
    Config.ladder.contains 32 = true ∧ Config.ladder.contains 33 = false ∧ (33 : Nat) < 2 ^ 24 ∧
    (let s : State := { one 1 (wrp []) with links := { links := [{ die := 0, link := 6, lost := true }] } }
     wkLL s (o 6 0) (fun k => (k.s.link? 0 6).any Link.lost) = true) := by decide

theorem witness_commands :
    let s : State := { one 1 (wrp []) with saved := { draining := [(5, 0, 0)] } }
    s.isDraining 5 = true ∧ s.isDraining 6 = false ∧ s.iso.ctxtab.toNat % 4096 = 0 ∧ s.iso.tentab.toNat % 4096 = 0 ∧
    ({ s.iso with ctxtab := 8, tentab := 8 } : Iso).ctxtab.toNat % 4096 ≠ 0 ∧ (255 : Nat) < 256 ∧ (63 : Nat) < 64 := by decide
/-- A load of context 5 with nothing outstanding, one that waits for a request of the context, and the end of one. -/
theorem witness_context_loads :
    let mine (x : TlbOp) : Bool := x.cmd == 2 && x.ctx == some 5
    let s (done : Bool) (ops : List TlbOp) : State :=
      let x := asking { rq .read with ctx := 5, performed := done } 0 false
      { x with iso := { x.iso with invs := ops } }
    let op : TlbOp := { id := 4, ctx := some 5, lo := 0, hi := 2 ^ 64, wg := 0, sub := 0, reqs := [0], cmd := 2 }
    let base (x : State) : Bool := !x.isDraining 5 && x.iso.ctxtab.toNat % 4096 == 0 && x.grid.recs == []
    ([true, false].all fun d => base (s d []) && (s d []).mem.fab == [] && (s d []).mem.reqs.all (fun r => r.ctx == 5 && r.performed == d) &&
      ((s d []).req? 0).any fun r => r.id == 0 && r.vline < 2 ^ 64 && 0 < r.page) = true ∧
    ([true, false].all fun d => base (s d [op]) && (s d [op]).iso.invs.find? mine == some op && (s d [op]).invWaits op == !d) = true := by decide +kernel
/-- A save or resume descriptor: context, base and size. -/
def csDesc (op ctx base size : Nat) : List Byte := le 4 (op + 256 * ctx) ++ le 4 0 ++ le 8 base ++ le 8 size ++ le 40 0
def csTest (bs : List Byte) (f : State → State) (p : Work → Bool) : Bool :=
  let o : Operands := { z with d := 6, a := 2 }
  wkLL (f (over_ bs (four 0x10000 0 0 0))) o fun k =>
    let k0 : State := k.s.catchUp (dieOf k.f.core)
    k.w.supIn k.f && lanesOf k.act == [0] && k.quiet && k.s.ctxOf k.w == 0 &&
      okP (k0.vread (Who.front 0 k.f) k.f.core (k.w.supIn k.f) .read none (srcA64 k.w o 0).toNat 64) (· == bs) &&
      okP (k0.vtargets (Who.front 0 k.f) k.f.core (k.w.supIn k.f) .write none ((srcA64 k.w o 0).toNat + 0x18) 16) (fun _ => true) &&
      (srcA64 k.w o 0).toNat == 0x10000 && p { k with s := k0 }
def cs5 (k : Work) (op : Nat) (p : SaveDesc → Bool) : Bool :=
  let d := saveDesc (csDesc op 5 0x80000 0)
  k.s.saveParamBad 0x10000 d == false && d.op == op && d.ctx == 5 && p d
theorem witness_saves :
    csTest (csDesc 0 0 0x80000 0) id (fun k => k.s.saveParamBad 0x10000 (saveDesc (csDesc 0 0 0x80000 0))) = true ∧
    csTest (csDesc 0 5 0x80000 0) id (fun k => cs5 k 0 fun _ => k.s.saved.draining == [] && !k.s.ctxWorks 5) = true ∧
    csTest (csDesc 0 5 0x80000 (2 ^ 64 - 1)) id (fun k => !k.s.saveParamBad 0x10000 (saveDesc (csDesc 0 5 0x80000 (2 ^ 64 - 1)))) = true ∧
    csTest (csDesc 0 5 0x80000 (2 ^ 64 - 1)) (fun s => { s with alm := { s.alm with launches := s.alm.launches ++ [{ lnc with id := 9, ctx := 5 }] } }) (fun k =>
      !k.s.saveParamBad 0x10000 (saveDesc (csDesc 0 5 0x80000 (2 ^ 64 - 1))) && k.s.saved.draining == [] && k.s.ctxWorks 5 && !k.s.ctxSaved 5) = true ∧
    csTest (csDesc 0 5 0x80000 0) (fun s => { s with saved := { draining := [(5, 9, 0)] } }) (fun k => cs5 k 0 fun _ =>
      (k.s.saved.draining.find? fun x => x.1 == 5) == some (5, 9, k.w.wg) && k.s.isDraining 5 && (k.s.drainCtx 5).ctxQuiet 5 && k.s.fe.wgs.length == 1) = true ∧
    csTest (csDesc 1 5 0x80000 0) (fun s => { s with saved := { draining := [(5, 9, 0)] } }) (fun k => cs5 k 1 fun _ => k.s.isDraining 5) = true ∧
    csTest (csDesc 1 5 0x80000 0) id (fun k => cs5 k 1 fun d => !k.s.isDraining 5 && !k.s.ctxWorks 5 && (k.s.imageAt 5 d.ibase).isNone) = true ∧
    (let g : Image := { ctx := 5, base := 0x80000, serial := 0, size := 0, wgs := [], launches := [{ lnc with ctx := 5, tag := 2 }], graphs := [], recs := [], running := [] }
     csTest (csDesc 1 5 0x80000 0) (fun s => { s with saved := { images := [g] } }) (fun k => cs5 k 1 fun d =>
       !k.s.isDraining 5 && !k.s.ctxWorks 5 && k.s.imageAt 5 d.ibase == some g && (k.s.alm.launches.map Launch.tag ++ k.s.alm.graphs.map Graph.tag) == [1]) = true) := by
  decide +kernel
theorem witness_image_size (n : Nat) : 0 < Config.imageBytes n ∧ Config.imageBytes n ≤ 2 ^ 64 - 1 :=
  ⟨Nat.lt_of_lt_of_le Nat.zero_lt_one (Nat.le_max_left _ _), Nat.max_le.mpr ⟨by omega, Nat.le_sub_one_of_lt (BitVec.isLt _)⟩⟩

theorem witness_invalidates :
    let o : Operands := { z with d := 6, a := 2, b := .reg 4 }
    let t (s : State) (p : Nat → Nat → Nat → Bool) : Bool := wk s o fun k => k.w.supIn k.f && lanesOf k.act == [0] && !k.f.grid &&
      p (srcA64 k.w o 0).toNat ((srcBn k.s k.f k.w o 0).toNat % 256) ((srcBn k.s k.f k.w o 0).toNat / 256)
    t (four 0x10000 0 0 0) (fun a n c => a == 0x10000 && n == 0 && c == 0) = true ∧ t (four 0x10000 0 0x1FF 0) (fun a n c => a % 4096 == 0 && n == 255 && c == 1) = true ∧
    t (four 0x10008 0 0x100 0) (fun a _ c => a % 4096 != 0 && c == 1) = true ∧ t (four 0 0x01000000 0x100 0) (fun a _ _ => a == 2 ^ 56) = true ∧
    t (inCtx (four 0 0 6 0) 5) (fun _ n _ => n != 5) = true ∧ wk (inCtx (four 0 0 6 0) 5) o (fun k => k.s.ctxOf k.w == 5) = true ∧
    wk (four 0 0 0 0) o (fun k => (k.s.parkedAt k.f.core (k.s.ctxOf k.w) ((k.a o 0).toNat % 2 ^ 31)).isNone && k.s.grid.recs == []) = true := by decide
theorem witness_tlbsync :
    let s (done : Bool) : State :=
      let x := asking { rq .read with performed := done } 0 false
      { x with iso := { x.iso with invs := [{ id := 4, ctx := none, lo := 0, hi := 1, wg := 0, sub := 0, reqs := [0] }] } }
    let t (done : Bool) : Bool := wkLL (s done) { z with d := 6 } fun k => k.w.supIn k.f && lanesOf k.act == [0] &&
      (k.s.iso.invs.filter fun x => x.wg == k.w.wg && x.sub == k.w.sub).all (fun x => x.reqs == [0] && !x.lost) && (k.s.req? 0).any fun r => r.performed == done
    t true = true ∧ t false = true := by decide

theorem witness_grid_forms :
    let f (pk : BitVec 4) : Focus := { fcs 0xF with grid := true, pk := pk, masks := [3, 12, 0, 0], midxs := [1, 0, 0, 0] }
    let s (pk : BitVec 4) : State := { one 0xF (wrp []) with focus := some (f pk) }
    (([3, 7] : List (BitVec 4)).all fun pk => (s pk).focus == some (f pk) && (s pk).warp? 0 0 == some (wrp []) && (f pk).grid) = true ∧ (fcs 1).grid = false ∧
    wk (four 9 0 0 0) { z with d := 6, a := 2, b := .reg 4, ty := .n32 } (fun k => srcBn k.s k.f k.w { z with b := .reg 4, ty := .n32 } 0 == 0) = true := by decide

/-- A handler entry of a record. -/
def handOf (i : Instr) (midx cell : Nat) : List Byte :=
  le 8 (((encode i).map BitVec.toNat).getD 0) ++ le 4 0 ++ le 4 0 ++ le 8 0x8800 ++ le 4 (midx + 256 * cell) ++ le 4 0
/-- A record of nine handlers: a sum whose result goes to port 1 of cell 0; a read that is a drain point and is guarded out; a read of q2; a store; a load;
a grid-only sum; a branch to the head; a read that is a drain point; a store that releases. -/
def gridBytes : List Byte :=
  le 12 0 ++ le 4 0x40 ++ le 2 8 ++ le 4 0 ++ le 2 9 ++ le 12 0 ++ le 4 0xE0 ++ le 0xB8 0 ++
    handOf (.iadd { z with d := 2, a := 4, b := .imm 1, ty := .n32 }) 0 0 ++
    handOf (.srd { z with d := 2, a := 0x10, ty := .n32, guard := { neg := true, p := 7 } }) 0 1 ++ handOf (.mov { z with d := 2, a := 2, ty := .n32, qa := true }) 0 2 ++
    handOf (.st .one { z with d := 2, a := 4, b := .imm 0, ty := .n32 }) 0 3 ++ handOf (.ld .one { z with d := 2, a := 4, b := .imm 0, ty := .n32 }) 1 4 ++
    handOf (.gred .addN32 { z with d := 2, a := 4, b := .reg 5, ty := .n32 }) 0 5 ++ handOf (.bra { z with b := .imm 0 }) 0 6 ++
    handOf (.srd { z with d := 2, a := 0x10, ty := .n32 }) 0 7 ++
    handOf (.st .one { z with d := 2, a := 4, b := .imm 0, ty := .n32, mod := 2, sc := .dev }) 2 8
def gcfg : GCfg := { core := 0, half := 1, ctx := 0, head := 0x1000, entry := 0x1000, bytes := gridBytes }
def giter : GIter := { id := 6, core := 0, half := 1, slot := 0, level := 0, ord := 0, tag := some 0, mask := 0xF, opened := true }
def grun : GRun := { core := 0, slot := 0, half := 1, ctx := 0 }
def gridState (i : GIter) (chans : List GChan) : State :=
  { one 0xF (ported { bound := true }) with grid := { cfgs := [gcfg], iters := [i], runs := [grun], chans := chans } }
/-- The token of handler 0 to port 1 of itself. -/
def gtok : GTok := { iter := 6, src := 0, dst := 0x8800, mask := 0xF }
theorem witness_grid_fires :
    let s := gridState giter []
    let hs := s.handsOf gcfg giter
    let fate (h : GHand) : Fate := h.fate gridBytes gcfg.heads (s.kmap 0 0)
    s.gcfg? 0 1 = some gcfg ∧ s.giter? 6 = some giter ∧ GRec.argUsed gridBytes = false ∧ gcfg.marks = [] ∧ hs.length = 9 ∧
    hs.zipIdx.all (fun x => (hs.find? fun y => y.hdie == x.1.hdie && y.cell == x.1.cell && y.hidx == x.1.hidx) == some x.1 &&
      x.1.cell < 64 && s.ready gcfg giter x.1 && !x.1.isOpen && (x.2 == 2) == s.fireHeldUp gcfg giter x.1 && (x.2 == 5) == decide (0xE0 ≤ x.1.op) &&
      !s.storeFull (gcfg.coreAt x.1.hdie, x.1.cell) && (giter.at? x.1.key 2).isNone) = true ∧
    (([0, 5] : List Nat).all fun n => (hs[n]?).any fun h => fate h == .arith && !h.isMem && !h.ops.qa &&
      (s.runPlaced gcfg giter h (s.fireOf gcfg giter h (giter.fireMask h) none)).trap.isNone && !(s.ready gcfg { giter with fired := [n] } h)) = true ∧
    (([1, 7] : List Nat).all fun n => (hs[n]?).any fun h =>
      fate h == .drain && (h.actOf (s.predsFor gcfg giter h) (giter.fireMask h) == 0) == (n == 1)) = true ∧
    (hs[6]?).any (fun h => fate h == .steer) = true := by
  decide +kernel
theorem witness_tokens :
    let ch (t : GTok) : GChan := { id := 8, core := 0, half := 1, src := 0, out := 0, toks := [t] }
    let full : GIter := { giter with present := [(1, 0xF, 0)] }
    ((gridState giter [ch gtok]).deliverTok gcfg gtok).isSome = true ∧ ((gridState full [ch gtok]).deliverTok gcfg gtok).isNone = true ∧
    ((gridState giter [ch gtok]).grid.chans.find? fun x => x.core == 0 && x.id == 8) = some (ch gtok) ∧ gtok.kind = 0 := by decide +kernel
/-- Commits: of a plain store, one that an address not yet fired holds, one whose channel is full, and one that releases. -/
theorem witness_commits :
    let w (k : Nat) : GWrite := { key := k, midx := 0, mask := 0xF, regs := [], preds := [] }
    let i (k : Nat) (fired : List Nat) : GIter := { giter with writes := [w k], fired := fired, mark := some 7 }
    let look (s : State) (i : GIter) : Bool := ((s.unchecked i).findSome? fun y => (s.commitFault gcfg y).map fun z => (y, z)).isSome
    let t (k : Nat) (fired : List Nat) (chans : List GChan) (fault full rel : Bool) : Bool :=
      let s := gridState (i k fired) chans
      s.canCommit gcfg (i k fired) && (i k fired).nextWrite == some (w k) && look s (i k fired) == fault && !s.olderThan 0 0 7 &&
        ((GRec.hands gridBytes)[k]?).any fun h => s.chanFull gcfg h == full && h.releases == rel
    let all := List.range 9
    t 3 all [] false false false = true ∧ t 3 [0, 1, 2, 3, 5, 6, 7, 8] [] true false false = true ∧
    t 3 all [{ id := 8, core := 0, half := 1, src := 3, out := 0, toks := [gtok, gtok] }] false true false = true ∧ t 8 all [] false false true = true ∧
    (gridState giter []).canCommit gcfg giter = false ∧ (gridState giter []).canRetire gcfg giter = false := by decide +kernel
theorem witness_retire_and_drain :
    (let j : GIter := { giter with taken := some 0, fired := List.range 9 }
     (gridState j []).canRetire gcfg j = true ∧ (gridState j []).warp? 0 0 = some (ported { bound := true })) ∧
    (let i : GIter := { giter with committing := true }
     (gridState i []).oldestIter 0 0 = some i ∧ i.mustFinish = true ∧ (gridState i []).grun? 0 0 = some grun) ∧
    grun.handler = none ∧ ({ grun with handler := some (6, 4) } : GRun).handler.isSome = true ∧
    ((gridState giter []).oldestIter 0 0).any (fun x => !x.mustFinish) = true := by decide +kernel
/-- Replies of a load: held back by an older store, given, and one whose address names nothing. -/
theorem witness_replies :
    let t (fired : List Nat) (lo hi : Word) (p : State → GIter → GHand → GReply → Bool) : Bool :=
      let r : GReply := { id := 9, key := 4, midx := 1, mask := 1, regs := [(128, lo), (160, hi)].filter fun x => x.2 != 0, preds := [] }
      let j : GIter := { giter with replies := [r], fired := fired }
      let s := gridState j []
      (s.grid.iters.find? fun j => j.replies.any fun r => r.id == 9) == some j && (j.replies.find? fun r => r.id == 9) == some r && j.parked == [] &&
        !j.committing && ((GRec.hands gridBytes)[4]?).any fun h => !isRel h.ops && !h.acquires && !s.chanFull gcfg h && p s j h r
    t [] 0 0 (fun s j h r => s.replyBlocked gcfg j h r) = true ∧
    t (List.range 9) 0x10000 0 (fun s j h r => !s.replyBlocked gcfg j h r && s.olderStores gcfg j r.midx == [] && (s.runPlaced gcfg j h r.fire).wait == 0 &&
      (s.runPlaced gcfg j h r.fire).trap.isNone) = true ∧
    t (List.range 9) 0 0x01000000 (fun s j h r => !s.replyBlocked gcfg j h r && (s.runPlaced gcfg j h r.fire).wait == 0 &&
      (s.runPlaced gcfg j h r.fire).trap.any fun x => !parks x.1 x.2) = true := by decide +kernel
/-- A record of one handler, for a loop of 8 words at the entry, with this many tags. -/
def goodRec (tags : Nat) : List Byte :=
  le 4 1 ++ le 4 320 ++ le 4 0 ++ le 4 0x40 ++ le 2 8 ++ le 4 0 ++ le 2 1 ++ le 4 0xE0 ++ le 8 0 ++ le 4 0x100 ++ le 24 0 ++ le 2 tags ++ le 190 0 ++
    le 8 (((encode (.iadd { z with d := 2, a := 4, b := .reg 5, ty := .n32 })).map BitVec.toNat).getD 0) ++ le 4 0 ++ le 4 0x80 ++ le 8 0 ++ le 4 (256 * 8) ++ le 36 0
/-- Workgroup 0 has its loop at 0x10000 in placement. -/
def placingState (rs : List PlaceRec) : State :=
  { one 1 (wrp []) with grid := { placing := [{ wg := 0, head := 0x10000, ctx := 0, entry := 0x10000 }], recs := rs }, mem := atClause.mem }
def goodPlace (tags : Nat) (c : Option Nat) : PlaceRec := { ctx := 0, head := 0x10000, entry := 0x10000, status := c, bytes := goodRec tags }
/-- Both configurations of the core hold others' loops, with iterations. -/
def fullCore (s : State) : State := { s with grid := { s.grid with
  cfgs := [{ gcfg with half := 0, head := 8 }, { gcfg with head := 16 }], iters := [{ giter with half := 0 }, giter],
  runs := [{ core := 0, slot := 0, half := 1, ctx := 0 }, { core := 0, slot := 1, half := 0, ctx := 0 }] } }
theorem witness_placement :
    let s := placingState
    let p : GPlacing := { wg := 0, head := 0x10000, ctx := 0, entry := 0x10000 }
    (s []).inPlace 0 0x10000 = true ∧ (s []).inPlace 0 0x10008 = false ∧ ((s []).wg? 0).isSome = true ∧ ((s []).grid.placing.find? fun p => p.wg == 0 && p.head == 0x10000) = some p := by decide +kernel
/-- A record that passes its checks, with room for its tags and frames and without; one that does not pass. -/
theorem witness_records :
    let s1 (others : List GCfg) : State := let s := (placingState []).placed 0 0x10000
      { s with grid := { s.grid with cfgs := others } }
    let room (others : List GCfg) : Option Bool := ((s1 others).emptyHalf 0).map fun x => (x.2.gridPlace 0 (goodRec 200)).isSome
    let others : GCfg := { gcfg with half := 0, bytes := goodRec 900 }
    let status (others : List GCfg) (b : List Byte) : Nat :=
      let s := s1 others
      s.recStatus 0 0 0x10000 0x10000 [] [] b (s.clauseHeads 0 0 0x10000 (0x10000 + GRec.bodyb b) (GRec.bodyb b + 1) 0x10000)
    status [] (goodRec 200) = 0 ∧ room [] = some true ∧ status [others] (goodRec 200) = 0 ∧ room [others] = some false ∧ (status [] gridBytes == 0) = false := by decide +kernel
theorem witness_arming :
    let s (c : Option Nat) (n : Nat) : State := placingState [goodPlace n c]
    let armed (s : State) (n : Nat) : Option Nat := (s.arm 0 (goodPlace n none) (s.taghOf 0)).map Prod.fst
    (s none 4).placeRec 0 0x10000 = some (goodPlace 4 none) ∧ (s (some 0x0A01) 4).placeRec 0 0x10000 = some (goodPlace 4 (some 0x0A01)) ∧
    (armed (s none 4) 4).isSome = true ∧ armed (s none 2000) 2000 = none ∧ armed (fullCore (s none 4)) 4 = none := by decide +kernel
theorem witness_stall :
    let s (c : GCfg) (runs : List GRun) : State := { gridState giter [] with now := 9, grid := { cfgs := [c], iters := [giter], runs := runs } }
    let at_ (n : Nat) : GCfg := { gcfg with stall := n, counting := true }
    ([([], 0), ([grun], 65526), ([grun], 65527)].all fun x => let c := at_ x.2
      (s c x.1).gcfg? 0 1 == some c && (s c x.1).cfgBusy c == !x.1.isEmpty && decide (65536 ≤ c.stall + ((s c x.1).now - c.mark)) == (x.2 == 65527)) = true := by
  decide +kernel
theorem witness_links :
    let l : Link := { die := 0, link := 6, expect := 5, seen := 6, laneErrs := [(3, 63)], winReplay := 257 }
    let s (l : Link) : State := { one 1 (wrp []) with links := { links := [l] } }
    (s l).link? 0 6 = some l ∧ l.lost = false ∧ l.waking = false ∧ (∀ x ∈ l.laneErrs, x.2 < 64) ∧ l.rth < l.winReplay ∧ l.rate ∈ Config.ladder ∧
    ({ l with winReplay := 256 } : Link).winReplay ≤ l.rth ∧ ({ l with target := some 24, waiters := [3] } : Link).waiters ≠ [] ∧
    (s { l with waking := true }).link? 0 6 = some { l with waking := true } := by decide
theorem witness_storage :
    let s := one 1 (wrp [])
    (s.link? (s.homeOf 0x40000 / 4) (s.homeOf 0x40000 % 4)).isSome = true ∧ s.warp? 0 0 = some (wrp []) ∧ (s.wg? (wrp []).wg).isSome = true ∧
    (s.fe.wgs.filter fun g => g.core == 0 && g.id == 0) = [loadedWg] ∧ s.gcfg? 0 1 = none ∧ (gridState giter []).gcfg? 0 1 = some gcfg := by decide +kernel
theorem witness_boot : State.reset.boot.released = false ∧ ({ State.reset.boot with released := true } : Boot).released = true := ⟨rfl, rfl⟩
theorem witness_boot_checks (image : List Byte) (secver : Word) :
    bootCheck image secver = 0 ∨ bootCheck image secver = 0x0D01 ∨ bootCheck image secver = 0x0D02 ∨ bootCheck image secver = 0x0D03 ∨ bootCheck image secver = 0x0D04 := by
  unfold bootCheck
  split
  · simp
  · split
    · simp
    · split
      · simp
      · split <;> simp
theorem witness_requests :
    let at_ (n stage : Nat) : State := { State.reset with boot := { released := true, spdm := stage, measures := List.replicate n 0 } }
    fieldAt [0x10, 0x84, 0, 0] 1 1 = 0x84 ∧ fieldAt [0x12, 0xE1, 0, 0] 1 1 = 0xE1 ∧ ([0x10, 0x84, 0, 0] : List Byte).length = 4 ∧ (at_ 5 3).boot.spdm = 3 ∧
    (let req : List Byte := [0x12, 0xE3] ++ List.replicate 30 0
     fieldAt req 1 1 = 0xE3 ∧ 32 ≤ req.length) ∧
    (let req : List Byte := [0x12, 0x82] ++ List.replicate 6 0
     fieldAt req 1 1 = 0x82 ∧ fieldAt req 2 1 = 0 ∧ fieldAt req 4 2 ≤ Config.certChain.length ∧ 8 ≤ req.length) ∧
    (let req : List Byte := [0x12, 0x83] ++ List.replicate 34 0
     fieldAt req 1 1 = 0x83 ∧ fieldAt req 2 1 = 0 ∧ 36 ≤ req.length) ∧
    ([0, 5, 0xFF] : List Byte).all (fun n => let req : List Byte := [0x12, 0xE0, 0, n]
      fieldAt req 1 1 == 0xE0 && (fieldAt req 3 1 ≤ 5 || fieldAt req 3 1 == 0xFF) && req.length == 4) = true :=
  ⟨by decide, by decide, by decide, rfl, by decide, ⟨by decide, by decide, Nat.zero_le _, by decide⟩, by decide, by decide⟩

end Sys2Proof.Tests
end

section
/-!
SUPPORT. The values of the logic, shift and bit forms, and of the compare and move forms (05 R110 to R123), bit by bit or as numbers, at every width.
-/
namespace Sys2Proof

-- Bit vectors given by their bits ------------------------------------------------------------------------------------------------------------

@[simp] theorem getLsbD_bitsOf (n : Nat) (f : Nat → Bool) (j : Nat) : (bitsOf n f).getLsbD j = (decide (j < n) && f j) := by
  induction n with
  | zero => simp [bitsOf]
  | succ n ih =>
    rw [bitsOf, BitVec.getLsbD_cons, ih]
    by_cases hj : j = n
    · simp [hj]
    · simp [hj, show j < n + 1 ↔ j < n by omega]

/-- The number that two words side by side stand for. -/
theorem toNat_append_word (hi lo : Word) : (hi ++ lo : DWord).toNat = hi.toNat * 2 ^ 32 + lo.toNat := by
  rw [BitVec.toNat_append, ← Nat.shiftLeft_add_eq_or_of_lt lo.isLt, Nat.shiftLeft_eq]

/-- Byte `i` of a word, as a number and as eight of its bits. -/
theorem byte_toNat (x : Word) (i : Nat) : x.toNat / 2 ^ (8 * i) % 256 = (x.extractLsb' (8 * i) 8).toNat := by
  rw [BitVec.extractLsb'_toNat, Nat.shiftRight_eq_div_pow]

-- Shifts (R112, R113) ------------------------------------------------------------------------------------------------------------------------

/-- shl is the product with 2^n, kept to the width. -/
theorem shlV_eq {n : Nat} (hn : n ≤ 64) (x : DWord) (c : Nat) :
    (if c < n then BitVec.ofNat 64 (x.toNat * 2 ^ c) else 0).setWidth n = shlV (x.setWidth n) c := by
  unfold shlV
  split
  · rw [BitVec.setWidth_ofNat_of_le hn]
    apply BitVec.eq_of_toNat_eq
    simp [Nat.shiftLeft_eq]
  · simp

/-- shr is the quotient by 2^n. -/
theorem shrV_eq {n : Nat} (hn : n ≤ 64) {x : DWord} (hx : x.toNat < 2 ^ n) (c : Nat) :
    (if c < n then BitVec.ofNat 64 (x.toNat / 2 ^ c) else 0).setWidth n = shrV (x.setWidth n) c := by
  unfold shrV
  split
  · rw [BitVec.setWidth_ofNat_of_le hn]
    apply BitVec.eq_of_toNat_eq
    have hq : x.toNat / 2 ^ c < 2 ^ n := lt_of_le_of_lt (Nat.div_le_self _ _) hx
    simp [Nat.shiftRight_eq_div_pow, Nat.mod_eq_of_lt hx, Nat.mod_eq_of_lt hq]
  · simp

/-- sar fills with the top bit, for counts beyond the width too. -/
theorem getLsbD_sarV {n : Nat} (a : BitVec n) (c : Nat) {j : Nat} (hj : j < n) :
    (sarV a c).getLsbD j = a.getLsbD (if j + c < n then j + c else n - 1) := by
  unfold sarV
  rw [BitVec.getLsbD_sshiftRight, BitVec.msb_eq_getLsbD_last]
  by_cases hc : j + c < n
  · simp [hc, Nat.min_eq_left (show c ≤ n by omega), Nat.add_comm c j, Nat.not_le.2 hj]
  · simp [hc, show ¬ min c n + j < n by omega, Nat.not_le.2 hj]

/-- rotl moves bit j to bit j + c, around the width. -/
theorem getLsbD_rotlV {n : Nat} (a : BitVec n) (c : Nat) {j : Nat} (hj : j < n) : (rotlV a c).getLsbD ((j + c) % n) = a.getLsbD j := by
  have hr : c % n < n := Nat.mod_lt _ (by omega)
  have hjc : (j + c) % n = if j + c % n < n then j + c % n else j + c % n - n := by
    rw [Nat.add_mod, Nat.mod_eq_of_lt hj]
    split
    · exact Nat.mod_eq_of_lt ‹_›
    · rw [Nat.mod_eq_sub_mod (by omega), Nat.mod_eq_of_lt (by omega)]
  rw [rotlV, BitVec.getLsbD_rotateLeft, Nat.mod_mod, hjc]
  split
  · simp [*]
  · simp [show j + c % n - n < c % n by omega, show n - c % n + (j + c % n - n) = j by omega]

/-- fshl keeps the high word of the shifted pair. -/
theorem fshlV_eq (a b c : Word) :
    fshlV a b c = BitVec.ofNat 32 (((c.toNat * 2 ^ 32 + a.toNat) * 2 ^ min b.toNat 32) % 2 ^ 64 / 2 ^ 32) := by
  apply BitVec.eq_of_toNat_eq
  rw [fshlV, BitVec.extractLsb'_toNat, BitVec.toNat_shiftLeft, toNat_append_word, Nat.shiftLeft_eq, Nat.shiftRight_eq_div_pow,
    BitVec.toNat_ofNat]

-- Bit fields and counts (R114, R115) ---------------------------------------------------------------------------------------------------------

theorem bfeV_zero (sgn : Bool) (a : Word) (p : Nat) : bfeV sgn a p 0 = 0 := rfl

theorem foldl_add_toNat (p : Nat → Bool) (l : List Nat) (t : Nat) : l.foldl (fun t j => t + (p j).toNat) t = t + (l.filter p).length := by
  induction l generalizing t with
  | nil => rfl
  | cons j l ih =>
    rw [List.foldl_cons, ih, List.filter_cons]
    cases p j <;> simp [Nat.add_assoc, Nat.add_comm 1]

/-- popc is the number of bit positions that are set. -/
theorem popcV_eq {n : Nat} (a : BitVec n) : popcV a = ((List.range n).filter fun j => a.getLsbD j).length := by
  rw [popcV, foldl_add_toNat, Nat.zero_add]

theorem clzV_zero (n : Nat) : clzV (0 : BitVec n) = n := if_pos rfl

/-- clz of a value other than 0: below the zeros that it counts stands a set bit. -/
theorem clzV_spec {n : Nat} {a : BitVec n} (ha : a ≠ 0) :
    clzV a < n ∧ a.getLsbD (n - 1 - clzV a) = true ∧ ∀ j, n - 1 - clzV a < j → j < n → a.getLsbD j = false := by
  have h0 : a.toNat ≠ 0 := fun h => ha (BitVec.eq_of_toNat_eq (by simpa using h))
  have hlog : a.toNat.log2 < n := (Nat.log2_lt h0).2 a.isLt
  have htop : n - 1 - clzV a = a.toNat.log2 := by rw [clzV, if_neg ha]; omega
  refine ⟨by rw [clzV, if_neg ha]; omega, ?_, fun j hj _ => ?_⟩
  · rw [htop]; exact Nat.testBit_log2 h0
  · rw [htop] at hj
    exact Nat.testBit_lt_two_pow ((Nat.log2_lt h0).1 hj)

theorem ctzV_zero (n : Nat) : ctzV (0 : BitVec n) = n := by
  rw [ctzV, List.find?_eq_none.2 (by simp), Option.getD_none]

/-- ctz of a value other than 0: above the zeros that it counts stands a set bit. -/
theorem ctzV_spec {n : Nat} {a : BitVec n} (ha : a ≠ 0) :
    ctzV a < n ∧ a.getLsbD (ctzV a) = true ∧ ∀ j, j < ctzV a → a.getLsbD j = false := by
  cases hf : (List.range n).find? fun j => a.getLsbD j with
  | none =>
    refine absurd (BitVec.eq_of_getLsbD_eq fun j hj => ?_) ha
    simpa using List.find?_eq_none.1 hf j (List.mem_range.2 hj)
  | some i =>
    obtain ⟨hi, hm, hlow⟩ := List.find?_range_eq_some.1 hf
    rw [show ctzV a = i by rw [ctzV, hf]; rfl]
    exact ⟨List.mem_range.1 hm, hi, fun j hj => by simpa using hlow j hj⟩

theorem getLsbD_brevV {n : Nat} (a : BitVec n) {j : Nat} (hj : j < n) : (brevV a).getLsbD j = a.getLsbD (n - 1 - j) := by
  rw [brevV, BitVec.getLsbD_reverse, BitVec.getMsbD, decide_eq_true hj, Bool.true_and]

-- The byte permute (R116) --------------------------------------------------------------------------------------------------------------------

/-- Byte `i` of the result of bperm. -/
def bpermByte (a b c : Word) (i : Nat) : Byte :=
  let z := b.extractLsb' (4 * i) 4
  let v := (c ++ a : DWord).extractLsb' (8 * (z.extractLsb' 0 3).toNat) 8
  if z.getLsbD 3 then (if v.getLsbD 7 then 0xFF else 0x00) else v

theorem bpermV_eq (a b c : Word) : bpermV a b c = bpermByte a b c 3 ++ bpermByte a b c 2 ++ bpermByte a b c 1 ++ bpermByte a b c 0 := rfl

/-- Byte `i` of four bytes side by side. -/
theorem extract_append_bytes (f : Nat → Byte) {i : Nat} (hi : i < 4) :
    (f 3 ++ f 2 ++ f 1 ++ f 0 : Word).extractLsb' (8 * i) 8 = f i := by
  apply BitVec.eq_of_getLsbD_eq
  intro j hj
  interval_cases i <;> simp only [BitVec.getLsbD_extractLsb', BitVec.getLsbD_append] <;> grind

/-- The selector nibble picks one of eight bytes, or that byte's sign. -/
theorem bpermByte_toNat (a b c : Word) (i : Nat) :
    let z : Nat := (b.toNat / 2 ^ (4 * i)) % 16
    let byte : Nat := ((c.toNat * 2 ^ 32 + a.toNat) / 2 ^ (8 * (z % 8))) % 256
    (bpermByte a b c i).toNat = if z < 8 then byte else if byte ≥ 128 then 0xFF else 0 := by
  have hz : (b.extractLsb' (4 * i) 4).toNat = b.toNat / 2 ^ (4 * i) % 16 := by
    rw [BitVec.extractLsb'_toNat, Nat.shiftRight_eq_div_pow]
  have top4 (x : BitVec 4) : x.getLsbD 3 = decide (8 ≤ x.toNat) := (BitVec.msb_eq_getLsbD_last x).symm.trans (BitVec.msb_eq_decide x)
  have top8 (x : BitVec 8) : x.getLsbD 7 = decide (128 ≤ x.toNat) := (BitVec.msb_eq_getLsbD_last x).symm.trans (BitVec.msb_eq_decide x)
  simp only [bpermByte, top4, top8, hz, apply_ite BitVec.toNat, BitVec.extractLsb'_toNat, toNat_append_word, Nat.shiftRight_eq_div_pow,
    decide_eq_true_eq, Nat.pow_zero, Nat.div_one, Nat.reducePow]
  split
  · rw [if_neg (show ¬ _ < 8 by omega)]; rfl
  · rw [if_pos (show _ < 8 by omega)]

/-- bperm builds its result byte by byte. -/
theorem bpermV_byte (a b c : Word) {i : Nat} (hi : i < 4) :
    let z : Nat := (b.toNat / 2 ^ (4 * i)) % 16
    let byte : Nat := ((c.toNat * 2 ^ 32 + a.toNat) / 2 ^ (8 * (z % 8))) % 256
    (bpermV a b c).toNat / 2 ^ (8 * i) % 256 = if z < 8 then byte else if byte ≥ 128 then 0xFF else 0 := by
  rw [byte_toNat, bpermV_eq, extract_append_bytes _ hi]
  exact bpermByte_toNat a b c i

-- Compares, combinations of predicates, and movi (R117, R120, R122) -------------------------------------------------------------------------

/-- The comparison of two integers that icmp names. -/
def CmpOp.holds (op : CmpOp) (x y : Int) : Bool :=
  match op with
  | .eq => x = y
  | .ne => x ≠ y
  | .lt => x < y
  | .le => x ≤ y
  | .gt => x > y
  | .ge => x ≥ y

theorem icmpTrue_eq (op : CmpOp) (sgn : Bool) {n : Nat} (a b : BitVec n) : icmpTrue op sgn a b = op.holds (extend sgn a) (extend sgn b) := by
  cases op with
  | eq => exact beq_eq_decide _ _
  | ne => exact (congrArg (!·) (beq_eq_decide _ _)).trans (decide_not).symm
  | lt | le | gt | ge => rfl

/-- The combination of two predicates that psetp names (R122). -/
def PsetOp.combine (op : PsetOp) (a b : Bool) : Bool :=
  match op with
  | .and => a && b
  | .or => a || b
  | .xor => a != b
  | .andn => a && !b

theorem getLsbD_ff (j : Nat) : (0xFF#32).getLsbD j = decide (j < 8) := by
  rw [show (0xFF#32) = (BitVec.allOnes 8).setWidth 32 from rfl, BitVec.getLsbD_setWidth, BitVec.getLsbD_allOnes, ← Bool.decide_and]
  exact decide_eq_decide.2 (by omega)

/-- movi replaces eight bits. -/
theorem getLsbD_moviV (d : Word) (imm : Field) (c : Nat) {j : Nat} (hj : j < 32) :
    (moviV d imm c).getLsbD j = if 8 * c ≤ j ∧ j < 8 * c + 8 then imm.getLsbD (j - 8 * c) else d.getLsbD j := by
  simp only [moviV, BitVec.getLsbD_or, BitVec.getLsbD_and, BitVec.getLsbD_not, BitVec.getLsbD_shiftLeft, BitVec.getLsbD_setWidth, getLsbD_ff, hj,
    show j - 8 * c < 32 by omega, decide_true, Bool.true_and]
  by_cases hlo : j < 8 * c
  · simp [hlo]
  · by_cases hin : j - 8 * c < 8
    · simp [hlo, hin, show 8 * c ≤ j ∧ j < 8 * c + 8 by omega]
    · simp [hlo, hin, show ¬ j < 8 * c + 8 by omega, BitVec.getLsbD_of_ge imm (j - 8 * c) (by omega)]

/-- movi replaces byte `c`, and no other. -/
theorem moviV_byte (d : Word) (imm : Field) (c : Nat) {i : Nat} (hi : i < 4) :
    (moviV d imm c).toNat / 2 ^ (8 * i) % 256 = if i = c then imm.toNat else d.toNat / 2 ^ (8 * i) % 256 := by
  rw [byte_toNat, byte_toNat, ← apply_ite BitVec.toNat]
  congr 1
  apply BitVec.eq_of_getLsbD_eq
  intro j hj
  rw [BitVec.getLsbD_extractLsb', decide_eq_true hj, Bool.true_and, getLsbD_moviV _ _ _ (by omega)]
  split
  · rw [if_pos (by omega), show 8 * i + j - 8 * c = j by omega]
  · rw [if_neg (by omega), BitVec.getLsbD_extractLsb', decide_eq_true hj, Bool.true_and]

end Sys2Proof
end

section
/-!
SUPPORT. What the drivers of the scalar forms put into the destination (05 R105): one lemma for each shape of form, at the width of the form's type.
-/
namespace Sys2Proof.Machine
variable {s : State} {o : Operands} {k : Work}

-- Operands as wide as the form's type --------------------------------------------------------------------------------------------------------

theorem wideOf_wide (hw : o.ty.bits = 64) : wideOf o = 64 := if_pos hw
theorem wideOf_narrow (hw : o.ty.bits ≠ 64) : wideOf o = 32 := if_neg hw
theorem wideOf_le (o : Operands) : wideOf o ≤ 64 := by
  unfold wideOf
  split <;> omega

theorem Work.aw_wide (hw : o.ty.bits = 64) (l : Nat) : k.aw o l = srcA64 k.w o l := if_pos hw
theorem Work.bw_wide (hw : o.ty.bits = 64) (l : Nat) : k.bw o l = srcB64 k.s k.f k.w o l := if_pos hw
theorem Work.aw_narrow (hw : o.ty.bits ≠ 64) (l : Nat) : (k.aw o l).setWidth 32 = srcA32 k.f k.w o l := by
  rw [Work.aw, if_neg hw, BitVec.setWidth_setWidth_of_le _ (by omega), BitVec.setWidth_eq, Work.a]
theorem Work.bw_narrow (hw : o.ty.bits ≠ 64) (l : Nat) : (k.bw o l).setWidth 32 = srcB32 k.s k.f k.w o l := by
  rw [Work.bw, if_neg hw, BitVec.setWidth_setWidth_of_le _ (by omega), BitVec.setWidth_eq, Work.b]

/-- A source of the form's type is a number of that width. -/
theorem Work.aw_lt (k : Work) (o : Operands) (l : Nat) : (k.aw o l).toNat < 2 ^ wideOf o := by
  by_cases hw : o.ty.bits = 64
  · rw [wideOf_wide hw]; exact (k.aw o l).isLt
  · rw [wideOf_narrow hw, Work.aw, if_neg hw, BitVec.toNat_setWidth_of_le (by omega)]; exact (k.a o l).isLt

/-- Kept to the form's width it is not 0 where it was not. -/
theorem Work.setWidth_aw_ne {l : Nat} (h : k.aw o l ≠ 0) : (k.aw o l).setWidth (wideOf o) ≠ 0 := fun h0 => h <| BitVec.eq_of_toNat_eq <| by
  simpa [Nat.mod_eq_of_lt (k.aw_lt o l)] using congrArg BitVec.toNat h0

theorem getLsbD_setWidth_wide (x : DWord) {j : Nat} (hj : j < wideOf o) : (x.setWidth (wideOf o)).getLsbD j = x.getLsbD j := by
  rw [BitVec.getLsbD_setWidth, decide_eq_true hj, Bool.true_and]

theorem getLsbD_widened (x : BitVec (wideOf o)) {j : Nat} (hj : j < wideOf o) : (x.setWidth 64 : DWord).getLsbD j = x.getLsbD j := by
  rw [BitVec.getLsbD_setWidth, decide_eq_true (Nat.lt_of_lt_of_le hj (wideOf_le o)), Bool.true_and]

theorem setWidth_widened (x : BitVec (wideOf o)) : (x.setWidth 64 : DWord).setWidth (wideOf o) = x := by
  rw [BitVec.setWidth_setWidth_of_le _ (wideOf_le o), BitVec.setWidth_eq]

theorem extOf_eq (o : Operands) (x : DWord) : extOf o x = extend o.ty.signed (x.setWidth (wideOf o)) := by
  by_cases hw : o.ty.bits = 64
  · rw [wideOf_wide hw, BitVec.setWidth_eq, extOf, if_pos hw, extend]
  · rw [wideOf_narrow hw, extOf, if_neg hw, extend]

theorem is64_eq (o : Operands) : (is64 o = true) = (o.ty.bits = 64) := propext beq_iff_eq

-- What a form puts into its destination ------------------------------------------------------------------------------------------------------

section
variable (h : s.work o = some k)
include h

/-- A form of 32 or 64 bits by its type: whatever it computes at each width from A and B, any 64-bit value whose low bits at the form's width are
that result says what it writes. -/
theorem typed_work (g : (n : Nat) → State → Focus → Warp → Nat → BitVec n → BitVec n → BitVec n) {v : Nat → DWord}
    (hv : ∀ l, (v l).setWidth (wideOf o) = g _ k.s k.f k.w l ((k.aw o l).setWidth (wideOf o)) ((k.bw o l).setWidth (wideOf o))) :
    (if is64 o then lane64 o (fun s f w l => g 64 s f w l (srcA64 w o l) (srcB64 s f w o l)) s
      else lane32 o (fun s f w l => g 32 s f w l (srcA32 f w o l) (srcB32 s f w o l)) s) = k.put o v := by
  simp only [is64_eq, Work.put]
  split
  · rename_i hw
    rw [lane64_work h]
    refine congrArg (k.put64 o) (funext fun l => ?_)
    have hl := hv l
    rw [wideOf_wide hw, BitVec.setWidth_eq, BitVec.setWidth_eq, BitVec.setWidth_eq, Work.aw_wide hw, Work.bw_wide hw] at hl
    exact hl.symm
  · rename_i hw
    rw [lane32_work h]
    refine congrArg (k.put32 o) (funext fun l => ?_)
    have hl := hv l
    rw [wideOf_narrow hw, Work.aw_narrow hw, Work.bw_narrow hw] at hl
    exact hl.symm

theorem unary_work (g : {n : Nat} → BitVec n → BitVec n) {v : Nat → DWord}
    (hv : ∀ l, (v l).setWidth (wideOf o) = g ((k.aw o l).setWidth (wideOf o))) : unary o g s = k.put o v :=
  typed_work h (fun _ _ _ _ _ a _ => g a) hv

theorem binary_work (g : {n : Nat} → BitVec n → BitVec n → BitVec n) {v : Nat → DWord}
    (hv : ∀ l, (v l).setWidth (wideOf o) = g ((k.aw o l).setWidth (wideOf o)) ((k.bw o l).setWidth (wideOf o))) : binary o g s = k.put o v :=
  typed_work h (fun _ _ _ _ _ a b => g a b) hv

theorem shifted_work (g : {n : Nat} → BitVec n → Nat → BitVec n) {v : Nat → DWord}
    (hv : ∀ l, (v l).setWidth (wideOf o) = g ((k.aw o l).setWidth (wideOf o)) (k.n o l)) : shifted o g s = k.put o v :=
  typed_work h (fun _ s f w l a _ => g a (srcBn s f w o l).toNat) hv

theorem counted_work (g : {n : Nat} → BitVec n → Nat) :
    counted o g s = k.put32 o fun l => BitVec.ofNat 32 (g ((k.aw o l).setWidth (wideOf o))) := by
  refine (lane32_work h _).trans (congrArg (k.put32 o) (funext fun l => congrArg _ ?_))
  by_cases hw : o.ty.bits = 64
  · rw [if_pos ((is64_eq o).mpr hw), wideOf_wide hw, BitVec.setWidth_eq, Work.aw_wide hw]
  · rw [if_neg (mt (is64_eq o).mp hw), wideOf_narrow hw, Work.aw_narrow hw]

end

end Sys2Proof.Machine
end

section
/-!
Results of the logic, shift and bit forms (05 R110 to R116).
-/
namespace Sys2Proof.Machine
variable {s : State} {o : Operands} {k : Work}

-- Logic (R110, R111) -------------------------------------------------------------------------------------------------------------------------

section
variable (h : s.work o = some k)
include h

theorem exec_andB : exec (.andB o) s = .next (k.put o fun l => k.aw o l &&& k.bw o l) :=
  congrArg Host.Outcome.next (binary_work h (· &&& ·) fun _ => BitVec.setWidth_and)

theorem exec_orB : exec (.orB o) s = .next (k.put o fun l => k.aw o l ||| k.bw o l) :=
  congrArg Host.Outcome.next (binary_work h (· ||| ·) fun _ => BitVec.setWidth_or)

theorem exec_xorB : exec (.xorB o) s = .next (k.put o fun l => k.aw o l ^^^ k.bw o l) :=
  congrArg Host.Outcome.next (binary_work h (· ^^^ ·) fun _ => BitVec.setWidth_xor)

theorem exec_notB : exec (.notB o) s = .next (k.put o fun l => ~~~(k.aw o l)) :=
  congrArg Host.Outcome.next (unary_work h (~~~·) fun _ => BitVec.setWidth_not (wideOf_le o))

theorem exec_tern : exec (.tern o) s = .next (k.put32 o fun l => ternV (k.a o l) (k.b o l) (k.d o l) o.c) :=
  congrArg Host.Outcome.next (lane32_work h _)

-- Shifts and rotates (R112, R113) ------------------------------------------------------------------------------------------------------------

theorem exec_shl :
    exec (.shl o) s = .next (k.put o fun l => if k.n o l < wideOf o then BitVec.ofNat 64 ((k.aw o l).toNat * 2 ^ k.n o l) else 0) :=
  congrArg Host.Outcome.next (shifted_work h shlV fun _ => shlV_eq (wideOf_le o) _ _)

theorem exec_shr :
    exec (.shr o) s = .next (k.put o fun l => if k.n o l < wideOf o then BitVec.ofNat 64 ((k.aw o l).toNat / 2 ^ k.n o l) else 0) :=
  congrArg Host.Outcome.next (shifted_work h shrV fun l => shrV_eq (wideOf_le o) (k.aw_lt o l) _)

theorem exec_sar : exec (.sar o) s = .next (k.put o fun l => (sarV ((k.aw o l).setWidth (wideOf o)) (k.n o l)).setWidth 64) :=
  congrArg Host.Outcome.next (shifted_work h sarV fun _ => setWidth_widened _)

theorem exec_rotl : exec (.rotl o) s = .next (k.put o fun l => (rotlV ((k.aw o l).setWidth (wideOf o)) (k.n o l)).setWidth 64) :=
  congrArg Host.Outcome.next (shifted_work h rotlV fun _ => setWidth_widened _)

theorem exec_fshl : exec (.fshl o) s = .next (k.put32 o fun l => fshlV (k.a o l) (k.b o l) (k.c o l)) :=
  congrArg Host.Outcome.next (lane32_work h _)

-- Bit fields, counts, reversal and the byte permute (R114 to R116) ---------------------------------------------------------------------------

theorem exec_bfe : exec (.bfe o) s = .next (k.put32 o fun l => bfeV o.ty.signed (k.a o l) (k.n o l) o.c.toNat) :=
  congrArg Host.Outcome.next (lane32_work h _)

theorem exec_bfi : exec (.bfi o) s = .next (k.put32 o fun l => bfiV (k.a o l) (k.d o l) (k.n o l) o.c.toNat) :=
  congrArg Host.Outcome.next (lane32_work h _)

theorem exec_popc :
    exec (.popc o) s = .next (k.put32 o fun l => BitVec.ofNat 32 (popcV ((k.aw o l).setWidth (wideOf o)))) :=
  congrArg Host.Outcome.next (counted_work h popcV)

theorem exec_clz : exec (.clz o) s = .next (k.put32 o fun l => BitVec.ofNat 32 (clzV ((k.aw o l).setWidth (wideOf o)))) :=
  congrArg Host.Outcome.next (counted_work h clzV)

theorem exec_ctz : exec (.ctz o) s = .next (k.put32 o fun l => BitVec.ofNat 32 (ctzV ((k.aw o l).setWidth (wideOf o)))) :=
  congrArg Host.Outcome.next (counted_work h ctzV)

theorem exec_brev : exec (.brev o) s = .next (k.put o fun l => (brevV ((k.aw o l).setWidth (wideOf o))).setWidth 64) :=
  congrArg Host.Outcome.next (unary_work h brevV fun _ => setWidth_widened _)

theorem exec_bperm : exec (.bperm o) s = .next (k.put32 o fun l => bpermV (k.a o l) (k.b o l) (k.c o l)) :=
  congrArg Host.Outcome.next (lane32_work h _)

end

-- The values, as numbers of the form's width and bit by bit ----------------------------------------------------------------------------------

theorem getLsbD_sar_aw (k : Work) (o : Operands) (l : Nat) {j : Nat} (hj : j < wideOf o) :
    ((sarV ((k.aw o l).setWidth (wideOf o)) (k.n o l)).setWidth 64 : DWord).getLsbD j
      = (k.aw o l).getLsbD (if j + k.n o l < wideOf o then j + k.n o l else wideOf o - 1) := by
  rw [getLsbD_widened _ hj, getLsbD_sarV _ _ hj, getLsbD_setWidth_wide]
  split <;> omega

theorem getLsbD_rotl_aw (k : Work) (o : Operands) (l : Nat) {j : Nat} (hj : j < wideOf o) :
    ((rotlV ((k.aw o l).setWidth (wideOf o)) (k.n o l)).setWidth 64 : DWord).getLsbD ((j + k.n o l) % wideOf o) = (k.aw o l).getLsbD j := by
  rw [getLsbD_widened _ (Nat.mod_lt _ (by omega)), getLsbD_rotlV _ _ hj, getLsbD_setWidth_wide _ hj]

theorem getLsbD_brev_aw (k : Work) (o : Operands) (l : Nat) {j : Nat} (hj : j < wideOf o) :
    ((brevV ((k.aw o l).setWidth (wideOf o))).setWidth 64 : DWord).getLsbD j = (k.aw o l).getLsbD (wideOf o - 1 - j) := by
  rw [getLsbD_widened _ hj, getLsbD_brevV _ hj, getLsbD_setWidth_wide _ (by omega)]

theorem popc_aw (k : Work) (o : Operands) (l : Nat) :
    popcV ((k.aw o l).setWidth (wideOf o)) = ((List.range (wideOf o)).filter fun j => (k.aw o l).getLsbD j).length := by
  rw [popcV_eq]
  exact congrArg List.length (List.filter_congr fun j hj => getLsbD_setWidth_wide _ (List.mem_range.1 hj))

theorem clz_aw_zero {l : Nat} (hz : k.aw o l = 0) : clzV ((k.aw o l).setWidth (wideOf o)) = wideOf o := by
  simpa [hz] using clzV_zero (wideOf o)

theorem ctz_aw_zero {l : Nat} (hz : k.aw o l = 0) : ctzV ((k.aw o l).setWidth (wideOf o)) = wideOf o := by
  simpa [hz] using ctzV_zero (wideOf o)

theorem clz_aw {l : Nat} (hz : k.aw o l ≠ 0) :
    let z := clzV ((k.aw o l).setWidth (wideOf o))
    z < wideOf o ∧ (k.aw o l).getLsbD (wideOf o - 1 - z) = true ∧ ∀ j, wideOf o - 1 - z < j → j < wideOf o → (k.aw o l).getLsbD j = false := by
  obtain ⟨hlt, hset, hclear⟩ := clzV_spec (Work.setWidth_aw_ne hz)
  refine ⟨hlt, ?_, fun j hlo hj => ?_⟩
  · rwa [getLsbD_setWidth_wide _ (by omega)] at hset
  · rw [← getLsbD_setWidth_wide _ hj]; exact hclear j hlo hj

theorem ctz_aw {l : Nat} (hz : k.aw o l ≠ 0) :
    let z := ctzV ((k.aw o l).setWidth (wideOf o))
    z < wideOf o ∧ (k.aw o l).getLsbD z = true ∧ ∀ j, j < z → (k.aw o l).getLsbD j = false := by
  obtain ⟨hlt, hset, hclear⟩ := ctzV_spec (Work.setWidth_aw_ne hz)
  refine ⟨hlt, ?_, fun j hj => ?_⟩
  · rwa [getLsbD_setWidth_wide _ hlt] at hset
  · rw [← getLsbD_setWidth_wide _ (hj.trans hlt)]; exact hclear j hj

/-- Settles O17: each form's result is the value function of its rule, and those functions are known bit by bit. -/
theorem bitForms : Obligations.BitForms := by
  unfold Obligations.BitForms
  refine ⟨fun s o k h => ⟨exec_andB h, exec_orB h, exec_xorB h, exec_notB h, _, exec_tern h, fun l j hj => ?tern⟩,
    fun s o k h => ⟨exec_shl h, exec_shr h, ⟨_, exec_sar h, fun l j hj => getLsbD_sar_aw k o l hj⟩,
      ⟨_, exec_rotl h, fun l j hj => getLsbD_rotl_aw k o l hj⟩, ?fshl⟩,
    fun s o k h => ⟨⟨_, exec_bfe h, fun l => ⟨fun hc => ?bfeZero, fun hc => ?bfe⟩⟩, ⟨_, exec_bfi h, fun l j hj => ?bfi⟩, ?popc,
      ⟨_, exec_clz h, fun l => ⟨clz_aw_zero, clz_aw⟩⟩, ⟨_, exec_ctz h, fun l => ⟨ctz_aw_zero, ctz_aw⟩⟩,
      ⟨_, exec_brev h, fun l j hj => getLsbD_brev_aw k o l hj⟩, ⟨_, exec_bperm h, fun l i hi => bpermV_byte _ _ _ hi⟩⟩⟩
  case tern => rw [ternV, getLsbD_bitsOf, decide_eq_true hj, Bool.true_and]
  case fshl => simpa only [fshlV_eq] using exec_fshl h
  case bfeZero => rw [hc]; exact bfeV_zero _ _ _
  case bfe =>
    intro field j hj
    have hlen : o.c.toNat ≠ 0 := fun h0 => hc (BitVec.eq_of_toNat_eq h0)
    simp only [bfeV, if_neg hlen, getLsbD_bitsOf, decide_eq_true hj, Bool.true_and, field]
  case bfi => rw [bfiV, getLsbD_bitsOf, decide_eq_true hj, Bool.true_and]
  case popc => simpa only [popc_aw] using exec_popc h

end Sys2Proof.Machine
end

section
/-!
Results of the compare, select, move and predicate forms (05 R117 to R123).
-/
namespace Sys2Proof.Machine
variable {s : State} {o : Operands} {k : Work}

-- Predicates written one after another -------------------------------------------------------------------------------------------------------

/-- A write of a predicate changes predicates alone. -/
theorem Warp.setPred_frame (w : Warp) (m : LaneMask) (p : Nat) (v : Nat → Bool) (ps : SMap 32) :
    { w.setPred m p v with preds := ps } = { w with preds := ps } := by
  unfold Warp.setPred
  split <;> rfl

/-- The warp in which each listed predicate that a mask names has been written (R123). -/
def Warp.setPreds (w : Warp) (m : LaneMask) (mask : Field) (v : Nat → Nat → Bool) (ps : List Nat) : Warp :=
  ps.foldl (fun w' p => if mask.getLsbD p then w'.setPred m p (v p) else w') w

theorem Warp.setPreds_cons (w : Warp) (m : LaneMask) (mask : Field) (v : Nat → Nat → Bool) (p : Nat) (ps : List Nat) :
    w.setPreds m mask v (p :: ps) = (if mask.getLsbD p then w.setPred m p (v p) else w).setPreds m mask v ps := rfl

theorem Warp.setPreds_frame (w : Warp) (m : LaneMask) (mask : Field) (v : Nat → Nat → Bool) (ps : List Nat) (x : SMap 32) :
    { w.setPreds m mask v ps with preds := x } = { w with preds := x } := by
  induction ps generalizing w with
  | nil => rfl
  | cons p ps ih =>
    rw [Warp.setPreds_cons]
    by_cases hm : mask.getLsbD p = true
    · rw [if_pos hm, ih, Warp.setPred_frame]
    · rw [if_neg hm, ih]

/-- Each predicate that is listed and named by the mask has its new value in the lanes of the write, and the others are as they were. -/
theorem Warp.pred_setPreds (w : Warp) (m : LaneMask) (mask : Field) (v : Nat → Nat → Bool) (ps : List Nat) {p l : Nat} (hp : p ≠ 7) (hl : l < 32) :
    (w.setPreds m mask v ps).pred l p = if p ∈ ps ∧ mask.getLsbD p = true ∧ m.getLsbD l = true then v p l else w.pred l p := by
  induction ps generalizing w with
  | nil => simp [Warp.setPreds]
  | cons q ps ih =>
    rw [Warp.setPreds_cons, ih]
    by_cases hm : mask.getLsbD q = true
    · rw [if_pos hm, Warp.pred_setPred _ _ _ _ _ _ hl]
      by_cases hq : p = q
      · subst hq
        by_cases ha : m.getLsbD l = true <;> simp [hm, hp, ha]
      · simp [hq]
    · rw [if_neg hm]
      by_cases hq : p = q
      · subst hq; simp [hm]
      · simp [hq]

-- Compare, select and move (R117 to R121) ----------------------------------------------------------------------------------------------------

section
variable (h : s.work o = some k)
include h

theorem exec_icmp (op : CmpOp) :
    exec (.icmp op o) s = .next (k.putP o fun l => op.holds (extOf o (k.aw o l)) (extOf o (k.bw o l))) := by
  refine congrArg Host.Outcome.next ((laneP_work h _).trans (congrArg (k.putP o) (funext fun l => ?_)))
  simp only [is64_eq, icmpTrue_eq, extOf_eq]
  split
  · rename_i hw
    rw [wideOf_wide hw, BitVec.setWidth_eq, BitVec.setWidth_eq, Work.aw_wide hw, Work.bw_wide hw]
  · rename_i hw
    rw [wideOf_narrow hw, Work.aw_narrow hw, Work.bw_narrow hw]

theorem exec_sel : exec (.sel o) s = .next (k.put o fun l => if k.w.pred l o.c.toNat then k.aw o l else k.bw o l) :=
  congrArg Host.Outcome.next (typed_work h (fun _ _ _ w l a b => if w.pred l o.c.toNat then a else b) fun _ => apply_ite _ _ _ _)

theorem exec_mov : exec (.mov o) s = .next (k.put o fun l => k.aw o l) :=
  congrArg Host.Outcome.next (unary_work h (fun a => a) fun _ => rfl)

theorem exec_movi : exec (.movi o) s = .next (k.put32 o fun l => moviV (k.d o l) o.b.field o.c.toNat) :=
  congrArg Host.Outcome.next (lane32_work h _)

theorem exec_movk_k {i : Field} (hb : o.b = .k i) : exec (.movk o) s = .next (k.put32 o fun _ => k.s.kreg k.w i.toNat) := by
  refine congrArg Host.Outcome.next ((lane32_work h _).trans ?_)
  simp only [hb]

theorem exec_movk_reg {r : Field} (hb : o.b = .reg r) :
    exec (.movk o) s = .next (k.put32 o fun l => k.s.kreg k.w ((k.w.reg l r.toNat).toNat % 64)) := by
  refine congrArg Host.Outcome.next ((lane32_work h _).trans ?_)
  simp only [hb]

-- Predicates and registers (R122, R123) ------------------------------------------------------------------------------------------------------

theorem exec_psetp (op : PsetOp) {p : Field} (hb : o.b = .reg p) :
    exec (.psetp op o) s = .next (k.putP o fun l => op.combine (k.w.pred l o.a.toNat) (k.w.pred l p.toNat)) := by
  refine congrArg Host.Outcome.next ((laneP_work h _).trans ?_)
  rw [hb]
  cases op <;> rfl

theorem exec_p2v : exec (.p2v o) s = .next (k.put32 o fun l => bitsOf 32 fun j => decide (j < 7) && k.w.pred l j) :=
  congrArg Host.Outcome.next (lane32_work h _)

theorem exec_v2p : exec (.v2p o) s = .next (k.s.setWarp (k.w.setPreds k.act o.b.field (fun p l => (k.a o l).getLsbD p) (List.range 7))) :=
  congrArg Host.Outcome.next (withSources_work h _)

end

/-- Settles O18: each form's result is the value function of its rule; v2p writes the predicates of its mask one after another. -/
theorem compareAndMove : Obligations.CompareAndMove := by
  unfold Obligations.CompareAndMove
  refine ⟨fun s o k h => ⟨exec_icmp h .eq, exec_icmp h .ne, exec_icmp h .lt, exec_icmp h .le, exec_icmp h .gt, exec_icmp h .ge, exec_sel h,
      exec_mov h, fun v hb hc => ⟨_, exec_movi h, fun l i hi => ?movi⟩, fun i hb => exec_movk_k h hb, fun r hb => exec_movk_reg h hb⟩,
    fun s o k h => ⟨fun p hb => ⟨exec_psetp h .and hb, exec_psetp h .or hb, exec_psetp h .xor hb, exec_psetp h .andn hb⟩,
      ⟨_, exec_p2v h, fun l j hj => ?p2v⟩, fun m hb => ⟨_, exec_v2p h, Warp.setPreds_frame _ _ _ _ _ _, fun p l hp hl => ?v2p⟩⟩⟩
  case movi => rw [hb]; exact moviV_byte _ _ _ hi
  case p2v => rw [getLsbD_bitsOf, decide_eq_true hj, Bool.true_and]
  case v2p =>
    rw [Warp.pred_setPreds _ _ _ _ _ (by omega) hl, hb]
    simp [hp, BOp.field]

end Sys2Proof.Machine
end
